-- ==== Sys2Proof/Word.lean ====
section
/-! DEFINITION. The words the manual computes with, and the fixed banks that hold one value for each of a fixed number of
like things (streams, contexts, ports, counters). -/

namespace Sys2Proof

/-- One byte of a cell (00_scope.md, "Byte and bit order"). -/
abbrev Byte := BitVec 8

/-- A stream sequence number, compared modulo 65536 (00_scope.md, "Sequence comparison"). -/
abbrev Seq := BitVec 16

/-- A Link Clock time in microseconds, compared modulo 2^32 (00_scope.md, "Time comparison"). -/
abbrev Time := BitVec 32

/-- A station epoch, compared only for equality (R16). -/
abbrev Epoch := BitVec 8

abbrev StreamId := Fin 256
abbrev ContextId := Fin 64
abbrev PortId := Fin 8
abbrev ChannelId := Fin 4

/-- One value for each of `n` like things. -/
abbrev Bank (n : Nat) (α : Type) := Vector α n

namespace Bank

variable {n : Nat} {α : Type}

/-- The value of the `i`-th thing. -/
def look (b : Bank n α) (i : Fin n) : α := b[i.val]

/-- The bank with the `i`-th thing's value replaced. -/
def put (b : Bank n α) (i : Fin n) (x : α) : Bank n α := Vector.set b i.val x i.isLt

@[simp] theorem look_put_self (b : Bank n α) (i : Fin n) (x : α) : (put b i x).look i = x := by
  simp [look, put]

theorem look_put_ne (b : Bank n α) {i j : Fin n} (x : α) (h : j ≠ i) : (put b i x).look j = look b j := by
  have hv : i.val ≠ j.val := fun e => h (Fin.ext e.symm)
  simp [look, put, hv]

/-- A read after a write, at any two places. -/
theorem look_put (b : Bank n α) (i j : Fin n) (x : α) :
    (put b i x).look j = if j = i then x else look b j := by
  split
  · next h => subst h; simp
  · next h => exact look_put_ne b x h

@[simp] theorem look_replicate (i : Fin n) (x : α) : look (Vector.replicate n x) i = x := by
  simp [look]

end Bank

end Sys2Proof
end

