-- ==== Sys2Proof/Config.lean ====
section
/-! DEFINITION. The sizes and constants the manual fixes for every LK260, and the values it leaves open. -/

namespace Sys2Proof.Config

/-- Buffers in the pool, numbered 0 to 8191 (section 1.7). -/
def poolSize : Nat := 8192

/-- An allocation of the admission class is granted when the free count is greater than this (R9). -/
def mediaThreshold : Fin 4 → Nat
  | 0 => 16
  | 1 => 64
  | 2 => 256
  | 3 => 512

/-- BUFFER_LOW is raised when a granted allocation takes the free count from this value down by one (R12). -/
def bufferLowMark : Nat := 512

/-- Cells in a port's ingress FIFO (R37). -/
def ingressDepth : Nat := 16

/-- Entries in a lane's control queue (R61). -/
def controlDepth : Nat := 8

/-- Entries in a port's egress FIFO (R134). -/
def egressDepth : Nat := 512

/-- Requests in the agent's queue (R161). -/
def requestDepth : Nat := 4

/-- Ticks of 1 ms after which the peer report record is stale (R89). -/
def staleAge : Nat := 300

/-- The 250 ms ticks after which an idle pooled context is detached (R114). -/
def contextAge : Nat := 3

/-- Microseconds within which a further STRIKE pulse is merged into the last counted one (R122). -/
def strikeMerge : Nat := 1000

/-- By how much an AUTO hold falls at one tick at most, in microseconds (R110). -/
def holdFall : Nat := 8

/-- Sequences in one loss declaration at most (R104). -/
def lossPiece : Nat := 32

/-- From this offset on, a sequence ahead of the window is a resync (R98). -/
def resyncOffset : Nat := 4096

/-- Nesting of firings within one event. A firing nests another only where it sets a clear flag (23 sources, none is cleared
within a firing) or is served or merged by one of four channels, so this depth is never used up (log 6). -/
def firingDepth : Nat := 128

/-- A byte the manual leaves open, the `k`-th drawn (log 7). It has no body: nothing can be proved of its value. -/
opaque openByte : Nat → Byte

/-- A 16-bit value the manual leaves open, the `k`-th drawn (log 7). -/
opaque openWord : Nat → BitVec 16

end Sys2Proof.Config
end

