-- ==== Sys2Proof/Syntax.lean ====
section
/-! DEFINITION. The commands: one constructor for each row of spec/opcode_table.json, in the table's order. -/

namespace Sys2Proof

/-- The three transmission paths of a link (00_scope.md, "Terms"). -/
inductive Lane where
  | a | b | c
  deriving DecidableEq, Repr

/-- The two full-rate optical lanes, the ones with a TXFAULT input (R55). -/
inductive OpticalLane where
  | a | b
  deriving DecidableEq, Repr

/-- The steps of the part, each whole and indivisible (95_what_each_step_holds.md). A step that serves a management request
works on the head of the agent's request queue and has no operand (log 3). -/
inductive Instr where
  /-- RESETN is released with the STATION strap at the given address (R36). -/
  | powerOnReset (strap : Fin 2)
  /-- The 1 ms tick of the Link Clock (R15). -/
  | tick1ms
  /-- The age of the peer report record reaches 300 ms (R89). -/
  | peerReportStale
  /-- An errored interval of the lane closes (R81). -/
  | erroredIntervalClose (lane : Lane)
  /-- A probe becomes due on the lane (R64). -/
  | probeDue (lane : Lane)
  /-- The strike timer reaches 0 (R124). -/
  | strikeTimerExpiry
  /-- The deadline tick of the pending drain arrives (R28). -/
  | drainTimeout
  /-- The queued count of the draining stream has reached 0 (R27). -/
  | drainCompletion
  /-- The 250 ms tick (R114). -/
  | tick250ms
  /-- An idle pooled context reaches age 3 (R114). -/
  | contextAgeExpiry (context : ContextId)
  /-- The 1 s tick (R15). -/
  | tick1s
  /-- The adaptor of the port offers a tributary cell of 124 bytes (R37). -/
  | portCellTake (port : PortId) (cell : List Byte)
  /-- An acceptance instant of the port (R39). -/
  | ingressAcceptance (port : PortId)
  /-- A slot of the lane (R62). -/
  | laneSlot (lane : Lane)
  /-- LOS is asserted, or DCD_C negated (R74). -/
  | lossOfSignal (lane : Lane)
  /-- LOS is negated, or DCD_C asserted (R74). -/
  | signalRestored (lane : Lane)
  /-- A byte is received while the lane hunts (R75). -/
  | huntByte (lane : Lane) (byte : Byte)
  /-- A delineated link cell of 128 bytes is received (R3). -/
  | laneCellReceive (lane : Lane) (cell : List Byte)
  /-- The deadline of the context expires (R106). -/
  | releaseExpiry (context : ContextId)
  /-- The adaptor of the port takes a cell (R138). -/
  | egressHandover (port : PortId)
  /-- PRESENT of the port is negated (R140). -/
  | presentNegated (port : PortId)
  /-- PRESENT of the port is asserted (R140). -/
  | presentAsserted (port : PortId)
  /-- TXFAULT of the lane is asserted (`true`) or negated (R56). -/
  | txfaultChange (lane : OpticalLane) (asserted : Bool)
  /-- The STRIKE input passes from negated to asserted (R122). -/
  | strikePulse
  /-- The export channel tries to serve its pending firing (R157). -/
  | exportAttempt (channel : ChannelId)
  | echo
  | streamRead
  | streamWrite
  | streamFill
  | streamState
  | contextRead
  | laneRead
  | counterRead
  | counterClear
  | postureSet
  | strikeTest
  | eventRead
  | eventClear
  | eventLevels
  | floorSet
  | exportSet
  | exportStart
  | exportRead
  | stationRead
  | stationWrite
  | unknownCommand
  | restart
  /-- The warm restart completes at the next 1 ms tick (R168). -/
  | restartCompletion
  /-- The agent tries to send the response to the RESTART (R168). -/
  | restartResponse
  deriving DecidableEq, Repr

end Sys2Proof
end

