-- ==== Sys2Proof/WellFormed.lean ====
section
/-! DEFINITION. Which commands the pins can bring: a link cell is 128 bytes (section 1.1), a tributary cell 124 (section 1.3).
Every other operand is in range by its type. -/

namespace Sys2Proof

/-- Bytes of a link cell. -/
def linkCellSize : Nat := 128

/-- Bytes of a tributary cell. -/
def tribCellSize : Nat := 124

/-- Whether the command's operands are ones the hardware can be given. -/
def Instr.wellFormed : Instr → Bool
  | .portCellTake _ cell => cell.length == tribCellSize
  | .laneCellReceive _ cell => cell.length == linkCellSize
  | _ => true

end Sys2Proof
end

