-- ==== Sys2Proof/Machine/State.lean ====
section
/-! DEFINITION. The state of one LK260, block by block, and its value after power-on reset. Every item of INVENTORY.md's
'State' list has its one home here. -/

namespace Sys2Proof.Machine

/-- Why a step stops. -/
inductive Fault where
  /-- Raised by PORT_CELL_TAKE and LANE_CELL_RECEIVE when the operand is not 124 or 128 bytes: no pin of the part can carry
  such a cell, so no behaviour of the hardware is lost (log 18). Safe. -/
  | malformedCell
  deriving DecidableEq, Repr

/-- Why a step has no meaning. No meaning of this model answers with it. -/
inductive Refusal where
  /-- A row of the table that has no meaning yet, raised by exec's own arm. Safe. -/
  | notModelled (mnemonic : String)
  deriving DecidableEq, Repr

/-! ### Values -/

/-- One value for each of the lanes A, B and C. -/
structure PerLane (α : Type) where
  a : α
  b : α
  c : α
  deriving DecidableEq, Repr

namespace PerLane

variable {α : Type}

def get (p : PerLane α) : Lane → α
  | .a => p.a
  | .b => p.b
  | .c => p.c

def set (p : PerLane α) (l : Lane) (x : α) : PerLane α :=
  match l with
  | .a => { p with a := x }
  | .b => { p with b := x }
  | .c => { p with c := x }

end PerLane

/-- Transmit view of a lane (R55). -/
inductive View where
  | usable | degraded | unusable
  deriving DecidableEq, Repr

/-- Receive state of a lane (section 5.1). -/
inductive RxState where
  | down | hunt | up | impaired
  deriving DecidableEq, Repr

/-- A base posture is never STRIKE (R120). -/
inductive BasePosture where
  | clear | watch | warning
  deriving DecidableEq, Repr

/-- The effective posture (chapter 7). -/
inductive Posture where
  | clear | watch | warning | strike
  deriving DecidableEq, Repr

/-- One value for each effective posture. -/
structure PerPosture (α : Type) where
  clear : α
  watch : α
  warning : α
  strike : α
  deriving DecidableEq, Repr

def PerPosture.get {α : Type} (p : PerPosture α) : Posture → α
  | .clear => p.clear
  | .watch => p.watch
  | .warning => p.warning
  | .strike => p.strike

/-- Lane plans, codes 0 to 9 in order (section 2.2). -/
inductive Plan where
  /-- OFF -/
  | off
  /-- A -/
  | a
  /-- B -/
  | b
  /-- C -/
  | c
  /-- A>B -/
  | aThenB
  /-- B>A -/
  | bThenA
  /-- A>B>C -/
  | aThenBThenC
  /-- A+B -/
  | aAndB
  /-- A+B>C -/
  | aAndBElseC
  /-- A+B+C -/
  | aAndBAndC
  deriving DecidableEq, Repr

inductive StreamState where
  | idle | active | draining | suspended
  deriving DecidableEq, Repr

inductive Role where
  | origin | terminus
  deriving DecidableEq, Repr

inductive ExcessAction where
  | drop | demote
  deriving DecidableEq, Repr

inductive HoldMode where
  | fixed | auto
  deriving DecidableEq, Repr

/-- Kinds of link cell, codes 0 to 6 (R1). -/
inductive CellKind where
  | fill | media | probe | mgmtReq | mgmtRsp | notice | exportCell
  deriving DecidableEq, Repr

/-- The content of a cell as a buffer stores it (R6): what depends on the cell and not on the sending moment. -/
structure Cell where
  kind : CellKind
  /-- byte 2 of the header: the stream of a MEDIA cell, destination and source of the other kinds -/
  addr : Byte
  cls : Fin 4
  frameEnd : Bool
  demoted : Bool
  seq : Seq
  /-- the payload bytes in use; their number is the length field -/
  payload : List Byte
  deriving DecidableEq, Repr

/-- A cell with no content. -/
def Cell.empty : Cell :=
  { kind := .fill, addr := 0, cls := 0, frameEnd := false, demoted := false, seq := 0, payload := [] }

/-! ### Pins and clock -/

/-- Levels of the input pins that a block follows. -/
structure Pins where
  /-- LOS asserted (A, B) or DCD negated (C) (R74) -/
  loss : PerLane Bool
  txfaultA : Bool
  txfaultB : Bool
  /-- PRESENT of each port, which is the port's presence (R38, R140) -/
  present : Bank 8 Bool
  deriving DecidableEq, Repr

/-- The Link Clock (R15, R16). -/
structure LinkClock where
  count : Time
  /-- microseconds since the last 1 s tick, 0..999,999 -/
  phase : Nat
  epoch : Epoch
  deriving DecidableEq, Repr

/-! ### Buffer Manager -/

structure Buffer where
  /-- reference count, 0..3 -/
  refs : Nat
  cell : Cell
  /-- the stored check agrees with the content (R11, log 4) -/
  checkAgrees : Bool
  deriving DecidableEq, Repr

/-- What a buffer that is not listed reads as: free, with an empty cell (R14, log 20). -/
def Buffer.unlisted : Buffer := { refs := 0, cell := .empty, checkAgrees := true }

/-- The buffers by number, in canonical form: see `Pool.wf` (Machine/Ops.lean). -/
abbrev Pool := List (Nat × Buffer)

structure BufferManager where
  free : List Nat
  freeCount : Nat
  pool : Pool
  deriving DecidableEq, Repr

/-! ### Stream Table -/

structure StreamEntry where
  state : StreamState
  loaded : Bool
  role : Role
  port : PortId
  cls : Fin 4
  plan : PerPosture Plan
  /-- sixteenths of a cell per ms; 0 is unpoliced -/
  rate : Nat
  burst : Nat
  excess : ExcessAction
  merge : Bool
  depth : Nat
  holdMode : HoldMode
  holdUs : Nat
  holdMin : Nat
  holdMax : Nat
  pin : Option ContextId
  gapMarkers : Bool
  /-- the stored 16-bit check agrees with the content (R21, R22, log 4) -/
  checkAgrees : Bool
  deriving DecidableEq, Repr

structure RunRecord where
  sendSeq : Seq
  /-- bucket level, sixteenths of a cell -/
  level : Nat
  queued : Nat
  lastValid : Bool
  lastSeq : Seq
  lastEpoch : Epoch
  context : Option ContextId
  lossFirst : Seq
  lossCount : Nat
  deriving DecidableEq, Repr

structure StreamTable where
  entries : Bank 256 StreamEntry
  runs : Bank 256 RunRecord
  deriving DecidableEq, Repr

/-! ### Tributary Ingress, Lane Transmitter, Lane Receiver -/

structure TributaryIngress where
  /-- oldest first; each cell is the 124 bytes the adaptor offered -/
  fifo : Bank 8 (List (List Byte))
  deriving DecidableEq, Repr

/-- An entry of a lane class queue (R59). -/
structure QueueEntry where
  buffer : Nat
  stream : StreamId
  deriving DecidableEq, Repr

structure LaneTx where
  view : View
  control : List Nat
  classes : Bank 4 (List QueueEntry)
  probeDue : Bool
  lastProbe : Option Byte
  load : Nat
  unpoliced : Nat
  overcommitted : Bool
  deriving DecidableEq, Repr

structure EchoRecord where
  number : Byte
  sendTime : Time
  received : Time
  deriving DecidableEq, Repr

/-- The last used probe on a lane. -/
structure LastSeen where
  number : Byte
  received : Time
  /-- the MODEL's own: 65,535 ms have passed, so that the reading stops there and does not wrap with the clock (log 22) -/
  old : Bool
  deriving DecidableEq, Repr

structure LaneRx where
  state : RxState
  goodHeaders : Nat
  badHeaders : Nat
  crcFailures : Nat
  headerFailure : Bool
  judging : Bool
  erroredRun : Nat
  cleanRun : Nat
  echo : Option EchoRecord
  lastSample : Option Nat
  delay : Option Nat
  lastSeen : Option LastSeen
  /-- the last bytes searched, at most eight (R75) -/
  huntWindow : List Byte
  /-- bytes still to come before the next provisional header is complete; 0 while no candidate has passed (R75) -/
  huntWait : Nat
  deriving DecidableEq, Repr

structure PeerReport where
  rx : PerLane RxState
  base : BasePosture
  strike : Bool
  epoch : Epoch
  arrival : Option Lane
  age : Nat
  stale : Bool
  deriving DecidableEq, Repr

structure LaneReceiver where
  lanes : PerLane LaneRx
  peer : PeerReport
  deriving DecidableEq, Repr

/-! ### Merge Unit -/

inductive Condition where
  | free | reserved | attached
  deriving DecidableEq, Repr

/-- A stored copy (R93). -/
structure Held where
  buffer : Nat
  arrival : Time
  lane : Lane
  release : Time
  deriving DecidableEq, Repr

structure Context where
  condition : Condition
  owner : Option StreamId
  pinned : Bool
  synced : Bool
  /-- N, the sequence slot 0 stands for -/
  next : Seq
  epoch : Epoch
  /-- W; slots 0..W−1 -/
  depth : Nat
  slots : List (Option Held)
  hold : Nat
  raw : Nat
  skew : Bool
  lastRelease : Option Time
  age : Nat
  arrived : Bool
  worstGap : Nat
  /-- the stored check agrees with the record (R117, log 4) -/
  checkAgrees : Bool
  deriving DecidableEq, Repr

/-- A context in the free pool (R115). -/
def Context.cleared : Context :=
  { condition := .free, owner := none, pinned := false, synced := false, next := 0, epoch := 0, depth := 0, slots := [],
    hold := 0, raw := 0, skew := false, lastRelease := none, age := 0, arrived := false, worstGap := 0, checkAgrees := true }

/-! ### Posture Controller, Delivery Unit -/

structure PostureController where
  base : BasePosture
  /-- ms remaining -/
  timer : Nat
  localStrike : Bool
  lastPulse : Option Time
  peerBase : BasePosture
  peerStrike : Bool
  effective : Posture
  deriving DecidableEq, Repr

/-- The three forms of an egress FIFO entry (section 8.1). -/
inductive EgressEntry where
  | media (buffer : Nat) (stream : StreamId) (seq : Seq)
  | gap (stream : StreamId) (first : Seq) (count : Nat) (discontinuity : Bool)
  | control (buffer : Nat)
  deriving DecidableEq, Repr

structure DeliveryUnit where
  egress : Bank 8 (List EgressEntry)
  deriving DecidableEq, Repr

/-! ### Counter Block -/

structure Counter where
  value : BitVec 32
  overflow : Bool
  deriving DecidableEq, Repr

def Counter.zero : Counter := { value := 0, overflow := false }

structure CounterBlock where
  streams : Bank 256 (Bank 16 Counter)
  lanes : PerLane (Bank 14 Counter)
  ports : Bank 8 (Bank 8 Counter)
  station : Bank 6 Counter
  deriving DecidableEq, Repr

/-- Object kinds, codes 0 to 3 (section 9.1). -/
inductive ObjectKind where
  | stream | lane | port | station
  deriving DecidableEq, Repr

/-! ### Event Unit -/

inductive FaultCause where
  | tableCheck | contextCheck | poolCheck
  deriving DecidableEq, Repr

/-- The 23 event sources by number (section 10.1). -/
abbrev Source := Fin 23

/-- The detail a source carries (section 10.1); `none` reads as zeros. -/
inductive Detail where
  | none
  | fault (cause : FaultCause) (index : Nat)
  | skew (stream : StreamId) (raw : Nat)
  | mergePool (stream : StreamId)
  | loss (stream : StreamId) (first : Seq) (count : Nat)
  | counterHalf (kind : ObjectKind) (index : Nat) (id : Nat)
  deriving DecidableEq, Repr

structure SourceRecord where
  level : Nat
  flag : Bool
  repeats : Nat
  detail : Detail
  deriving DecidableEq, Repr

/-- What an export channel is bound to; an unbound channel holds `none`. -/
inductive Binding where
  | source (src : Source)
  | manual
  deriving DecidableEq, Repr

structure Channel where
  bound : Option Binding
  kind : ObjectKind
  /-- a position within the kind (section 10.4) -/
  first : Nat
  items : Nat
  walk : Bool
  remaining : Nat
  firing : Bool
  number : BitVec 16
  deriving DecidableEq, Repr

structure EventUnit where
  sources : Bank 23 SourceRecord
  floor : Nat
  channels : Bank 4 Channel
  deriving DecidableEq, Repr

/-! ### Management Agent -/

/-- A queued request: its source address and its payload bytes in use (R161). -/
structure Request where
  source : Fin 8
  payload : List Byte
  deriving DecidableEq, Repr

/-- The pending drain (R26). -/
structure Drain where
  stream : StreamId
  tag : BitVec 16
  command : Byte
  source : Fin 8
  /-- 1 ms ticks still to come; the deadline is the tick that brings it to 0 -/
  ticks : Nat
  purged : Nat
  deriving DecidableEq, Repr

/-- What a RESTART records for its response (R168). -/
structure RestartTicket where
  tag : BitVec 16
  command : Byte
  source : Fin 8
  deriving DecidableEq, Repr

inductive RestartState where
  | idle
  | inProgress (ticket : RestartTicket)
  | waiting (ticket : RestartTicket)
  deriving DecidableEq, Repr

structure Settings where
  controllerPort : Option PortId
  /-- seconds -/
  strikeHold : Nat
  guards : PerPosture Nat
  erroredThreshold : Nat
  impairCount : Nat
  recoverNormal : Nat
  recoverStorm : Nat
  /-- ms -/
  drainTimeout : Nat
  deriving DecidableEq, Repr

structure ManagementAgent where
  station : Fin 2
  requests : List Request
  drain : Option Drain
  restart : RestartState
  settings : Settings
  faultCause : Option FaultCause
  faultIndex : Nat
  furtherFaults : Nat
  held : Bool
  /-- the MODEL's own: the agent owes its queue an attempt (R162's retries, log 2) -/
  serviceDue : Bool
  deriving DecidableEq, Repr

/-- What the output pins last carried (log 24). -/
structure Outputs where
  /-- the last link cell sent on each lane, 128 bytes -/
  lane : PerLane (Option (List Byte))
  /-- the last tributary cell handed over at each port, 124 bytes -/
  port : Bank 8 (Option (List Byte))
  deriving DecidableEq, Repr

/-! ### The whole part -/

structure State where
  pins : Pins
  lck : LinkClock
  bfm : BufferManager
  stb : StreamTable
  tin : TributaryIngress
  ltx : PerLane LaneTx
  lrx : LaneReceiver
  mrg : Bank 64 Context
  psc : PostureController
  dlv : DeliveryUnit
  cnt : CounterBlock
  evu : EventUnit
  mga : ManagementAgent
  out : Outputs
  /-- the MODEL's own: how many values the manual leaves open have been drawn (log 7) -/
  openCount : Nat
  /-- the MODEL's own: the commands that wait, first in, first out (log 29) -/
  pending : List Instr
  deriving DecidableEq, Repr

/-! ### Reset values -/

/-- The pool after power-on and after a warm restart (R14): the free list 0 to 8191 ascending, every reference count 0. -/
def BufferManager.full (pool : Pool) : BufferManager :=
  { free := List.range' 0 Config.poolSize, freeCount := Config.poolSize, pool := pool }

/-- A stream entry after power-on (R36). -/
def StreamEntry.default : StreamEntry :=
  { state := .idle, loaded := false, role := .origin, port := 0, cls := 3,
    plan := { clear := .off, watch := .off, warning := .off, strike := .off },
    rate := 0, burst := 1, excess := .drop, merge := false, depth := 8, holdMode := .fixed, holdUs := 0, holdMin := 0,
    holdMax := 65535, pin := none, gapMarkers := false, checkAgrees := true }

/-- A runtime record cleared as for a stream made IDLE (R30, R36). -/
def RunRecord.cleared : RunRecord :=
  { sendSeq := 0, level := 0, queued := 0, lastValid := false, lastSeq := 0, lastEpoch := 0, context := none, lossFirst := 0,
    lossCount := 0 }

/-- A lane's transmit side after either reset (R73). -/
def LaneTx.reset : LaneTx :=
  { view := .unusable, control := [], classes := Vector.replicate 4 [], probeDue := false, lastProbe := none, load := 0,
    unpoliced := 0, overcommitted := false }

/-- A lane's receive side after either reset (R92), with its loss input and the last probe seen. -/
def LaneRx.reset (loss : Bool) (lastSeen : Option LastSeen) : LaneRx :=
  { state := if loss then .down else .hunt, goodHeaders := 0, badHeaders := 0, crcFailures := 0, headerFailure := false,
    judging := false, erroredRun := 0, cleanRun := 0, echo := none, lastSample := none, delay := none, lastSeen := lastSeen,
    huntWindow := [], huntWait := 0 }

/-- The peer report record after power-on (R92). -/
def PeerReport.reset : PeerReport :=
  { rx := { a := .down, b := .down, c := .down }, base := .clear, strike := false, epoch := 0, arrival := none,
    age := Config.staleAge, stale := true }

/-- The Posture Controller after either reset, with the base posture it then holds (R133). -/
def PostureController.reset (base : BasePosture) (effective : Posture) : PostureController :=
  { base := base, timer := 0, localStrike := false, lastPulse := none, peerBase := .clear, peerStrike := false,
    effective := effective }

def CounterBlock.zero : CounterBlock :=
  { streams := Vector.replicate 256 (Vector.replicate 16 .zero),
    lanes := { a := Vector.replicate 14 .zero, b := Vector.replicate 14 .zero, c := Vector.replicate 14 .zero },
    ports := Vector.replicate 8 (Vector.replicate 8 .zero), station := Vector.replicate 6 .zero }

/-- A source whose flag is clear, at the given level (R158). -/
def SourceRecord.quiet (level : Nat) : SourceRecord := { level := level, flag := false, repeats := 0, detail := .none }

/-- An export channel after power-on (R158). -/
def Channel.reset : Channel :=
  { bound := none, kind := .stream, first := 0, items := 1, walk := false, remaining := 1, firing := false, number := 0 }

/-- The Event Unit after power-on: every level 0, but FAULT's, which is 7 (R158). -/
def EventUnit.reset : EventUnit :=
  { sources := Bank.put (Vector.replicate 23 (.quiet 0)) 0 (.quiet 7), floor := 0, channels := Vector.replicate 4 .reset }

/-- The station settings after power-on (R165). -/
def Settings.default : Settings :=
  { controllerPort := none, strikeHold := 10, guards := { clear := 200, watch := 400, warning := 800, strike := 1500 },
    erroredThreshold := 4, impairCount := 3, recoverNormal := 5, recoverStorm := 50, drainTimeout := 100 }

/-- The Management Agent after power-on, with the address read from the STATION strap (R4, R169). -/
def ManagementAgent.reset (strap : Fin 2) : ManagementAgent :=
  { station := strap, requests := [], drain := none, restart := .idle, settings := .default, faultCause := none,
    faultIndex := 0, furtherFaults := 0, held := false, serviceDue := true }

/-- Nothing sent on any lane, nothing handed over at any port. -/
def Outputs.reset : Outputs :=
  { lane := { a := none, b := none, c := none }, port := Vector.replicate 8 none }

/-- Every input pin negated; DCD_C negated is a loss on lane C (log 1). -/
def Pins.reset : Pins :=
  { loss := { a := false, b := false, c := true }, txfaultA := false, txfaultB := false, present := Vector.replicate 8 false }

/-- Every item of state in every block at its power-on value (R14, R15, R16, R36, R54, R73, R92, R119, R133, R142, R149,
R158, R169), for the STATION strap and the input pins as they stand when RESETN is released. The contents of the buffers are
not cleared (R14), so the pool, its reference counts at 0, is given. -/
def State.powerOn (strap : Fin 2) (pins : Pins) (pool : Pool) (openCount : Nat) (pending : List Instr) : State :=
  { pins := pins,
    lck := { count := 0, phase := 0, epoch := 0 },
    bfm := .full pool,
    stb := { entries := Vector.replicate 256 .default, runs := Vector.replicate 256 .cleared },
    tin := { fifo := Vector.replicate 8 [] },
    ltx := { a := .reset, b := .reset, c := .reset },
    lrx := { lanes := { a := .reset pins.loss.a none, b := .reset pins.loss.b none, c := .reset pins.loss.c none },
             peer := .reset },
    mrg := Vector.replicate 64 .cleared,
    psc := .reset .clear .clear,
    dlv := { egress := Vector.replicate 8 [] },
    cnt := .zero,
    evu := .reset,
    mga := .reset strap,
    out := .reset,
    openCount := openCount,
    pending := pending }

/-- The part right after power-on reset, as station 0, with every input pin negated (log 1). -/
def State.reset : State := .powerOn 0 .reset [] 0 []

end Sys2Proof.Machine
end

