-- ==== Sys2Proof/Machine/Operands.lean ====
section
/-! DEFINITION. Codes, byte order, checks and layouts: how the cells of chapter 1 and the head of a request are read from bytes
and written as bytes. -/

namespace Sys2Proof.Machine

/-! ### Byte order (00_scope.md, "Byte and bit order") -/

/-- The least significant byte of a number. -/
def byte (n : Nat) : Byte := BitVec.ofNat 8 n

/-- Two bytes, most significant first. -/
def be16 (n : Nat) : List Byte := [byte (n / 256), byte n]

/-- Three bytes, most significant first. -/
def be24 (n : Nat) : List Byte := [byte (n / 65536), byte (n / 256), byte n]

/-- Four bytes, most significant first. -/
def be32 (n : Nat) : List Byte := [byte (n / 16777216), byte (n / 65536), byte (n / 256), byte n]

/-- The `i`-th byte; a byte that is not there reads as zero (R8). -/
def byteAt (bs : List Byte) (i : Nat) : Byte := bs.getD i 0

/-- The number in two bytes from place `i`. -/
def nat16At (bs : List Byte) (i : Nat) : Nat := (byteAt bs i).toNat * 256 + (byteAt bs (i + 1)).toNat

/-- The number in four bytes from place `i`. -/
def nat32At (bs : List Byte) (i : Nat) : Nat := nat16At bs i * 65536 + nat16At bs (i + 2)

/-- One byte for a flag: 1 or 0. -/
def flagByte (b : Bool) : Byte := if b then 1 else 0

/-- A flag at a bit position, as a number. -/
def flagBit (b : Bool) (position : Nat) : Nat := if b then 2 ^ position else 0

/-- `bs` padded with zero bytes to `n` bytes. -/
def padTo (n : Nat) (bs : List Byte) : List Byte := bs ++ List.replicate (n - bs.length) 0

/-- `clamp` of 00_scope.md, "Numbers". -/
def clamp (x lo hi : Nat) : Nat := if x < lo then lo else if hi < x then hi else x

/-! ### Times and sequences (00_scope.md, "Sequence comparison", "Time comparison") -/

/-- How far ahead of `a` the sequence `b` is. -/
def seqAhead (a b : Seq) : Nat := (b - a).toNat

/-- Time `u` is later than time `t`. -/
def later (u t : Time) : Bool := 0 < (u - t).toNat && (u - t).toNat < 2 ^ 31

/-- Microseconds from `t` to `u`. -/
def elapsed (t u : Time) : Nat := (u - t).toNat

/-! ### Codes -/

def laneCode : Lane → Nat
  | .a => 0
  | .b => 1
  | .c => 2

def laneOfCode : Nat → Option Lane
  | 0 => some .a
  | 1 => some .b
  | 2 => some .c
  | _ => none

def RxState.code : RxState → Nat
  | .down => 0
  | .hunt => 1
  | .up => 2
  | .impaired => 3

/-- The two bits of a receive state in a probe (section 1.4). -/
def RxState.ofCode (n : Nat) : RxState :=
  match n % 4 with
  | 0 => .down
  | 1 => .hunt
  | 2 => .up
  | _ => .impaired

def View.code : View → Nat
  | .usable => 0
  | .degraded => 1
  | .unusable => 2

def BasePosture.code : BasePosture → Nat
  | .clear => 0
  | .watch => 1
  | .warning => 2

/-- The base posture of a used probe: code 3 is taken as WARNING (R7). -/
def BasePosture.ofProbe (n : Nat) : BasePosture :=
  match n % 4 with
  | 0 => .clear
  | 1 => .watch
  | _ => .warning

def BasePosture.posture : BasePosture → Posture
  | .clear => .clear
  | .watch => .watch
  | .warning => .warning

def Posture.code : Posture → Nat
  | .clear => 0
  | .watch => 1
  | .warning => 2
  | .strike => 3

def Plan.code : Plan → Nat
  | .off => 0
  | .a => 1
  | .b => 2
  | .c => 3
  | .aThenB => 4
  | .bThenA => 5
  | .aThenBThenC => 6
  | .aAndB => 7
  | .aAndBElseC => 8
  | .aAndBAndC => 9

def Plan.ofCode : Nat → Option Plan
  | 0 => some .off
  | 1 => some .a
  | 2 => some .b
  | 3 => some .c
  | 4 => some .aThenB
  | 5 => some .bThenA
  | 6 => some .aThenBThenC
  | 7 => some .aAndB
  | 8 => some .aAndBElseC
  | 9 => some .aAndBAndC
  | _ => none

def StreamState.code : StreamState → Nat
  | .idle => 0
  | .active => 1
  | .draining => 2
  | .suspended => 3

def Role.code : Role → Nat
  | .origin => 0
  | .terminus => 1

def ExcessAction.code : ExcessAction → Nat
  | .drop => 0
  | .demote => 1

def HoldMode.code : HoldMode → Nat
  | .fixed => 0
  | .auto => 1

/-- A pin or an attached context in one byte: 255 for none. -/
def contextCode : Option ContextId → Nat
  | none => 255
  | some c => c.val

def Condition.code : Condition → Nat
  | .free => 0
  | .reserved => 1
  | .attached => 2

def CellKind.code : CellKind → Nat
  | .fill => 0
  | .media => 1
  | .probe => 2
  | .mgmtReq => 3
  | .mgmtRsp => 4
  | .notice => 5
  | .exportCell => 6

def CellKind.ofCode : Nat → Option CellKind
  | 0 => some .fill
  | 1 => some .media
  | 2 => some .probe
  | 3 => some .mgmtReq
  | 4 => some .mgmtRsp
  | 5 => some .notice
  | 6 => some .exportCell
  | _ => none

def ObjectKind.code : ObjectKind → Nat
  | .stream => 0
  | .lane => 1
  | .port => 2
  | .station => 3

def ObjectKind.ofCode : Nat → Option ObjectKind
  | 0 => some .stream
  | 1 => some .lane
  | 2 => some .port
  | 3 => some .station
  | _ => none

/-- Objects of a kind (section 9.1). -/
def ObjectKind.objects : ObjectKind → Nat
  | .stream => 256
  | .lane => 3
  | .port => 8
  | .station => 1

/-- Counters of each object of a kind (section 9.1). -/
def ObjectKind.perObject : ObjectKind → Nat
  | .stream => 16
  | .lane => 14
  | .port => 8
  | .station => 6

/-- Positions of a kind (section 10.4). -/
def ObjectKind.total (k : ObjectKind) : Nat := k.objects * k.perObject

def FaultCause.code : FaultCause → Nat
  | .tableCheck => 1
  | .contextCheck => 2
  | .poolCheck => 3

/-- The fault record's cause in one byte (R164). -/
def faultCauseCode : Option FaultCause → Nat
  | none => 0
  | some c => c.code

/-- Statuses of a response (section 1.5). -/
inductive Status where
  | ok | part | notReady | busy | refused | badArgument | unknownCommand | held
  deriving DecidableEq, Repr

def Status.code : Status → Nat
  | .ok => 0
  | .part => 1
  | .notReady => 2
  | .busy => 3
  | .refused => 4
  | .badArgument => 5
  | .unknownCommand => 6
  | .held => 7

/-- The statuses that raise MGMT_ERROR (R162). -/
def Status.isError : Status → Bool
  | .part | .refused | .badArgument | .unknownCommand | .held => true
  | .ok | .notReady | .busy => false

/-! ### Addresses -/

/-- The controller's address (section 1.2). -/
def controllerAddress : Fin 8 := 7

/-- A station's address as a destination or source. -/
def stationAddress (s : Fin 2) : Fin 8 := ⟨s.val, by omega⟩

/-- The peer's address (R4). -/
def peerAddress (s : Fin 2) : Fin 8 := ⟨1 - s.val, by omega⟩

/-- Byte 2 of a cell that is not MEDIA: destination in bits 5–3, source in bits 2–0. -/
def stationsByte (dest source : Fin 8) : Byte := byte (dest.val * 8 + source.val)

/-- The destination in byte 2. -/
def Cell.dest (c : Cell) : Fin 8 := ⟨c.addr.toNat / 8 % 8, by omega⟩

/-- The source in byte 2. -/
def Cell.source (c : Cell) : Fin 8 := ⟨c.addr.toNat % 8, by omega⟩

/-- The stream of a MEDIA cell. -/
def Cell.stream (c : Cell) : StreamId := c.addr.toFin

/-! ### Checks (R2) -/

/-- One bit of the header check's division by x^8 + x^2 + x + 1. -/
def crc8Bit (r : BitVec 8) : BitVec 8 := if r.msb then (r <<< 1) ^^^ 0x07 else r <<< 1

/-- One bit of the cell CRC's division. -/
def crc32Bit (r : BitVec 32) : BitVec 32 := if r.msb then (r <<< 1) ^^^ 0x04C11DB7 else r <<< 1

/-- `f` applied eight times. -/
def eightTimes {α : Type} (f : α → α) (x : α) : α := f (f (f (f (f (f (f (f x)))))))

/-- The header check over bytes: register zero at the start, most significant bit first, no inversion. -/
def crc8 (bs : List Byte) : BitVec 8 := bs.foldl (fun r b => eightTimes crc8Bit (r ^^^ b)) 0

/-- The cell CRC over bytes: register all ones at the start, most significant bit first, inverted at the end. -/
def crc32 (bs : List Byte) : BitVec 32 :=
  ~~~ bs.foldl (fun (r : BitVec 32) (b : Byte) => eightTimes crc32Bit (r ^^^ (b.setWidth 32 <<< (24 : Nat)))) (BitVec.allOnes 32)

/-- Eight bytes whose header check passes. -/
def headerPasses (h : List Byte) : Bool := crc8 (h.take 7) == byteAt h 7

/-- A link cell whose CRC passes. -/
def crcPasses (bs : List Byte) : Bool := (crc32 (bs.take 124)).toNat == nat32At bs 124

/-! ### The link cell (R1, section 1.1) -/

/-- Bytes 0 to 6 of the header of a cell sent on a lane. -/
def linkHeader (c : Cell) (lane : Lane) (epoch : Epoch) : List Byte :=
  [byte (c.kind.code * 16 + laneCode lane * 4 + c.cls.val), byte (flagBit c.frameEnd 7 + flagBit c.demoted 6), c.addr,
   byte c.payload.length] ++ (if c.kind = .media then be16 c.seq.toNat else [0, 0]) ++ [epoch]

/-- The 128 bytes of a cell sent on a lane: header, header check, payload padded with zeros, CRC (R1, R2). -/
def linkCell (c : Cell) (lane : Lane) (epoch : Epoch) : List Byte :=
  let header := linkHeader c lane epoch
  let body := header ++ [crc8 header] ++ padTo 116 c.payload
  body ++ be32 (crc32 body).toNat

/-- The kind code of a received link cell. -/
def rxKindCode (bs : List Byte) : Nat := (byteAt bs 0).toNat / 16

/-- The lane id code of a received link cell. -/
def rxLaneCode (bs : List Byte) : Nat := (byteAt bs 0).toNat / 4 % 4

/-- The length field of a received link cell or of a tributary cell. -/
def lengthField (bs : List Byte) : Nat := (byteAt bs 3).toNat

/-- The sender epoch of a received link cell. -/
def rxEpoch (bs : List Byte) : Epoch := byteAt bs 6

/-- Byte 2 as it is stored: the stream of a MEDIA cell; of the other kinds the two stations, bits 7–6 not read. -/
def addrField (kind : CellKind) (bs : List Byte) : Byte := if kind = .media then byteAt bs 2 else byteAt bs 2 &&& 0x3F

/-- The content of a received link cell of a known kind (R6). -/
def rxCell (kind : CellKind) (bs : List Byte) : Cell :=
  { kind := kind, addr := addrField kind bs, cls := ⟨(byteAt bs 0).toNat % 4, by omega⟩, frameEnd := (byteAt bs 1).getLsbD 7,
    demoted := (byteAt bs 1).getLsbD 6, seq := BitVec.ofNat 16 (nat16At bs 4),
    payload := (bs.drop 8).take (lengthField bs) }

/-! ### The tributary cell (section 1.3) -/

/-- The kind code of an offered tributary cell. -/
def tribKindCode (bs : List Byte) : Nat := (byteAt bs 0).toNat / 16

/-- The payload in use of an offered tributary cell. -/
def tribPayload (bs : List Byte) : List Byte := (bs.drop 8).take (lengthField bs)

/-- The tributary cell handed over for a stored cell (R6, R139): the sequence is carried for MEDIA and is zero otherwise, the
discontinuity flag is clear. -/
def tribCell (c : Cell) : List Byte :=
  [byte (c.kind.code * 16), byte (flagBit c.frameEnd 7), c.addr, byte c.payload.length] ++
    (if c.kind = .media then be16 c.seq.toNat else [0, 0]) ++ [0, 0] ++ padTo 116 c.payload

/-- The GAP cell built from a gap entry (R5, R139). -/
def tribGap (stream : StreamId) (first : Seq) (count : Nat) (discontinuity : Bool) : List Byte :=
  [byte (8 * 16), byte (flagBit discontinuity 6), byte stream.val, 0] ++ be16 first.toNat ++ [byte count, 0] ++
    padTo 116 []

/-! ### Probes (section 1.4) -/

/-- What a received probe says. -/
structure Probe where
  number : Byte
  echoNumber : Byte
  sendTime : Time
  echoSendTime : Time
  dwell : Time
  rx : PerLane RxState
  echoValid : Bool
  strike : Bool
  base : BasePosture
  deriving DecidableEq, Repr

/-- The probe's content is one that R7 lets be used: length 19, sender the peer, lane id the arrival lane, epoch byte equal to
the header's sender epoch. -/
def probeUsable (payload : List Byte) (lane : Lane) (peer : Fin 8) (epoch : Epoch) : Bool :=
  payload.length == 19 && (byteAt payload 0).toNat % 8 == peer.val && (byteAt payload 1).toNat % 4 == laneCode lane &&
    byteAt payload 18 == epoch

def readProbe (p : List Byte) : Probe :=
  { number := byteAt p 2, echoNumber := byteAt p 3, sendTime := BitVec.ofNat 32 (nat32At p 4),
    echoSendTime := BitVec.ofNat 32 (nat32At p 8), dwell := BitVec.ofNat 32 (nat32At p 12),
    rx := { a := .ofCode ((byteAt p 16).toNat / 16), b := .ofCode ((byteAt p 16).toNat / 4), c := .ofCode (byteAt p 16).toNat },
    echoValid := (byteAt p 17).getLsbD 7, strike := (byteAt p 17).getLsbD 6, base := .ofProbe (byteAt p 17).toNat }

/-- The payload of a probe sent now: the echo fields and the dwell come from the lane's echo record, and are zero without one
(R7, R17, R64, R84). -/
def probePayload (station : Fin 2) (lane : Lane) (number : Byte) (now : Time) (echo : Option EchoRecord)
    (rx : PerLane RxState) (base : BasePosture) (strike : Bool) (epoch : Epoch) : List Byte :=
  let echoed : EchoRecord := echo.getD { number := 0, sendTime := 0, received := now }
  [byte station.val, byte (laneCode lane), number, echoed.number] ++ be32 now.toNat ++ be32 echoed.sendTime.toNat ++
    be32 (now - echoed.received).toNat ++
    [byte (rx.a.code * 16 + rx.b.code * 4 + rx.c.code), byte (flagBit echo.isSome 7 + flagBit strike 6 + base.code), epoch]

/-! ### The management head (section 1.5, R8) -/

/-- The tag of a request. -/
def requestTag (payload : List Byte) : BitVec 16 := BitVec.ofNat 16 (nat16At payload 0)

/-- The command code of a request. -/
def requestCommand (payload : List Byte) : Byte := byteAt payload 2

/-- The argument length of a request. -/
def requestArgLength (payload : List Byte) : Nat := (byteAt payload 3).toNat

/-- The `i`-th argument byte; one beyond the payload reads as zero (R8). -/
def requestArg (payload : List Byte) (i : Nat) : Nat := (byteAt payload (4 + i)).toNat

/-- The argument bytes. -/
def requestArgs (payload : List Byte) : List Byte := (payload.drop 4).take (requestArgLength payload)

/-- The argument length is above 112, or above the payload length less 4 (R8, check 2; log 9). -/
def argLengthBad (payload : List Byte) : Bool :=
  112 < requestArgLength payload || payload.length < requestArgLength payload + 4

/-- A response (R8): tag and command copied, status, result length, results; to the request's source. -/
def responseCell (station : Fin 2) (dest : Fin 8) (tag : BitVec 16) (command : Byte) (status : Status) (result : List Byte) :
    Cell :=
  { Cell.empty with
    kind := .mgmtRsp
    addr := stationsByte dest (stationAddress station)
    payload := be16 tag.toNat ++ [command, byte status.code, byte result.length] ++ result }

/-- A cell for the controller from this station (R4). -/
def controllerCell (kind : CellKind) (station : Fin 2) (payload : List Byte) : Cell :=
  { Cell.empty with kind := kind, addr := stationsByte controllerAddress (stationAddress station), payload := payload }

/-- A list of three-byte items: a code, then a 16-bit value (section 2.6, R165). Bytes left over are not an item. -/
def threeByteItems : List Byte → List (Nat × Nat)
  | c :: h :: l :: rest => (c.toNat, h.toNat * 256 + l.toNat) :: threeByteItems rest
  | _ => []

/-- A list of pairs of bytes (R154). -/
def bytePairs : List Byte → List (Nat × Nat)
  | a :: b :: rest => (a.toNat, b.toNat) :: bytePairs rest
  | _ => []

/-- The value a list of items gives a code. -/
def itemValue (items : List (Nat × Nat)) (code : Nat) : Option Nat := items.lookup code

/-- A code of the list is named. -/
def itemNamed (items : List (Nat × Nat)) (code : Nat) : Bool := (itemValue items code).isSome

/-- No code of the list is named twice. -/
def codesDistinct (items : List (Nat × Nat)) : Bool := (items.map Prod.fst).Nodup

end Sys2Proof.Machine
end

