-- ==== Sys2Proof/Machine/Ops.lean ====
section
/-! DEFINITION. The named operations over the state: reading and writing each item in its one home, the buffer pool, the
counters and the queues. -/

namespace Sys2Proof.Machine

/-! ### Reading and writing items -/

def State.entry (s : State) (n : StreamId) : StreamEntry := s.stb.entries.look n

def State.run (s : State) (n : StreamId) : RunRecord := s.stb.runs.look n

def State.tx (s : State) (l : Lane) : LaneTx := s.ltx.get l

def State.rx (s : State) (l : Lane) : LaneRx := s.lrx.lanes.get l

def State.context (s : State) (c : ContextId) : Context := s.mrg.look c

def State.egress (s : State) (p : PortId) : List EgressEntry := s.dlv.egress.look p

def State.ingress (s : State) (p : PortId) : List (List Byte) := s.tin.fifo.look p

def State.present (s : State) (p : PortId) : Bool := s.pins.present.look p

def State.source (s : State) (i : Source) : SourceRecord := s.evu.sources.look i

def State.channel (s : State) (ch : ChannelId) : Channel := s.evu.channels.look ch

/-- The Link Clock count, the local time of every event. -/
def State.now (s : State) : Time := s.lck.count

def State.setPins (s : State) (x : Pins) : State := { s with pins := x }

def State.setLck (s : State) (x : LinkClock) : State := { s with lck := x }

def State.setBfm (s : State) (x : BufferManager) : State := { s with bfm := x }

def State.setEntry (s : State) (n : StreamId) (x : StreamEntry) : State :=
  { s with stb := { s.stb with entries := s.stb.entries.put n x } }

def State.setRun (s : State) (n : StreamId) (x : RunRecord) : State :=
  { s with stb := { s.stb with runs := s.stb.runs.put n x } }

def State.setIngress (s : State) (p : PortId) (x : List (List Byte)) : State :=
  { s with tin := { fifo := s.tin.fifo.put p x } }

def State.setTx (s : State) (l : Lane) (x : LaneTx) : State := { s with ltx := s.ltx.set l x }

def State.setRx (s : State) (l : Lane) (x : LaneRx) : State :=
  { s with lrx := { s.lrx with lanes := s.lrx.lanes.set l x } }

def State.setPeer (s : State) (x : PeerReport) : State := { s with lrx := { s.lrx with peer := x } }

def State.setContext (s : State) (c : ContextId) (x : Context) : State := { s with mrg := s.mrg.put c x }

def State.setPsc (s : State) (x : PostureController) : State := { s with psc := x }

def State.setEgress (s : State) (p : PortId) (x : List EgressEntry) : State :=
  { s with dlv := { egress := s.dlv.egress.put p x } }

def State.setCnt (s : State) (x : CounterBlock) : State := { s with cnt := x }

def State.setSource (s : State) (i : Source) (x : SourceRecord) : State :=
  { s with evu := { s.evu with sources := s.evu.sources.put i x } }

def State.setFloor (s : State) (f : Nat) : State := { s with evu := { s.evu with floor := f } }

def State.setChannel (s : State) (ch : ChannelId) (x : Channel) : State :=
  { s with evu := { s.evu with channels := s.evu.channels.put ch x } }

def State.setMga (s : State) (x : ManagementAgent) : State := { s with mga := x }

def State.setLaneOut (s : State) (l : Lane) (cell : List Byte) : State :=
  { s with out := { s.out with lane := s.out.lane.set l (some cell) } }

def State.setPortOut (s : State) (p : PortId) (cell : List Byte) : State :=
  { s with out := { s.out with port := s.out.port.put p (some cell) } }

/-- A warm restart is in progress (R168). -/
def State.restarting (s : State) : Bool :=
  match s.mga.restart with
  | .inProgress _ => true
  | _ => false

/-- The plan in force for a stream: its plan for the effective posture (section 2.2). -/
def State.effectivePlan (s : State) (n : StreamId) : Plan := (s.entry n).plan.get s.psc.effective

/-! ### The buffer pool (section 1.7) -/

/-- What buffer `b` holds. -/
def Pool.read : Pool → Nat → Buffer
  | [], _ => .unlisted
  | (k, x) :: rest, b => if k = b then x else Pool.read rest b

/-- The pool with buffer `b` holding `x`, in canonical form. -/
def Pool.write : Pool → Nat → Buffer → Pool
  | [], b, x => if x = .unlisted then [] else [(b, x)]
  | (k, y) :: rest, b, x =>
    if b < k then (if x = .unlisted then (k, y) :: rest else (b, x) :: (k, y) :: rest)
    else if b = k then (if x = .unlisted then rest else (b, x) :: rest)
    else (k, y) :: Pool.write rest b x

/-- The canonical form: buffer numbers strictly rising, no entry equal to what an unlisted buffer reads as. -/
def Pool.wf : Pool → Bool
  | [] => true
  | (k, x) :: rest => (x != .unlisted) && rest.all (fun e => decide (k < e.1)) && Pool.wf rest

/-- Every reference count set to 0, contents and checks kept (R14). -/
def Pool.freed : Pool → Pool
  | [] => []
  | (k, x) :: rest =>
    let y : Buffer := { x with refs := 0 }
    if y = .unlisted then Pool.freed rest else (k, y) :: Pool.freed rest

/-- How many buffers have a reference count above zero (R13). -/
def Pool.referenced (p : Pool) : Nat := p.countP (fun e => decide (0 < e.2.refs))

def State.buffer (s : State) (b : Nat) : Buffer := Pool.read s.bfm.pool b

def State.setBuffer (s : State) (b : Nat) (x : Buffer) : State :=
  s.setBfm { s.bfm with pool := Pool.write s.bfm.pool b x }

/-- An allocation against a threshold (R9): the head of the free list, holding the cell, with the requested reference count.
A refused request answers `none` and changes nothing; so does, in a damaged pool, a granted one that finds the free list empty (the
model's choice, log 37). -/
def State.allocate (s : State) (threshold refs : Nat) (cell : Cell) : Option (Nat × State) :=
  if threshold < s.bfm.freeCount then
    match s.bfm.free with
    | [] => none
    | b :: rest =>
      some (b, s.setBfm { free := rest, freeCount := s.bfm.freeCount - 1,
                          pool := Pool.write s.bfm.pool b { refs := refs, cell := cell, checkAgrees := true } })
  else none

/-- The cell built in a buffer already held, with its check (R9). -/
def State.storeCell (s : State) (b : Nat) (cell : Cell) : State :=
  s.setBuffer b { s.buffer b with cell := cell, checkAgrees := true }

/-- One reference less (R10). The flag says that the count was already zero, which leaves the pool as it is. -/
def State.dropReference (s : State) (b : Nat) : State × Bool :=
  let x := s.buffer b
  match x.refs with
  | 0 => (s, true)
  | 1 =>
    (s.setBfm { free := s.bfm.free ++ [b], freeCount := s.bfm.freeCount + 1,
                pool := Pool.write s.bfm.pool b { x with refs := 0 } }, false)
  | k + 2 => (s.setBuffer b { x with refs := k + 1 }, false)

/-! ### Counters (chapter 9) -/

/-- The counters of a stream, ids 0 to 15. -/
inductive StreamCounter where
  | txCells | policeDrop | policeDemote | noLane | admitDrop | queueDrop | drainPurge | rxCells | dup | late | lost | jump
  | resync | delivered | egressDrop | unmerged
  deriving DecidableEq, Repr

def StreamCounter.id : StreamCounter → Fin 16
  | .txCells => 0
  | .policeDrop => 1
  | .policeDemote => 2
  | .noLane => 3
  | .admitDrop => 4
  | .queueDrop => 5
  | .drainPurge => 6
  | .rxCells => 7
  | .dup => 8
  | .late => 9
  | .lost => 10
  | .jump => 11
  | .resync => 12
  | .delivered => 13
  | .egressDrop => 14
  | .unmerged => 15

/-- The counters of a lane, ids 0 to 13. -/
inductive LaneCounter where
  | rxGood | rxCrcErr | rxHdrErr | erroredIntervals | impairedEntries | huntEntries | downEntries | txCells | txFill | txFlush
  | txRequeue | rxUnknown | probeInvalid | txBufCheck
  deriving DecidableEq, Repr

def LaneCounter.id : LaneCounter → Fin 14
  | .rxGood => 0
  | .rxCrcErr => 1
  | .rxHdrErr => 2
  | .erroredIntervals => 3
  | .impairedEntries => 4
  | .huntEntries => 5
  | .downEntries => 6
  | .txCells => 7
  | .txFill => 8
  | .txFlush => 9
  | .txRequeue => 10
  | .rxUnknown => 11
  | .probeInvalid => 12
  | .txBufCheck => 13

/-- The counters of a port, ids 0 to 7. -/
inductive PortCounter where
  | inCells | inUnknown | inWrongPort | inactive | outCells | outDrop | gapMarkers | outBufCheck
  deriving DecidableEq, Repr

def PortCounter.id : PortCounter → Fin 8
  | .inCells => 0
  | .inUnknown => 1
  | .inWrongPort => 2
  | .inactive => 3
  | .outCells => 4
  | .outDrop => 5
  | .gapMarkers => 6
  | .outBufCheck => 7

/-- The counters of the station, ids 0 to 5. -/
inductive StationCounter where
  | mgmtRequests | mgmtBusy | undeliverable | notices | strikes | exportOverrun
  deriving DecidableEq, Repr

def StationCounter.id : StationCounter → Fin 6
  | .mgmtRequests => 0
  | .mgmtBusy => 1
  | .undeliverable => 2
  | .notices => 3
  | .strikes => 4
  | .exportOverrun => 5

/-- One of the 4,208 counters: its object and its id. -/
inductive CounterRef where
  | stream (n : StreamId) (id : Fin 16)
  | lane (l : Lane) (id : Fin 14)
  | port (p : PortId) (id : Fin 8)
  | station (id : Fin 6)
  deriving DecidableEq, Repr

def CounterRef.kind : CounterRef → ObjectKind
  | .stream _ _ => .stream
  | .lane _ _ => .lane
  | .port _ _ => .port
  | .station _ => .station

def CounterRef.index : CounterRef → Nat
  | .stream n _ => n.val
  | .lane l _ => laneCode l
  | .port p _ => p.val
  | .station _ => 0

def CounterRef.id : CounterRef → Nat
  | .stream _ i => i.val
  | .lane _ i => i.val
  | .port _ i => i.val
  | .station i => i.val

/-- The counter that an object kind, an index and an id name. -/
def CounterRef.of (kind : ObjectKind) (index id : Nat) : Option CounterRef :=
  match kind with
  | .stream => if h : index < 256 ∧ id < 16 then some (.stream ⟨index, h.1⟩ ⟨id, h.2⟩) else none
  | .lane =>
    match laneOfCode index with
    | some l => if h : id < 14 then some (.lane l ⟨id, h⟩) else none
    | none => none
  | .port => if h : index < 8 ∧ id < 8 then some (.port ⟨index, h.1⟩ ⟨id, h.2⟩) else none
  | .station => if h : index = 0 ∧ id < 6 then some (.station ⟨id, h.2⟩) else none

def State.counter (s : State) : CounterRef → Counter
  | .stream n i => (s.cnt.streams.look n).look i
  | .lane l i => (s.cnt.lanes.get l).look i
  | .port p i => (s.cnt.ports.look p).look i
  | .station i => s.cnt.station.look i

def State.setCounter (s : State) (r : CounterRef) (x : Counter) : State :=
  match r with
  | .stream n i => s.setCnt { s.cnt with streams := s.cnt.streams.put n ((s.cnt.streams.look n).put i x) }
  | .lane l i => s.setCnt { s.cnt with lanes := s.cnt.lanes.set l ((s.cnt.lanes.get l).put i x) }
  | .port p i => s.setCnt { s.cnt with ports := s.cnt.ports.put p ((s.cnt.ports.look p).put i x) }
  | .station i => s.setCnt { s.cnt with station := s.cnt.station.put i x }

/-- A counter after one increment: it wraps from its maximum to 0 and then its overflow flag is set (R144). -/
def Counter.increment (x : Counter) : Counter :=
  { value := x.value + 1, overflow := x.overflow || x.value == BitVec.allOnes 32 }

/-- The increment that takes a counter from below 2^31 to 2^31 (R145). -/
def Counter.atHalf (x : Counter) : Bool := x.value.toNat == 2147483647

/-! ### Lane queues (R59) -/

/-- Entries a class queue of the lane holds at most. -/
def classDepth : Lane → Nat
  | .a => 1024
  | .b => 1024
  | .c => 16

def State.classQueue (s : State) (l : Lane) (k : Fin 4) : List QueueEntry := (s.tx l).classes.look k

def State.setClassQueue (s : State) (l : Lane) (k : Fin 4) (q : List QueueEntry) : State :=
  s.setTx l { s.tx l with classes := (s.tx l).classes.put k q }

def State.setControl (s : State) (l : Lane) (q : List Nat) : State := s.setTx l { s.tx l with control := q }

/-- One entry more, or less, of the stream in the class queues (R59). -/
def State.addQueued (s : State) (n : StreamId) : State :=
  s.setRun n { s.run n with queued := (s.run n).queued + 1 }

def State.subQueued (s : State) (n : StreamId) : State :=
  s.setRun n { s.run n with queued := (s.run n).queued - 1 }

/-- The three lanes in order. -/
def lanes : List Lane := [.a, .b, .c]

/-- The four classes in order. -/
def classes : List (Fin 4) := [0, 1, 2, 3]

/-! ### Transmit views and the choice of a lane (R55, R57, R61) -/

def State.view (s : State) (l : Lane) : View := (s.tx l).view

/-- The first of the lanes that is USABLE, else the first that is DEGRADED, else none (R57, protected plans). -/
def State.preferred (s : State) (ls : List Lane) : Option Lane :=
  match ls.find? (fun l => s.view l == .usable) with
  | some l => some l
  | none => ls.find? (fun l => s.view l == .degraded)

/-- The lanes that are not UNUSABLE (R57, duplicate and single plans). -/
def State.working (s : State) (ls : List Lane) : List Lane := ls.filter (fun l => s.view l != .unusable)

/-- Plan evaluation against the current views (R57): zero to three distinct lanes. -/
def State.evaluate (s : State) : Plan → List Lane
  | .off => []
  | .a => s.working [.a]
  | .b => s.working [.b]
  | .c => s.working [.c]
  | .aThenB => (s.preferred [.a, .b]).toList
  | .bThenA => (s.preferred [.b, .a]).toList
  | .aThenBThenC => (s.preferred [.a, .b, .c]).toList
  | .aAndB => s.working [.a, .b]
  | .aAndBElseC => if s.working [.a, .b] = [] then s.working [.c] else s.working [.a, .b]
  | .aAndBAndC => s.working [.a, .b, .c]

/-- Plans that use one named lane at a time and may move queued cells (R19). -/
def Plan.isProtected : Plan → Bool
  | .aThenB | .bThenA | .aThenBThenC => true
  | _ => false

/-- The lanes a plan names, whatever their views (R19, R109). -/
def Plan.named : Plan → List Lane
  | .off => []
  | .a => [.a]
  | .b => [.b]
  | .c => [.c]
  | .aThenB | .bThenA | .aAndB => [.a, .b]
  | .aThenBThenC | .aAndBElseC | .aAndBAndC => [.a, .b, .c]

/-- The lane a control cell is placed on (R61), of the given lanes. -/
def State.controlLane (s : State) (ls : List Lane) : Option Lane := s.preferred ls

/-! ### Enumerations -/

/-- Every stream with its entry, in ascending order. -/
def State.entriesList (s : State) : List (StreamId × StreamEntry) :=
  (List.finRange 256).zip s.stb.entries.toList

/-- Every context number, in ascending order. -/
def contextIds : List ContextId := List.finRange 64

/-- Every port number, in ascending order. -/
def portIds : List PortId := List.finRange 8

end Sys2Proof.Machine
end

