-- ==== Sys2Proof/Machine/Flags.lean ====
section
/-! DEFINITION. The event flags: firings, notices, the notice floor and the export channels (chapter 10), with what a firing
itself uses: counting, control-class buffers and the controller route. A firing may bring about another one within its own event
(a notice that takes the last buffer above 512 raises BUFFER_LOW), so every operation here is written over the operation `raise`
that decides such an inner firing, and `fire` ties the knot with a depth (log 6). -/

namespace Sys2Proof.Machine

/-- What decides a firing of a source with its detail. -/
abbrev Raise := Source → Detail → State → State

/-- What lets a buffer go (R10): a dereference, which may raise POOL_CHECK, or, within a firing, `dropFresh`. -/
abbrev LetGo := Nat → State → State

/-! ### The sources by name (section 10.1) -/

def srcFault : Source := 0

def srcLaneState : Lane → Source
  | .a => 1
  | .b => 2
  | .c => 3

def srcLaneView : Lane → Source
  | .a => 4
  | .b => 5
  | .c => 6

def srcStrike : Source := 7
def srcPosture : Source := 8
def srcSkew : Source := 9
def srcMergePool : Source := 10
def srcBufferLow : Source := 11
def srcStreamLoss : Source := 12
def srcOvercommit : Source := 13
def srcCounterHalf : Source := 14
def srcMgmtError : Source := 15
def srcSecond : Source := 16

def srcExportDone (ch : ChannelId) : Source := ⟨17 + ch.val, by omega⟩

def srcPeerStale : Source := 21
def srcUndeliverable : Source := 22

/-! ### Counting (R143 to R145) -/

/-- One increment of a counter, with COUNTER_HALF at the half mark (R145). -/
def countWith (raise : Raise) (r : CounterRef) (s : State) : State :=
  let x := s.counter r
  let s := s.setCounter r x.increment
  if x.atHalf then raise srcCounterHalf (.counterHalf r.kind r.index r.id) s else s

/-- UNDELIVERABLE counted for the station and its event raised (R4, R159). -/
def undeliverableWith (raise : Raise) (s : State) : State :=
  raise srcUndeliverable .none (countWith raise (.station StationCounter.undeliverable.id) s)

/-- A granted allocation that takes the free count from 512 to 511 raises BUFFER_LOW (R12); `before` is the state asked. -/
def raiseIfLow (raise : Raise) (before s : State) : State :=
  if before.bfm.freeCount = Config.bufferLowMark then raise srcBufferLow .none s else s

/-- An allocation with its BUFFER_LOW (R9, R12). -/
def allocateWith (raise : Raise) (threshold refs : Nat) (cell : Cell) (s : State) : Option (Nat × State) :=
  match s.allocate threshold refs cell with
  | none => none
  | some (b, t) => some (b, raiseIfLow raise s t)

/-! ### The controller route (R61, R136, R137, R160) -/

/-- The controller port, when it is known and present. -/
def State.reachablePort (s : State) : Option PortId :=
  match s.mga.settings.controllerPort with
  | none => none
  | some p => if s.present p then some p else none

/-- A buffer that the same firing has just allocated let go: its count is 1, so that it is never found at zero
(`State.allocate_dropReference`). -/
def dropFresh : LetGo := fun b s => (s.dropReference b).1

/-- A control cell offered to the egress FIFO of a port (R136). -/
def offerControlWith (raise : Raise) (letGo : LetGo) (p : PortId) (b : Nat) (s : State) : State :=
  if (s.egress p).length < Config.egressDepth then s.setEgress p (s.egress p ++ [.control b])
  else undeliverableWith raise (countWith raise (.port p PortCounter.outDrop.id) (letGo b s))

/-- The control queue a control cell would join now (R61): none when every view is UNUSABLE or the chosen queue holds 8. -/
def State.placement (s : State) : Option Lane :=
  match s.controlLane lanes with
  | none => none
  | some l => if (s.tx l).control.length < Config.controlDepth then some l else none

/-- A cell discarded as UNDELIVERABLE (R159): its buffer let go, counted, the event raised. -/
def discardWith (raise : Raise) (letGo : LetGo) (b : Nat) (s : State) : State := undeliverableWith raise (letGo b s)

/-- A control cell offered to the Lane Transmitter (R61). -/
def placeControlWith (raise : Raise) (letGo : LetGo) (b : Nat) (s : State) : State :=
  match s.placement with
  | some l => s.setControl l ((s.tx l).control ++ [b])
  | none => discardWith raise letGo b s

/-- The controller route (R160). -/
def controllerRouteWith (raise : Raise) (letGo : LetGo) (fromLane : Bool) (b : Nat) (s : State) : State :=
  match s.reachablePort with
  | some p => offerControlWith raise letGo p b s
  | none => if fromLane then discardWith raise letGo b s else placeControlWith raise letGo b s

/-- The controller route can take a control cell now (R137, R157). -/
def State.routeReady (s : State) : Bool :=
  match s.reachablePort with
  | some p => decide ((s.egress p).length < Config.egressDepth)
  | none => s.placement.isSome

/-! ### Notices (R151, R152) -/

/-- The detail of a source as a NOTICE carries it: zeros while its flag is clear. -/
def State.detailOf (s : State) (i : Source) : Detail :=
  if (s.source i).flag then (s.source i).detail else .none

/-- Stream, first lost sequence and lost count. -/
def lossBytes : Detail → List Byte
  | .loss n first count => [byte n.val] ++ be16 first.toNat ++ [byte count]
  | _ => [0, 0, 0, 0]

/-- Stream and raw, stopping at 65535. -/
def skewBytes : Detail → List Byte
  | .skew n raw => [byte n.val] ++ be16 (min raw 65535)
  | _ => [0, 0, 0]

def mergePoolBytes : Detail → List Byte
  | .mergePool n => [byte n.val]
  | _ => [0]

/-- Object kind, index, counter id. -/
def counterHalfBytes : Detail → List Byte
  | .counterHalf k index id => [byte k.code, byte index, byte id]
  | _ => [0, 0, 0]

/-- Cause code and index. -/
def faultBytes : Detail → List Byte
  | .fault cause index => [byte cause.code] ++ be16 index
  | _ => [0, 0, 0]

/-- The five details, NOTICE bytes 6 to 19 (R152, R153). -/
def State.detailBytes (s : State) : List Byte :=
  lossBytes (s.detailOf srcStreamLoss) ++ skewBytes (s.detailOf srcSkew) ++ mergePoolBytes (s.detailOf srcMergePool) ++
    counterHalfBytes (s.detailOf srcCounterHalf) ++ faultBytes (s.detailOf srcFault)

/-- The numbers of the sources, in ascending order. -/
def sourceIds : List Source := List.finRange 23

/-- The pending set as a number: bit n for source n (R152). -/
def State.pendingSet (s : State) : Nat :=
  (sourceIds.map (fun i => flagBit (s.source i).flag i.val)).sum

/-- Of two pending sources, the one with the higher level; of equal levels, the first. -/
def State.higherSource (s : State) (best : Option Source) (i : Source) : Option Source :=
  if (s.source i).flag then
    match best with
    | none => some i
    | some j => if (s.source j).level < (s.source i).level then some i else some j
  else best

/-- The highest pending source of the given ones: the highest level, and of equal levels the lowest number (R152). -/
def State.highestOf (s : State) (of : List Source) : Option Source := of.foldl s.higherSource none

/-- The 20 bytes of a NOTICE (R152). -/
def State.noticePayload (s : State) : List Byte :=
  let top := (s.highestOf sourceIds).getD 0
  [byte top.val, byte (s.source top).level] ++ be24 s.pendingSet ++ [byte s.evu.floor] ++ s.detailBytes

/-- A notice sent (R151): a control-class buffer, the cell built in it, the controller route, NOTICES. Its content is taken before
the BUFFER_LOW of its own allocation, which is raised last, so that the source that caused the notice has the highest level of
those it names but FAULT (R152, log 14). NOTICES is counted once the route has decided the cell (the model's choice, log 40).
Without a buffer, UNDELIVERABLE. While a warm restart is in progress no notice is sent (R168). -/
def sendNoticeWith (raise : Raise) (s : State) : State :=
  if s.restarting then s else
  match s.allocate 0 1 (controllerCell .notice s.mga.station s.noticePayload) with
  | none => undeliverableWith raise s
  | some (b, t) =>
    raiseIfLow raise s (countWith raise (.station StationCounter.notices.id) (controllerRouteWith raise dropFresh false b t))

/-! ### Export channels (R148, R156, R157) -/

/-- The counter at a position of a kind (section 10.4). -/
def State.counterAt (s : State) (kind : ObjectKind) (position : Nat) : Counter :=
  match CounterRef.of kind (position / kind.perObject) (position % kind.perObject) with
  | some r => s.counter r
  | none => .zero

/-- The counters of a channel's block, item k at position (first + k) mod the kind's total (R157). -/
def State.blockOf (s : State) (ch : Channel) : List Counter :=
  (List.range ch.items).map (fun k => s.counterAt ch.kind ((ch.first + k) % ch.kind.total))

/-- Overflow flags, item k in bit k. -/
def overflowBits (xs : List Counter) : Nat :=
  (xs.zipIdx.map (fun x => flagBit x.1.overflow x.2)).sum

/-- The payload of an EXPORT cell (R157). -/
def exportPayload (id : ChannelId) (ch : Channel) (number : BitVec 16) (block : List Counter) : List Byte :=
  [byte id.val] ++ be16 number.toNat ++ [byte ch.kind.code] ++ be16 ch.first ++ [byte ch.items] ++
    (block.map (fun x => be32 x.value.toNat)).flatten ++ be32 (overflowBits block)

/-- A channel after its export (R157, steps 4 to 6): the firing served, one export fewer, the block moved on under WALK, and
unbound when none remains. -/
def Channel.afterExport (ch : Channel) : Channel :=
  { ch with
    firing := false
    first := if ch.walk then (ch.first + ch.items) % ch.kind.total else ch.first
    remaining := if ch.remaining - 1 = 0 then 1 else ch.remaining - 1
    bound := if ch.remaining - 1 = 0 then none else ch.bound }

/-- One attempt of a channel with a pending firing (R157). Nothing changes unless the controller route can take a cell and a
buffer can be granted. The BUFFER_LOW of its own allocation is raised after the cell has joined, so that the cell joins as the
route answered (R137, log 14). -/
def exportAttemptWith (raise : Raise) (id : ChannelId) (s : State) : State :=
  let ch := s.channel id
  if ch.firing && s.routeReady && !s.restarting then
    match s.allocate 0 1 .empty with
    | none => s
    | some (b, t) =>
      let number := ch.number + 1
      let t := t.setChannel id { ch with number := number }
      let t := t.storeCell b (controllerCell .exportCell t.mga.station (exportPayload id ch number (t.blockOf ch)))
      let t := raiseIfLow raise s (controllerRouteWith raise dropFresh false b t)
      let t := t.setChannel id (t.channel id).afterExport
      if ch.remaining - 1 = 0 then raise (srcExportDone id) .none t else t
  else s

/-- A firing taken by a channel (R156): merged into a pending one, or served at once if it can be. A firing merged while a warm
restart is in progress counts EXPORT_OVERRUN like any other (the model's choice, log 26). -/
def takeFiringWith (raise : Raise) (id : ChannelId) (s : State) : State :=
  let ch := s.channel id
  if ch.firing then countWith raise (.station StationCounter.exportOverrun.id) s
  else exportAttemptWith raise id (s.setChannel id { ch with firing := true })

/-- The channel that takes a firing of the source: the lowest-numbered bound to it (R156). FAULT is never taken (R150). -/
def State.takerOf (s : State) (src : Source) : Option ChannelId :=
  if src = srcFault then none
  else (List.finRange 4).find? (fun ch => (s.channel ch).bound == some (.source src))

/-! ### Firings (R150, R151) -/

/-- A flag set, its repeat count 0, its detail recorded (R150). -/
def State.setFlag (s : State) (src : Source) (d : Detail) : State :=
  s.setSource src { s.source src with flag := true, repeats := 0, detail := d }

/-- A further setting of a flag already set: the repeat count stops at 65535 (R150). -/
def State.repeatFlag (s : State) (src : Source) : State :=
  s.setSource src { s.source src with repeats := min ((s.source src).repeats + 1) 65535 }

/-- The notice rule for a flag just set (R151): FAULT's notice leaves the floor, any other raises it first. -/
def noticeRuleWith (raise : Raise) (src : Source) (s : State) : State :=
  if src = srcFault then sendNoticeWith raise s
  else if s.evu.floor < (s.source src).level then sendNoticeWith raise (s.setFloor (s.source src).level)
  else s

/-- One firing decided (R150), inner firings by `raise`. -/
def fireWith (raise : Raise) (src : Source) (d : Detail) (s : State) : State :=
  match s.takerOf src with
  | some ch => takeFiringWith raise ch s
  | none =>
    if (s.source src).flag then s.repeatFlag src
    else noticeRuleWith raise src (s.setFlag src d)

/-- A firing with at most the given nesting of inner firings. -/
def fireTo : Nat → Raise
  | 0 => fun _ _ s => s
  | n + 1 => fireWith (fireTo n)

/-- A block raises a source: one firing (R150). Proofs cite its laws (Laws/Events.lean) and never look into its nesting. -/
@[irreducible] def fire (src : Source) (d : Detail) (s : State) : State := fireTo Config.firingDepth src d s

/-! ### The same operations for every block -/

def count (r : CounterRef) (s : State) : State := countWith fire r s

def countStream (n : StreamId) (c : StreamCounter) (s : State) : State := count (.stream n c.id) s

def countLane (l : Lane) (c : LaneCounter) (s : State) : State := count (.lane l c.id) s

def countPort (p : PortId) (c : PortCounter) (s : State) : State := count (.port p c.id) s

def countStation (c : StationCounter) (s : State) : State := count (.station c.id) s

/-- A counter incremented several times in one event, in succession (R143). -/
def countTimes (r : CounterRef) : Nat → State → State
  | 0, s => s
  | n + 1, s => countTimes r n (count r s)

def undeliverable (s : State) : State := undeliverableWith fire s

/-- A buffer of a MEDIA cell's admission class (R9). -/
def allocateMedia (cls : Fin 4) (refs : Nat) (cell : Cell) (s : State) : Option (Nat × State) :=
  allocateWith fire (Config.mediaThreshold cls) refs cell s

/-- A buffer of the control class (R9). -/
def allocateControl (cell : Cell) (s : State) : Option (Nat × State) := allocateWith fire 0 1 cell s

def sendNotice (s : State) : State := sendNoticeWith fire s

/-- The floor test that ends FLOOR SET and EVENT LEVELS (R154). -/
def floorTest (s : State) : State :=
  match s.highestOf (sourceIds.filter (fun i => i != srcFault)) with
  | none => s
  | some top =>
    if s.evu.floor < (s.source top).level then sendNotice (s.setFloor (s.source top).level) else s

end Sys2Proof.Machine
end

