-- ==== Sys2Proof/Machine/Hold.lean ====
section
/-! DEFINITION. Committed load (section 4.7), the completion of a drain (R27), and FAULT-HOLD: raising a fault cause, the actions of
the station that enters it, and the dereference that can raise one (R10, R166). -/

namespace Sys2Proof.Machine

/-- Fault causes found within an operation, in the order found. -/
abbrev Found := List (FaultCause × Nat)

/-! ### Responses (R162) -/

/-- A built response routed by its destination (R162, step 3). -/
def routeResponseWith (letGo : LetGo) (dest : Fin 8) (b : Nat) (s : State) : State :=
  if dest = controllerAddress then controllerRouteWith fire letGo false b s
  else if dest = peerAddress s.mga.station then placeControlWith fire letGo b s
  else discardWith fire letGo b s

/-- The route would take a response now (R137, R61); it drops one that it would not take. -/
def State.takesResponse (s : State) (dest : Fin 8) : Bool :=
  if dest = controllerAddress then s.routeReady
  else if dest = peerAddress s.mga.station then s.placement.isSome
  else false

/-- A response in a control-class buffer of its own, or UNDELIVERABLE when the buffer is refused (R27, R161). -/
def respondInOwnBufferWith (letGo : LetGo) (dest : Fin 8) (cell : Cell) (s : State) : State :=
  match allocateControl cell s with
  | none => undeliverable s
  | some (b, s) => routeResponseWith letGo dest b s

/-! ### Committed load (R69, R70) -/

/-- What a lane carries, in sixteenths of a cell per ms (section 4.7). -/
def capacity : Lane → Nat
  | .a => 128000
  | .b => 128000
  | .c => 32

/-- One stream's rate on a lane: added to the load, or to the unpoliced count when it is 0. -/
def addRate (rate : Nat) (x : Nat × Nat) : Nat × Nat := if rate = 0 then (x.1, x.2 + 1) else (x.1 + rate, x.2)

/-- Load and unpoliced count of each lane with one more stream read (R69). -/
def State.tallyEntry (s : State) (t : PerLane (Nat × Nat)) (e : StreamEntry) : PerLane (Nat × Nat) :=
  if e.checkAgrees && e.state == .active && e.role == .origin then
    (s.evaluate (e.plan.get s.psc.effective)).foldl (fun t l => t.set l (addRate e.rate (t.get l))) t
  else t

/-- Load and unpoliced count of each lane over all streams (R69). -/
def State.tally (s : State) : PerLane (Nat × Nat) :=
  s.stb.entries.toList.foldl s.tallyEntry { a := (0, 0), b := (0, 0), c := (0, 0) }

/-- A lane with this load and unpoliced count is overcommitted (R69). -/
def overcommits (l : Lane) (x : Nat × Nat) : Bool := capacity l < x.1 || (l == .c && 0 < x.2)

/-- A lane's load, unpoliced count and overcommitted flag stored. -/
def State.setLoad (s : State) (l : Lane) (x : Nat × Nat) : State :=
  s.setTx l { s.tx l with load := x.1, unpoliced := x.2, overcommitted := overcommits l x }

/-- Each lane's committed load derived afresh, with OVERCOMMIT for each lane that passes into overload (R69, R70). -/
def recomputeLoad (s : State) : State :=
  let t := s.tally
  let passing := lanes.filter (fun l => !(s.tx l).overcommitted && overcommits l (t.get l))
  let s := lanes.foldl (fun s l => s.setLoad l (t.get l)) s
  passing.foldl (fun s _ => fire srcOvercommit .none s) s

/-- The entries that disagree with their check, as every recomputation of committed load reads them (R22). -/
def State.disagreeing (s : State) : Found :=
  (s.entriesList.filter (fun e => !e.2.checkAgrees)).map (fun e => (.tableCheck, e.1.val))

/-! ### Completion of a drain (R27, R28) -/

/-- The result of a STREAM STATE: the stream's state and the purged count (section 2.5). -/
def streamStateResult (state : StreamState) (purged : Nat) : List Byte := [byte state.code] ++ be16 purged

/-- TABLE_CHECK of the drained stream's entry, when the check that its completion verifies disagrees (R21). -/
def State.drainFound (s : State) (d : Drain) : Found :=
  if (s.entry d.stream).checkAgrees then [] else [(.tableCheck, d.stream.val)]

/-- The drained stream SUSPENDED, with no drain pending (R27). The stored check follows the change only when it agreed (R21). -/
def suspendDrained (d : Drain) (s : State) : State :=
  (s.setMga { s.mga with drain := none }).setEntry d.stream { s.entry d.stream with state := .suspended }

/-- The response to a completed drain (R27). -/
def State.drainResponse (s : State) (d : Drain) : Cell :=
  responseCell s.mga.station d.source d.tag d.command .ok (streamStateResult .suspended d.purged)

/-- The pending drain completed: SUSPENDED, its response, committed load recomputed (R27). The response is routed before the
recomputation (the model's choice, log 32). -/
def finishDrain (letGo : LetGo) (d : Drain) (s : State) : State :=
  let s := suspendDrained d s
  recomputeLoad (respondInOwnBufferWith letGo d.source (s.drainResponse d) s)

/-- POOL_CHECK of the response's own buffer, when the route drops it with its count already at zero (R10): in a damaged pool the
notice of its own BUFFER_LOW may have been given the same buffer. -/
def State.drainPoolFound (s : State) (d : Drain) : Found :=
  let s := suspendDrained d s
  match allocateControl (s.drainResponse d) s with
  | none => []
  | some (b, s) => if s.takesResponse d.source || (s.buffer b).refs != 0 then [] else [(.poolCheck, b)]

/-! ### Entering FAULT-HOLD (R166) -/

/-- A reference dropped during the FAULT-HOLD actions; the buffers whose count was already zero are gathered. -/
def dropGathering (acc : State × List Nat) (b : Nat) : State × List Nat :=
  let r := acc.1.dropReference b
  (r.1, if r.2 then acc.2 ++ [b] else acc.2)

/-- One class queue entry flushed (R72). -/
def flushEntry (l : Lane) (acc : State × List Nat) (e : QueueEntry) : State × List Nat :=
  let acc := dropGathering acc e.buffer
  (countLane l .txFlush (acc.1.subQueued e.stream), acc.2)

/-- One class queue flushed (R72): the queue is empty before the first of its entries counts (the model's choice, log 13). -/
def flushQueue (acc : State × List Nat) (q : Lane × Fin 4) : State × List Nat :=
  (acc.1.classQueue q.1 q.2).foldl (flushEntry q.1) (acc.1.setClassQueue q.1 q.2 [], acc.2)

/-- Every class queue of every lane flushed (R72). -/
def flushClassQueues (acc : State × List Nat) : State × List Nat :=
  (lanes.flatMap (fun l => classes.map (fun k => (l, k)))).foldl flushQueue acc

/-- The held cells of a window, in order of slot. -/
def Context.heldCells (x : Context) : List Held := x.slots.filterMap id

/-- A context with its window empty and no release instant; the change recomputes its check (R117, R118). -/
def Context.emptied (x : Context) : Context :=
  { x with slots := x.slots.map (fun _ => none), lastRelease := none, checkAgrees := true }

/-- One merge window emptied without release or declaration (R118). A context that is not ATTACHED has no window to empty and
keeps its check, also one that disagrees (the model's choice, log 35). -/
def emptyWindow (acc : State × List Nat) (c : ContextId) : State × List Nat :=
  let x := acc.1.context c
  if x.condition = .attached then
    (x.heldCells.map (·.buffer)).foldl dropGathering (acc.1.setContext c x.emptied, acc.2)
  else acc

def EgressEntry.isControl : EgressEntry → Bool
  | .control _ => true
  | _ => false

/-- One media or gap entry removed from a port's egress FIFO (R141). -/
def purgeEntry (p : PortId) (acc : State × List Nat) : EgressEntry → State × List Nat
  | .media b n _ =>
    let acc := dropGathering acc b
    (countPort p .outDrop (countStream n .egressDrop acc.1), acc.2)
  | .gap _ _ _ _ => (countPort p .outDrop acc.1, acc.2)
  | .control _ => acc

/-- A port's egress FIFO left with its control entries (R141). All its media and gap entries have left it before the first of them
counts, so that a notice or export which the counts bring about finds their room (the model's choice, log 13). -/
def purgePort (acc : State × List Nat) (p : PortId) : State × List Nat :=
  let q := acc.1.egress p
  q.foldl (purgeEntry p) (acc.1.setEgress p (q.filter EgressEntry.isControl), acc.2)

/-- The FAULT-HOLD actions on queues, windows and FIFOs (R72, R118, R141): lanes A, B, C with their classes 0 to 3, contexts 0 to 63,
ports 0 to 7, each from its head (the model's choice of order, log 13). -/
def holdActions (s : State) : State × List Nat :=
  portIds.foldl purgePort (contextIds.foldl emptyWindow (flushClassQueues (s, [])))

/-- A fault cause raised while the station is held (R166). -/
def furtherFault (cause : FaultCause) (index : Nat) (s : State) : State :=
  fire srcFault (.fault cause index) (s.setMga { s.mga with furtherFaults := min (s.mga.furtherFaults + 1) 255 })

/-- The station enters FAULT-HOLD: the fault record, the held flag, the actions, a pending drain completed (R29), FAULT; then
the causes the actions and the drain's completion themselves found, as further faults (R166, log 13). -/
def enterHold (cause : FaultCause) (index : Nat) (s : State) : State :=
  let s := s.setMga { s.mga with faultCause := some cause, faultIndex := index, furtherFaults := 0, held := true }
  let acted := holdActions s
  let drained : State × Found :=
    match acted.1.mga.drain with
    | none => (acted.1, [])
    | some d => (finishDrain dropFresh d acted.1, acted.1.drainFound d ++ acted.1.drainPoolFound d ++ acted.1.disagreeing)
  (acted.2.map (fun b => (FaultCause.poolCheck, b)) ++ drained.2).foldl (fun s f => furtherFault f.1 f.2 s)
    (fire srcFault (.fault cause index) drained.1)

/-- A block raises a fault cause with its index (R166). -/
def raiseFault (cause : FaultCause) (index : Nat) (s : State) : State :=
  if s.mga.held then furtherFault cause index s else enterHold cause index s

/-- Fault causes raised one after the other (R166). -/
def raiseAll (found : Found) (s : State) : State := found.foldl (fun s f => raiseFault f.1 f.2 s) s

/-- A holder lets a buffer go (R10). -/
def dereference (b : Nat) (s : State) : State :=
  let r := s.dropReference b
  if r.2 then raiseFault .poolCheck b r.1 else r.1

/-- A control cell discarded as UNDELIVERABLE (R159). -/
def discard (b : Nat) (s : State) : State := discardWith fire dereference b s

/-- A control cell offered to the Lane Transmitter (R61). -/
def placeControl (b : Nat) (s : State) : State := placeControlWith fire dereference b s

/-- A control cell on the controller route (R160). -/
def controllerRoute (fromLane : Bool) (b : Nat) (s : State) : State := controllerRouteWith fire dereference fromLane b s

/-- A built response routed (R162, step 3). -/
def routeResponse (dest : Fin 8) (b : Nat) (s : State) : State := routeResponseWith dereference dest b s

/-- A response built in a control-class buffer of its own and routed (R161). -/
def respondInOwnBuffer (dest : Fin 8) (tag : BitVec 16) (command : Byte) (status : Status) (result : List Byte) (s : State) :
    State :=
  respondInOwnBufferWith dereference dest (responseCell s.mga.station dest tag command status result) s

/-- Committed load recomputed, with TABLE_CHECK for every entry read that disagrees (R22, R69). The loads are stored and
OVERCOMMIT raised before TABLE_CHECK and the entry to FAULT-HOLD (the model's choice, log 31). -/
def recompute (s : State) : State := raiseAll s.disagreeing (recomputeLoad s)

/-- The pending drain, if there is one, completes (R27). TABLE_CHECK of a disagreeing entry is raised at the check, with no drain
pending for the entry to FAULT-HOLD to complete, and the rest of the completion goes on after it (R21). -/
def completeDrain (s : State) : State :=
  match s.mga.drain with
  | none => s
  | some d =>
    let t := finishDrain dereference d (raiseAll (s.drainFound d) (s.setMga { s.mga with drain := none }))
    raiseAll t.disagreeing t

end Sys2Proof.Machine
end

