-- ==== Sys2Proof/Machine/Lanes.lean ====
section
/-! DEFINITION. What the blocks share about lanes and weather: transmit views with the protection requeue (chapter 4), the effective
posture (chapter 7), and the receive state of a lane (section 5.1). -/

namespace Sys2Proof.Machine

/-! ### Protection requeue (R65, R66) -/

/-- A class queue entry, already out of its queue, dropped as a flushed cell of lane `l` (R65, step 3). -/
def dropFlushed (l : Lane) (e : QueueEntry) (s : State) : State :=
  dereference e.buffer (countLane l .txFlush (s.subQueued e.stream))

/-- The lane a queued cell of a stream moves to (R65, step 2). -/
def State.requeueLane (s : State) (n : StreamId) : Option Lane :=
  if (s.effectivePlan n).isProtected then (s.evaluate (s.effectivePlan n)).head? else none

/-- One entry of the failed lane `l`, class `k`, already out of its queue, decided (R65). An entry whose stream's check disagrees is
dropped before TABLE_CHECK is raised (the model's choice, log 39). -/
def requeueEntry (l : Lane) (k : Fin 4) (e : QueueEntry) (s : State) : State :=
  if (s.entry e.stream).checkAgrees then
    match s.requeueLane e.stream with
    | none => dropFlushed l e s
    | some m =>
      let q := s.classQueue m k
      if q.any (fun x => x.buffer == e.buffer) then dropFlushed l e s
      else if q.length < classDepth m then countLane l .txRequeue (s.setClassQueue m k (q ++ [e]))
      else dereference e.buffer (countStream e.stream .queueDrop (s.subQueued e.stream))
  else raiseFault .tableCheck e.stream.val (dropFlushed l e s)

/-- At most `fuel` entries of a class queue of the failed lane, from the head. -/
def requeueClass (l : Lane) (k : Fin 4) : Nat → State → State
  | 0, s => s
  | fuel + 1, s =>
    match s.classQueue l k with
    | [] => s
    | e :: rest => requeueClass l k fuel (requeueEntry l k e (s.setClassQueue l k rest))

/-- A control queue entry of the failed lane that finds no place (R66). -/
def dropControl (l : Lane) (s : State) (b : Nat) : State := dereference b (countLane l .txFlush s)

/-- The failed lane's control queue moved to another lane (R66). It is empty, and the entries that find a place have joined, before
the first of the others counts (the model's choice, log 41). -/
def requeueControl (l : Lane) (s : State) : State :=
  let q := (s.tx l).control
  let s := s.setControl l []
  match s.controlLane (lanes.filter (fun m => m != l)) with
  | none => q.foldl (dropControl l) s
  | some m =>
    let room := Config.controlDepth - (s.tx m).control.length
    (q.drop room).foldl (dropControl l) (s.setControl m ((s.tx m).control ++ q.take room))

/-- The protection requeue of a lane whose view became UNUSABLE: class queues 0 to 3, then the control queue. -/
def protectionRequeue (l : Lane) (s : State) : State :=
  requeueControl l (classes.foldl (fun s k => requeueClass l k (s.classQueue l k).length s) s)

/-! ### Transmit views (R55, R56) -/

/-- The view that follows a receive state (section 4.1). -/
def viewOf : RxState → View
  | .up => .usable
  | .impaired => .degraded
  | .hunt => .unusable
  | .down => .unusable

/-- The TXFAULT input of a lane; lane C has none (R55). -/
def State.txfault (s : State) : Lane → Bool
  | .a => s.pins.txfaultA
  | .b => s.pins.txfaultB
  | .c => false

/-- The view of a lane as R55 derives it. -/
def State.derivedView (s : State) (l : Lane) : View :=
  if s.txfault l then .unusable
  else if s.lrx.peer.stale then viewOf (s.rx l).state
  else viewOf (s.lrx.peer.rx.get l)

/-- The three views set together. -/
def State.setViews (s : State) (v : PerLane View) : State :=
  lanes.foldl (fun s l => s.setTx l { s.tx l with view := v.get l }) s

/-- The views derived again (R56): the events of the views that change, the protection requeue of each lane that became
UNUSABLE, then committed load. The events come in the order of lanes A, B, C and before the requeue (the model's choice, log 38). -/
def deriveViews (s : State) : State :=
  let v : PerLane View := { a := s.derivedView .a, b := s.derivedView .b, c := s.derivedView .c }
  let changed := lanes.filter (fun l => s.view l != v.get l)
  if changed = [] then s
  else
    let s := changed.foldl (fun s l => fire (srcLaneView l) .none s) (s.setViews v)
    let s := (changed.filter (fun l => v.get l == .unusable)).foldl (fun s l => protectionRequeue l s) s
    recompute s

/-! ### Effective posture (R128 to R130) -/

/-- The higher of two base postures, in the order CLEAR, WATCH, WARNING. -/
def BasePosture.higher (x y : BasePosture) : BasePosture := if x.code < y.code then y else x

/-- The effective posture that R129 derives. -/
def PostureController.derived (p : PostureController) : Posture :=
  if p.localStrike || p.peerStrike then .strike else (p.base.higher p.peerBase).posture

/-- The effective posture derived again; a change raises POSTURE and recomputes committed load (R130). -/
def derivePosture (s : State) : State :=
  let e := s.psc.derived
  if e = s.psc.effective then s
  else recompute (fire srcPosture .none (s.setPsc { s.psc with effective := e }))

/-- The peer posture view derived from the peer report record, then the effective posture (R128). -/
def derivePeerPosture (s : State) : State :=
  let r := s.lrx.peer
  derivePosture (s.setPsc { s.psc with
    peerBase := if r.stale then .clear else r.base
    peerStrike := if r.stale then false else r.strike })

/-- A strike begins or is lengthened: STRIKE, the timer at its full value, local strike active, the effective posture derived
(R123, steps 3 to 5; R125). -/
def startStrike (s : State) : State :=
  let s := fire srcStrike .none s
  derivePosture (s.setPsc { s.psc with timer := 1000 * s.mga.settings.strikeHold, localStrike := true })

/-! ### Receive state (R77) -/

/-- What an entry to DOWN or HUNT leaves of a lane's other state (R77). -/
def LaneRx.lost (r : LaneRx) (state : RxState) : LaneRx :=
  { LaneRx.reset false r.lastSeen with state := state }

/-- The counter of an entry to a receive state (R77). -/
def entryCounter : RxState → Option LaneCounter
  | .down => some .downEntries
  | .hunt => some .huntEntries
  | .impaired => some .impairedEntries
  | .up => none

/-- The lane's record after it enters a receive state (R77). -/
def LaneRx.entered (r : LaneRx) : RxState → LaneRx
  | .down => r.lost .down
  | .hunt => r.lost .hunt
  | .up => if r.state = .hunt then { r with state := .up, badHeaders := 0, huntWindow := [], huntWait := 0 }
           else { r with state := .up, erroredRun := 0, cleanRun := 0 }
  | .impaired => { r with state := .impaired, erroredRun := 0, cleanRun := 0 }

/-- A change of a lane's receive state (R77); while the peer report is stale the views follow it (R56). The event is raised, then the
entry counted, then the views derived (the model's choice of order, log 38). -/
def enterRxState (l : Lane) (state : RxState) (s : State) : State :=
  let s := s.setRx l ((s.rx l).entered state)
  let s := fire (srcLaneState l) .none s
  let s := match entryCounter state with
    | some c => countLane l c s
    | none => s
  if s.lrx.peer.stale then deriveViews s else s

end Sys2Proof.Machine
end

