-- ==== Sys2Proof/Machine/Merge.lean ====
section
/-! DEFINITION. The hitless merge (chapter 6): windows, releases and loss declarations, hold, attachment, the unmerged forward
filter, aging and detachment; and what feeds the egress FIFOs (section 8.2). The steps RELEASE_EXPIRY and CONTEXT_AGE_EXPIRY. -/

namespace Sys2Proof.Machine

/-! ### Offers to an egress FIFO (R135) -/

/-- A media or gap entry offered to the egress FIFO of the stream's port (R135). No media or gap entry stands in a FIFO while the
station is held: one that the rest of an event offers after a fault was found in it is taken out at once, and counts as R141 counts
it (log 13). -/
def offerEgress (n : StreamId) (e : EgressEntry) (s : State) : State :=
  let p := (s.entry n).port
  if s.present p && !s.mga.held && decide ((s.egress p).length < Config.egressDepth) then s.setEgress p (s.egress p ++ [e])
  else
    match e with
    | .media b _ _ => countPort p .outDrop (countStream n .egressDrop (dereference b s))
    | _ => countPort p .outDrop s

/-- A gap entry offered when the stream's gap markers are ON (R102, R104, R113). -/
def offerGap (n : StreamId) (first : Seq) (lost : Nat) (discontinuity : Bool) (s : State) : State :=
  if (s.entry n).gapMarkers then offerEgress n (.gap n first lost discontinuity) s else s

/-- The runtime record after a delivery (R103, R113). -/
def setDelivered (n : StreamId) (seq : Seq) (epoch : Epoch) (s : State) : State :=
  s.setRun n { s.run n with lastValid := true, lastSeq := seq, lastEpoch := epoch }

/-! ### The window (R93, R103 to R105) -/

/-- A record changed in fields its check covers: the check is recomputed (R117). -/
def Context.resealed (x : Context) : Context := { x with checkAgrees := true }

/-- N moved past `k` sequences: every slot moves down by as many (R93). -/
def Context.advanced (x : Context) (k : Nat) : Context :=
  { x with next := x.next + BitVec.ofNat 16 k, slots := x.slots.drop k ++ List.replicate (min k x.slots.length) none }

/-- The first present slot (R105). -/
def Context.firstPresent (x : Context) : Option Nat := x.slots.findIdx? Option.isSome

/-- The held cell of a slot. -/
def Context.slot (x : Context) (k : Nat) : Option Held := x.slots.getD k none

/-- The effective release instant of the first present slot (R105). -/
def Context.deadline (x : Context) : Option Time :=
  if x.condition = .attached then
    match x.heldCells with
    | [] => none
    | h :: _ =>
      match x.lastRelease with
      | none => some h.release
      | some r => if later r h.release then some r else some h.release
  else none

/-- One loss declaration of sequence N and the next `n` − 1 (R104). -/
def declarePiece (c : ContextId) (n : StreamId) (lost : Nat) (s : State) : State :=
  let first := (s.context c).next
  let s := countTimes (.stream n StreamCounter.lost.id) lost s
  let s := s.setRun n { s.run n with lossFirst := first, lossCount := lost }
  let s := fire srcStreamLoss (.loss n first lost) s
  let s := offerGap n first lost false s
  s.setContext c ((s.context c).advanced lost).resealed

/-- A run of `run` missing sequences from N on declared lost, in pieces of at most 32 (R104). -/
def declareLost (c : ContextId) (n : StreamId) : Nat → Nat → State → State
  | 0, _, s => s
  | pieces + 1, run, s =>
    if run = 0 then s
    else declareLost c n pieces (run - Config.lossPiece) (declarePiece c n (min run Config.lossPiece) s)

/-- A run declared lost whole: ceil(run / 32) declarations (R104). -/
def declareRun (c : ContextId) (n : StreamId) (run : Nat) (s : State) : State :=
  declareLost c n ((run + Config.lossPiece - 1) / Config.lossPiece) run s

/-- A delivery (R103, R113): DELIVERED counted and the last delivered sequence moved before the Delivery Unit decides the offer,
so that a drop finds both done (R135). -/
def deliver (n : StreamId) (b : Nat) (seq : Seq) (epoch : Epoch) (s : State) : State :=
  offerEgress n (.media b n seq) (setDelivered n seq epoch (countStream n .delivered s))

/-- The cell of slot 0 released at the current time (R103). A cell that an entry to FAULT-HOLD within the same event has already
taken out of the window (R118) leaves only its sequence to pass (log 13). -/
def releaseHead (c : ContextId) (n : StreamId) (s : State) : State :=
  let x := s.context c
  match x.slot 0 with
  | none => s.setContext c (x.advanced 1).resealed
  | some h =>
    deliver n h.buffer x.next x.epoch (s.setContext c { x.advanced 1 with lastRelease := some s.now, checkAgrees := true })

/-- The sequences of the given slots passed in ascending order: each held cell released, each run of missing ones declared lost
before the release behind it (R101, R106). `run` counts missing sequences met and not yet declared; N stands at the first of
them. -/
def passSlots (c : ContextId) (n : StreamId) : List (Option Held) → Nat → State → State
  | [], run, s => declareRun c n run s
  | none :: rest, run, s => passSlots c n rest (run + 1) s
  | some _ :: rest, run, s => passSlots c n rest 0 (releaseHead c n (declareRun c n run s))

/-- Every held cell released in order of slot, with no declaration for the empty slots between (R25, R102). -/
def releaseAll (c : ContextId) (n : StreamId) : Nat → State → State
  | 0, s => s
  | fuel + 1, s =>
    let x := s.context c
    match x.firstPresent with
    | none => s
    | some k => releaseAll c n fuel (releaseHead c n (s.setContext c (x.advanced k)))

/-- Releases due now: the deadline's expiry, repeated while the new deadline is not later than the current time (R106). -/
def expireDue (c : ContextId) (n : StreamId) : Nat → State → State
  | 0, s => s
  | fuel + 1, s =>
    let x := s.context c
    match x.deadline, x.firstPresent with
    | some t, some k =>
      if later t s.now then s else expireDue c n fuel (passSlots c n (x.slots.take (k + 1)) 0 s)
    | _, _ => s

/-- RELEASE_EXPIRY (R106): nothing happens while the context has no deadline or its deadline lies in the future (log 3). -/
def execReleaseExpiry (c : ContextId) (s : State) : Host.Outcome State Fault Refusal :=
  let x := s.context c
  match x.owner with
  | none => .next s
  | some n => .next (expireDue c n x.heldCells.length s)

/-! ### Hold (R108 to R112) -/

/-- The delay estimates that count for a plan's skew (R109). -/
def State.countingDelays (s : State) (p : Plan) : List Nat :=
  p.named.filterMap (fun l =>
    match (s.rx l).state with
    | .up | .impaired => (s.rx l).delay
    | _ => none)

/-- The skew of a stream's effective plan (R109). -/
def State.skewOf (s : State) (n : StreamId) : Nat :=
  match s.countingDelays (s.effectivePlan n) with
  | [] => 0
  | d :: ds => ds.foldl max d - ds.foldl min d

/-- Skew plus the guard for the effective posture (R110). -/
def State.rawOf (s : State) (n : StreamId) : Nat := s.skewOf n + s.mga.settings.guards.get s.psc.effective

/-- The target of an AUTO hold (R110). -/
def State.targetOf (s : State) (n : StreamId) : Nat := clamp (s.rawOf n) (s.entry n).holdMin (s.entry n).holdMax

/-- The hold moved toward its target at a tick: a rise at once, a fall by at most 8 (R110). -/
def slew (hold target : Nat) : Nat := if hold < target then target else hold - min (hold - target) Config.holdFall

/-- Hold, raw and skew flag set in a context; the check is recomputed when one of them changes (R117). -/
def Context.withHold (x : Context) (hold raw : Nat) (skew : Bool) : Context :=
  { x with
    hold := hold, raw := raw, skew := skew
    checkAgrees := if x.hold = hold ∧ x.raw = raw ∧ x.skew = skew then x.checkAgrees else true }

/-- An AUTO evaluation: raw and hold set, the skew flag evaluated, SKEW raised at a passage from clear to set (R110, R111). -/
def evaluateHold (c : ContextId) (n : StreamId) (hold : Nat) (s : State) : State :=
  let x := s.context c
  let raw := s.rawOf n
  let exceeds := decide ((s.entry n).holdMax < raw)
  let s := s.setContext c (x.withHold hold raw exceeds)
  if exceeds && !x.skew then fire srcSkew (.skew n (min raw 65535)) s else s

/-- The AUTO tick of one context (R110). -/
def autoTick (s : State) (c : ContextId) : State :=
  let x := s.context c
  match x.condition, x.owner with
  | .attached, some n =>
    if (s.entry n).holdMode = .auto then
      if (s.entry n).checkAgrees then evaluateHold c n (slew x.hold (s.targetOf n)) s
      else raiseFault .tableCheck n.val s
    else s
  | _, _ => s

/-- A write of hold fields applied to the stream's attached context (R112); the entry already holds the new values. -/
def applyHoldWrite (n : StreamId) (items : List (Nat × Nat)) (s : State) : State :=
  match (s.run n).context with
  | none => s
  | some c =>
    let x := s.context c
    let e := s.entry n
    match e.holdMode with
    | .auto =>
      if itemNamed items 13 then evaluateHold c n (s.targetOf n) s
      else if itemNamed items 15 || itemNamed items 16 then
        s.setContext c (x.withHold (clamp x.hold e.holdMin e.holdMax) x.raw x.skew)
      else s
    | .fixed =>
      if itemNamed items 13 then s.setContext c (x.withHold e.holdUs x.raw false)
      else if itemNamed items 14 then s.setContext c (x.withHold e.holdUs x.raw x.skew)
      else s

/-! ### Detachment (R115) -/

/-- A context pinned by a stream and not carrying it (R115). -/
def Context.reservedTo (n : StreamId) : Context := { Context.cleared with condition := .reserved, owner := some n, pinned := true }

/-- The link between a context and its stream ended (R115). -/
def detach (c : ContextId) (n : StreamId) (s : State) : State :=
  let x := s.context c
  (s.setRun n { s.run n with context := none }).setContext c (if x.pinned then .reservedTo n else .cleared)

/-- One context at the 250 ms tick (R114). -/
def Context.aged (x : Context) : Context :=
  if x.condition = .attached then
    let idle := !x.arrived && !x.pinned && x.heldCells.isEmpty
    { x with
      age := if x.arrived then 0 else if idle then min (x.age + 1) Config.contextAge else x.age
      arrived := false
      lastRelease := if x.heldCells.isEmpty then none else x.lastRelease
      checkAgrees := if x.heldCells.isEmpty ∧ x.lastRelease ≠ none then true else x.checkAgrees }
  else x

/-- A context whose aging reaches 3 (R114): attached, pooled, idle, its window empty, and at its last tick of age (log 5). -/
def Context.expires (x : Context) : Bool :=
  x.condition == .attached && !x.pinned && !x.arrived && x.heldCells.isEmpty && decide (Config.contextAge ≤ x.age + 1)

/-- CONTEXT_AGE_EXPIRY (R114, R115). -/
def execContextAgeExpiry (c : ContextId) (s : State) : Host.Outcome State Fault Refusal :=
  let x := s.context c
  match x.owner with
  | none => .next s
  | some n => if x.expires && !s.restarting then .next (detach c n s) else .next s

/-! ### Arrivals (R95 to R102) -/

/-- A MEDIA cell handed on by dispatch, in its buffer (R78, step 7). -/
structure Arrival where
  buffer : Nat
  seq : Seq
  epoch : Epoch
  lane : Lane
  deriving DecidableEq, Repr

/-- A cell stored in, or found a duplicate at, offset `d` of the window (R99). No window holds a cell while the station is held:
one that the rest of an event stores after a fault was found in it is taken out at once, as R118 takes it (log 13). -/
def storeAt (c : ContextId) (n : StreamId) (d : Nat) (a : Arrival) (s : State) : State :=
  let x := s.context c
  match x.slot d with
  | none =>
    if s.mga.held then dereference a.buffer s else
    let h : Held := { buffer := a.buffer, arrival := s.now, lane := a.lane, release := s.now + BitVec.ofNat 32 x.hold }
    s.setContext c { x with slots := x.slots.set d (some h), checkAgrees := true }
  | some h =>
    let gap := min (elapsed h.arrival s.now) 65535
    let s := dereference a.buffer (countStream n .dup s)
    let x := s.context c
    s.setContext c { x with worstGap := max x.worstGap gap }

/-- A new run at the cell: N and the epoch are its own, the window is empty and holds it in slot 0 (R97, R102). -/
def startRun (c : ContextId) (n : StreamId) (a : Arrival) (s : State) : State :=
  let x := s.context c
  storeAt c n 0 a (s.setContext c { x with next := a.seq, epoch := a.epoch, synced := true, checkAgrees := true })

/-- A resync counted and, with gap markers ON, its marker handed on (R97, R102, R113). -/
def announceResync (n : StreamId) (seq : Seq) (s : State) : State :=
  offerGap n seq 0 true (countStream n .resync s)

/-- A resync of a synced context (R102). -/
def resync (c : ContextId) (n : StreamId) (a : Arrival) (s : State) : State :=
  let s := releaseAll c n (s.context c).heldCells.length s
  startRun c n a (announceResync n a.seq s)

/-- A jump to a cell at offset `d` (R101): offsets 0 to d − W are passed, the cell lands in the last slot. -/
def jump (c : ContextId) (n : StreamId) (d : Nat) (a : Arrival) (s : State) : State :=
  let x := s.context c
  let passed := d + 1 - x.depth
  let s := passSlots c n (x.slots.take passed ++ List.replicate (passed - x.slots.length) none) 0 s
  countStream n .jump (storeAt c n (x.depth - 1) a s)

/-- A cell that reaches a synced context (R98). -/
def classify (c : ContextId) (n : StreamId) (a : Arrival) (s : State) : State :=
  let x := s.context c
  let d := seqAhead x.next a.seq
  if a.epoch ≠ x.epoch then resync c n a s
  else if d < x.depth then storeAt c n d a s
  else if 32768 ≤ d then dereference a.buffer (countStream n .late s)
  else if d < Config.resyncOffset then jump c n d a s
  else resync c n a s

/-- A cell that reaches an ATTACHED context (R97, R98): the arrival flag is set for each. A resync that begins a run is announced
before the cell is stored, as in R102 (the model's choice, log 41). -/
def arrive (c : ContextId) (n : StreamId) (a : Arrival) (s : State) : State :=
  let s := s.setContext c { s.context c with arrived := true }
  if (s.context c).synced then classify c n a s
  else startRun c n a (if (s.run n).lastValid then announceResync n a.seq s else s)

/-- The context prepared at attachment (R96, steps 1, 2 and 4); its hold follows. -/
def attachedContext (n : StreamId) (e : StreamEntry) (r : RunRecord) (c : ContextId) (epoch : Epoch) : Context :=
  let resumes := r.lastValid && epoch == r.lastEpoch
  { Context.cleared with
    condition := .attached
    owner := some n
    pinned := e.pin == some c
    synced := resumes
    next := if resumes then r.lastSeq + 1 else 0
    epoch := if resumes then r.lastEpoch else 0
    depth := e.depth
    slots := List.replicate e.depth none }

/-- A context attached to the stream of an arriving cell (R96). -/
def attach (c : ContextId) (n : StreamId) (epoch : Epoch) (s : State) : State :=
  let e := s.entry n
  let s := s.setContext c (attachedContext n e (s.run n) c epoch)
  let s := s.setRun n { s.run n with context := some c }
  match e.holdMode with
  | .fixed => s.setContext c { s.context c with hold := e.holdUs }
  | .auto => evaluateHold c n (s.targetOf n) s

/-- The context a stream takes (R95): its pinned one, else the lowest-numbered FREE one. -/
def State.contextFor (s : State) (n : StreamId) : Option ContextId :=
  match (s.entry n).pin with
  | some c => some c
  | none => contextIds.find? (fun c => (s.context c).condition == .free)

/-- A sequence the forward filter delivers after the last delivered one (R113). -/
def isAhead (last seq : Seq) : Bool := 0 < seqAhead last seq && seqAhead last seq < 32768

/-- The unmerged forward filter (R113). UNMERGED is counted before the filter's own counters (the model's choice, log 41). -/
def forwardFilter (n : StreamId) (a : Arrival) (s : State) : State :=
  let r := s.run n
  let s := if (s.entry n).merge then countStream n .unmerged s else s
  let newEpoch := r.lastValid && a.epoch != r.lastEpoch
  if !r.lastValid || newEpoch || isAhead r.lastSeq a.seq then
    let s := if newEpoch then announceResync n a.seq s else s
    deliver n a.buffer a.seq a.epoch s
  else dereference a.buffer (countStream n .late s)

/-- A cell of a merge ON stream handed to the Merge Unit (R95). -/
def mergeUnit (n : StreamId) (a : Arrival) (s : State) : State :=
  match (s.run n).context with
  | some c => arrive c n a s
  | none =>
    if (s.entry n).checkAgrees then
      match s.contextFor n with
      | some c => arrive c n a (attach c n a.epoch s)
      | none => forwardFilter n a (fire srcMergePool (.mergePool n) s)
    else countLane a.lane .rxUnknown (dereference a.buffer (raiseFault .tableCheck n.val s))

end Sys2Proof.Machine
end

