-- ==== Sys2Proof/Machine/Clock.lean ====
section
/-! DEFINITION. Reset and time: POWER_ON_RESET, the ticks of the Link Clock and the steps a tick brings, and the microsecond that
the empty queue lets pass (log 2). A tick and its steps do nothing while a warm restart is in progress (R168). -/

namespace Sys2Proof.Machine

/-- POWER_ON_RESET (R4, R14, R36 and the reset table of each chapter). The queue of commands is not the part's. -/
def execPowerOnReset (strap : Fin 2) (s : State) : Host.Outcome State Fault Refusal :=
  .next (State.powerOn strap s.pins (Pool.freed s.bfm.pool) s.openCount s.pending)

/-! ### The 1 ms tick -/

/-- The bucket of one stream at the 1 ms tick (R47). -/
def refill (e : StreamEntry) (r : RunRecord) : RunRecord :=
  if e.state = .active ∧ e.role = .origin then { r with level := min (r.level + e.rate) (16 * e.burst) } else r

/-- Every bucket refilled (R47). -/
def refillAll (s : State) : State :=
  { s with stb := { s.stb with runs := Vector.zipWith refill s.stb.entries s.stb.runs } }

/-- The peer report record ages while it is fresh (R89). -/
def PeerReport.aged (r : PeerReport) : PeerReport := if r.stale then r else { r with age := min (r.age + 1) Config.staleAge }

/-- The strike timer runs, and the last counted pulse time goes once more than 1,000 µs have passed (R122, R124). -/
def PostureController.ticked (p : PostureController) (now : Time) : PostureController :=
  { p with
    timer := p.timer - 1
    lastPulse := p.lastPulse.filter (fun t => decide (elapsed t now ≤ Config.strikeMerge)) }

/-- The deadline of a pending drain comes nearer (R26), and a waiting request is tried again (R162). -/
def ManagementAgent.ticked (m : ManagementAgent) : ManagementAgent :=
  { m with
    drain := m.drain.map (fun d => { d with ticks := d.ticks - 1 })
    serviceDue := m.serviceDue || !m.requests.isEmpty }

/-- The last probe seen is marked once 65,535 ms have passed since its receipt (R90, log 22). -/
def LaneRx.ticked (r : LaneRx) (now : Time) : LaneRx :=
  { r with lastSeen := r.lastSeen.map (fun x => { x with old := x.old || decide (65535000 ≤ elapsed x.received now) }) }

/-- Every lane's last probe seen at the 1 ms tick. -/
def PerLane.ticked (p : PerLane LaneRx) (now : Time) : PerLane LaneRx :=
  { a := p.a.ticked now, b := p.b.ticked now, c := p.c.ticked now }

/-- TICK_1MS (R15): refill, AUTO holds, peer report age, strike timer and last pulse, drain deadline, service retry, the AUTO holds
by ascending context (the model's choice of order, log 36). -/
def execTick1ms (s : State) : Host.Outcome State Fault Refusal :=
  if s.restarting then .next s
  else
    let s := contextIds.foldl autoTick (refillAll s)
    let s := { s with lrx := { lanes := s.lrx.lanes.ticked s.now, peer := s.lrx.peer.aged } }
    let s := s.setPsc (s.psc.ticked s.now)
    .next (s.setMga s.mga.ticked)

/-- PEER_REPORT_STALE (R89): the tick that brings the age to 300, whether TICK_1MS has raised it yet or not (log 5). The views are
derived before the posture (the model's choice, log 34). -/
def execPeerReportStale (s : State) : Host.Outcome State Fault Refusal :=
  let r := s.lrx.peer
  if !r.stale && decide (Config.staleAge ≤ r.age + 1) && !s.restarting then
    let s := s.setPeer { r with age := Config.staleAge, stale := true }
    .next (derivePeerPosture (deriveViews (fire srcPeerStale .none s)))
  else .next s

/-- STRIKE_TIMER_EXPIRY (R124): the tick that brings the timer to 0, whether TICK_1MS has lowered it yet or not (log 5). -/
def execStrikeTimerExpiry (s : State) : Host.Outcome State Fault Refusal :=
  if s.psc.localStrike && decide (s.psc.timer ≤ 1) && !s.restarting then
    .next (derivePosture (s.setPsc { s.psc with timer := 0, localStrike := false }))
  else .next s

/-! ### Errored intervals (R81 to R83) and probes (R64) -/

/-- The interval that closed was errored (R82). -/
def LaneRx.intervalErrored (r : LaneRx) (threshold : Nat) : Bool := decide (threshold ≤ r.crcFailures) || r.headerFailure

/-- A lane's record after the close of a judged interval (R82): the run of its state, stopping at 255; a new interval opens. -/
def LaneRx.judged (r : LaneRx) (errored : Bool) : LaneRx :=
  { r with
    crcFailures := 0
    headerFailure := false
    erroredRun := if r.state = .up then (if errored then min (r.erroredRun + 1) 255 else 0) else r.erroredRun
    cleanRun := if r.state = .impaired then (if errored then 0 else min (r.cleanRun + 1) 255) else r.cleanRun }

/-- The recover count for the effective posture (R83). -/
def State.recoverCount (s : State) : Nat :=
  match s.psc.effective with
  | .clear | .watch => s.mga.settings.recoverNormal
  | .warning | .strike => s.mga.settings.recoverStorm

/-- The receive state a lane enters at the close of a judged interval, if any (R83). -/
def State.judgement (s : State) (r : LaneRx) : Option RxState :=
  match r.state with
  | .up => if s.mga.settings.impairCount ≤ r.erroredRun then some .impaired else none
  | .impaired => if s.recoverCount ≤ r.cleanRun then some .up else none
  | _ => none

/-- Whether the lane accepts cells (section 5.1). -/
def LaneRx.delineated (r : LaneRx) : Bool := r.state == .up || r.state == .impaired

/-- ERRORED_INTERVAL_CLOSE (R81). -/
def execErroredIntervalClose (l : Lane) (s : State) : Host.Outcome State Fault Refusal :=
  if s.restarting then .next s
  else
    let r := s.rx l
    if r.judging then
      let errored := r.intervalErrored s.mga.settings.erroredThreshold
      let s := if errored then countLane l .erroredIntervals s else s
      let r := r.judged errored
      let s := s.setRx l r
      match s.judgement r with
      | some state => .next (enterRxState l state s)
      | none => .next s
    else .next (s.setRx l { r with judging := r.delineated, crcFailures := 0, headerFailure := false })

/-- PROBE_DUE (R64). -/
def execProbeDue (l : Lane) (s : State) : Host.Outcome State Fault Refusal :=
  if s.restarting then .next s else .next (s.setTx l { s.tx l with probeDue := true })

/-! ### Drains (R27, R28, R68) -/

/-- One entry of the drained stream, already out of its queue, purged (R68). It is counted before its buffer is let go (the
model's choice, log 32). -/
def purgeQueued (s : State) (e : QueueEntry) : State :=
  let s := countStream e.stream .drainPurge (s.subQueued e.stream)
  let s := s.setMga { s.mga with drain := s.mga.drain.map (fun d => { d with purged := d.purged + 1 }) }
  dereference e.buffer s

/-- The entries of a stream removed from one class queue (R68); the others keep their places. The entries taken out of this queue all
count DRAIN_PURGE, also when letting one of them go enters FAULT-HOLD, which completes the drain (the model's choice, log 32). -/
def purgeClass (n : StreamId) (s : State) (q : Lane × Fin 4) : State :=
  let entries := s.classQueue q.1 q.2
  (entries.filter (fun e => e.stream == n)).foldl purgeQueued
    (s.setClassQueue q.1 q.2 (entries.filter (fun e => e.stream != n)))

/-- The entries of a stream removed from every class queue of every lane (R68): lanes A, B, C, and on each the classes 0 to 3 (the
model's choice of order, log 32). -/
def purgeStream (n : StreamId) (s : State) : State :=
  (lanes.flatMap (fun l => classes.map (fun k => (l, k)))).foldl (purgeClass n) s

/-- DRAIN_TIMEOUT (R28): the deadline tick, whether TICK_1MS has counted it yet or not (log 5). -/
def execDrainTimeout (s : State) : Host.Outcome State Fault Refusal :=
  match s.mga.drain with
  | none => .next s
  | some d => if d.ticks ≤ 1 then .next (completeDrain (purgeStream d.stream s)) else .next s

/-- DRAIN_COMPLETION (R27). -/
def execDrainCompletion (s : State) : Host.Outcome State Fault Refusal :=
  match s.mga.drain with
  | none => .next s
  | some d => if (s.run d.stream).queued = 0 then .next (completeDrain s) else .next s

/-! ### The slower ticks -/

/-- TICK_250MS (R114). -/
def execTick250ms (s : State) : Host.Outcome State Fault Refusal :=
  if s.restarting then .next s else .next { s with mrg := s.mrg.map Context.aged }

/-- The pool census (R13). -/
def census (s : State) : State :=
  if Pool.referenced s.bfm.pool + s.bfm.freeCount = Config.poolSize then s
  else raiseFault .poolCheck s.bfm.freeCount s

/-- TICK_1S (R15): the SECOND source fires, and then the census is taken (the model's choice of order, log 36). -/
def execTick1s (s : State) : Host.Outcome State Fault Refusal :=
  if s.restarting then .next s else .next (census (fire srcSecond .none s))

/-! ### The microsecond of an empty queue (log 2) -/

/-- The step that serves a request with this command code (section 1.5, R8). -/
def serviceStep : Nat → Instr
  | 1 => .echo
  | 2 => .streamRead
  | 3 => .streamWrite
  | 4 => .streamFill
  | 5 => .streamState
  | 6 => .contextRead
  | 7 => .laneRead
  | 8 => .counterRead
  | 9 => .counterClear
  | 10 => .postureSet
  | 11 => .strikeTest
  | 12 => .eventRead
  | 13 => .eventClear
  | 14 => .eventLevels
  | 15 => .floorSet
  | 16 => .exportSet
  | 17 => .exportStart
  | 18 => .exportRead
  | 19 => .stationRead
  | 20 => .stationWrite
  | 21 => .restart
  | _ => .unknownCommand

/-- The completion of a drain whose stream has no queued entry left (R27). -/
def State.drainSteps (s : State) : List Instr :=
  match s.mga.drain with
  | some d => if (s.run d.stream).queued = 0 then [.drainCompletion] else []
  | none => []

/-- A context whose deadline the Link Clock has reached (R106). -/
def State.releaseDue (s : State) (c : ContextId) : Bool :=
  match (s.context c).deadline with
  | some t => !later t s.now
  | none => false

/-- The service of the agent's next request (R162). -/
def State.serviceSteps (s : State) : List Instr :=
  match s.mga.restart, s.mga.requests with
  | .idle, r :: _ => if s.mga.serviceDue then [serviceStep (requestCommand r.payload).toNat] else []
  | _, _ => []

/-- The steps that are due without a further microsecond. -/
def State.immediateSteps (s : State) : List Instr :=
  if s.restarting then []
  else s.drainSteps ++ (contextIds.filter s.releaseDue).map Instr.releaseExpiry ++ s.serviceSteps

/-- The Link Clock one microsecond on (R15). -/
def LinkClock.advanced (k : LinkClock) : LinkClock :=
  { k with count := k.count + 1, phase := (k.phase + 1) % 1000000 }

/-- The lanes whose interval closes and whose probe is due at this 1 ms tick: A and B at each, C at every 100th (R64, R81). -/
def State.tickLanes (s : State) : List Lane := if s.lck.phase % 100000 = 0 then [.a, .b, .c] else [.a, .b]

/-- The steps of the 1 ms tick (R15). -/
def State.millisecondSteps (s : State) : List Instr :=
  [.tick1ms] ++
  (if !s.lrx.peer.stale && decide (Config.staleAge ≤ s.lrx.peer.age + 1) then [.peerReportStale] else []) ++
  s.tickLanes.map Instr.erroredIntervalClose ++ s.tickLanes.map Instr.probeDue ++
  (if s.psc.localStrike && decide (s.psc.timer ≤ 1) then [.strikeTimerExpiry] else []) ++
  (match s.mga.drain with
    | some d => if d.ticks ≤ 1 then [.drainTimeout] else []
    | none => []) ++
  ((List.finRange 4).filter (fun ch => (s.channel ch).firing)).map Instr.exportAttempt ++
  (match s.mga.restart with
    | .waiting _ => [.restartResponse]
    | _ => [])

/-- The steps of the ticks that fall at this microsecond (R15). The first 1 ms tick of a warm restart in progress is taken by its
completion alone, and the response is tried at completion (R168). -/
def State.tickSteps (s : State) : List Instr :=
  if s.lck.phase % 1000 ≠ 0 then []
  else if s.restarting then [.restartCompletion, .restartResponse]
  else
    s.millisecondSteps ++
    (if s.lck.phase % 250000 = 0 then
      [.tick250ms] ++ (contextIds.filter (fun c => (s.context c).expires)).map Instr.contextAgeExpiry
    else []) ++
    (if s.lck.phase = 0 then [.tick1s] else [])

/-- The slots of one microsecond: eight on A and on B, one on C at each 500th microsecond (R62). That lane C's slots fall at the
microseconds divisible by 500, one of them in the 1 ms tick's own, is the model's choice (log 42). -/
def State.slotSteps (s : State) : List Instr :=
  (List.replicate 8 [Instr.laneSlot .a, Instr.laneSlot .b]).flatten ++
    (if s.lck.phase % 500 = 0 then [.laneSlot .c] else [])

/-- The acceptance instants of one microsecond at which a port's FIFO holds a cell: at most eight (R37). -/
def State.acceptanceSteps (s : State) : List Instr :=
  if s.restarting then []
  else portIds.flatMap (fun p => List.replicate (min 8 (s.ingress p).length) (.ingressAcceptance p))

/-- What an empty queue lets happen: the steps that are due go onto the queue; with none due, the Link Clock advances by one
microsecond and the steps of the new microsecond go onto it (log 2). -/
def idle (s : State) : State :=
  if s.immediateSteps = [] then
    let s := s.setLck s.lck.advanced
    { s with pending := s.tickSteps ++ s.slotSteps ++ s.acceptanceSteps }
  else { s with pending := s.immediateSteps }

end Sys2Proof.Machine
end

