-- ==== Sys2Proof/Machine/Ingress.lean ====
section
/-! DEFINITION. The routing of control cells (R159), the request queue (R161), and Tributary Ingress with policing and acceptance
(chapter 3, R58 to R60): the steps PORT_CELL_TAKE and INGRESS_ACCEPTANCE. -/

namespace Sys2Proof.Machine

/-! ### Routing of control cells (R159, R161) -/

/-- A request for this station joins the request queue or is answered BUSY (R161). An arrival that leaves the queue non-empty
lets the agent try again (R162). MGMT_BUSY is counted before the BUSY response is built, and the response is built before the
request's own buffer is let go (the model's choice, log 8). -/
def enqueueRequest (b : Nat) (s : State) : State :=
  let cell := (s.buffer b).cell
  let s := countStation .mgmtRequests s
  if s.mga.requests.length < Config.requestDepth then
    dereference b (s.setMga { s.mga with
      requests := s.mga.requests ++ [{ source := cell.source, payload := cell.payload }]
      serviceDue := true })
  else
    let s := countStation .mgmtBusy (s.setMga { s.mga with serviceDue := true })
    dereference b
      (respondInOwnBuffer cell.source (requestTag cell.payload) (requestCommand cell.payload) .busy [] s)

/-- A control cell in its buffer routed by its destination (R4, R159). -/
def routeControl (fromLane : Bool) (b : Nat) (s : State) : State :=
  let cell := (s.buffer b).cell
  if cell.dest = stationAddress s.mga.station then
    if cell.kind = .mgmtReq then enqueueRequest b s else discard b s
  else if cell.dest = peerAddress s.mga.station then
    if fromLane then discard b s else placeControl b s
  else if cell.dest = controllerAddress then controllerRoute fromLane b s
  else discard b s

/-! ### Ingress FIFOs (R37, R38) -/

/-- The port shows space (R37, R38, R53). -/
def State.showsSpace (s : State) (p : PortId) : Bool :=
  s.present p && !s.restarting && decide ((s.ingress p).length < Config.ingressDepth)

/-- PORT_CELL_TAKE (R37): without space the adaptor holds its cell and nothing happens. A cell that is not 124 bytes faults
(log 18). -/
def execPortCellTake (p : PortId) (cell : List Byte) (s : State) : Host.Outcome State Fault Refusal :=
  if cell.length = tribCellSize then
    .next (if s.showsSpace p then s.setIngress p (s.ingress p ++ [cell]) else s)
  else .fault .malformedCell

/-! ### Management requests at ingress (R40, R41) -/

/-- A MGMT_REQ taken at ingress: the controller port learned, the request in a control-class buffer, routed (R40). -/
def acceptRequest (p : PortId) (cell : List Byte) (s : State) : State :=
  let s := s.setMga { s.mga with settings := { s.mga.settings with controllerPort := some p } }
  match allocateControl { Cell.empty with kind := .mgmtReq, addr := addrField .mgmtReq cell, payload := tribPayload cell } s with
  | none => undeliverable s
  | some (b, s) => routeControl false b s

/-! ### Media cells at ingress (R42 to R46) -/

/-- The outcome of policing (R43): the cell conforms, is demoted, or is dropped. -/
inductive Policed where
  | conforms | demoted | dropped
  deriving DecidableEq, Repr

/-- The test of check 5 (R43). -/
def police (e : StreamEntry) (r : RunRecord) : Policed :=
  if e.rate = 0 ∨ 16 ≤ r.level then .conforms
  else
    match e.excess with
    | .drop => .dropped
    | .demote => .demoted

/-- One copy offered to the tail of a lane's class queue (R60). No entry joins a class queue while the station is held (R72): a copy
that the rest of an event offers after a fault was found in it is flushed at once, and counts as R72 counts it (log 13). -/
def offerCopy (b : Nat) (n : StreamId) (k : Fin 4) (s : State) (l : Lane) : State :=
  let q := s.classQueue l k
  if s.mga.held then countLane l .txFlush (dereference b s)
  else if q.length < classDepth l then (s.setClassQueue l k (q ++ [{ buffer := b, stream := n }])).addQueued n
  else dereference b (countStream n .queueDrop s)

/-- A lane's class queue holds no more (R59). -/
def State.classFull (s : State) (k : Fin 4) (l : Lane) : Bool := decide (classDepth l ≤ (s.classQueue l k).length)

/-- The copies of an accepted cell offered to the lanes of its set, in the order of the lanes; NO_LANE when every one is dropped
(R60; the order is the model's choice, log 41). -/
def offerCopies (b : Nat) (n : StreamId) (k : Fin 4) (ls : List Lane) (s : State) : State :=
  let noRoom := ls.all (s.classFull k)
  let s := ls.foldl (offerCopy b n k) s
  if noRoom then countStream n .noLane s else s

/-- The runtime record of a stream after an acceptance: the debit of a policed conforming cell and the next sequence (R46). -/
def RunRecord.accepted (r : RunRecord) (debit : Bool) : RunRecord :=
  { r with level := if debit then r.level - 16 else r.level, sendSeq := r.sendSeq + 1 }

/-- A MEDIA cell that has passed every check, in its buffer (R46). -/
def acceptMedia (b : Nat) (n : StreamId) (demoted : Bool) (k : Fin 4) (ls : List Lane) (s : State) : State :=
  let s := s.setRun n ((s.run n).accepted ((s.entry n).rate != 0 && !demoted))
  let s := countStream n .txCells s
  let s := if demoted then countStream n .policeDemote s else s
  offerCopies b n k ls s

/-- The content of an admitted cell (R6, R45). -/
def ingressCell (cell : List Byte) (demoted : Bool) (k : Fin 4) (seq : Seq) : Cell :=
  { kind := .media, addr := byteAt cell 2, cls := k, frameEnd := (byteAt cell 1).getLsbD 7, demoted := demoted, seq := seq,
    payload := tribPayload cell }

/-- Checks 6 and 7 on a MEDIA cell that policing lets go on (R44, R45). -/
def admitMedia (cell : List Byte) (n : StreamId) (demoted : Bool) (s : State) : State :=
  let k : Fin 4 := if demoted then 3 else (s.entry n).cls
  let ls := s.evaluate (s.effectivePlan n)
  if ls = [] then countStream n .noLane s
  else
    match allocateMedia k ls.length (ingressCell cell demoted k (s.run n).sendSeq) s with
    | none => countStream n .admitDrop s
    | some (b, s) => acceptMedia b n demoted k ls s

/-- The seven checks on a MEDIA cell (R42 to R45). -/
def checkMedia (p : PortId) (cell : List Byte) (s : State) : State :=
  let n : StreamId := (byteAt cell 2).toFin
  let e := s.entry n
  if s.mga.held then countPort p .inactive s
  else if !e.checkAgrees then countPort p .inactive (raiseFault .tableCheck n.val s)
  else if e.state ≠ .active then countPort p .inactive s
  else if e.role ≠ .origin then countPort p .inUnknown s
  else if e.port ≠ p then countPort p .inWrongPort s
  else
    match police e (s.run n) with
    | .dropped => countStream n .policeDrop s
    | .demoted => admitMedia cell n true s
    | .conforms => admitMedia cell n false s

/-- A cell out of its ingress FIFO, dispatched by its kind code and length (R39). -/
def acceptCell (p : PortId) (cell : List Byte) (s : State) : State :=
  let s := countPort p .inCells s
  if 116 < lengthField cell then countPort p .inUnknown s
  else if tribKindCode cell = CellKind.media.code then checkMedia p cell s
  else if tribKindCode cell = CellKind.mgmtReq.code then acceptRequest p cell s
  else countPort p .inUnknown s

/-- INGRESS_ACCEPTANCE (R37, R39): the head of the FIFO is taken. An empty FIFO offers nothing; while a warm restart is in
progress the FIFOs are empty (R168). -/
def execIngressAcceptance (p : PortId) (s : State) : Host.Outcome State Fault Refusal :=
  match s.ingress p with
  | [] => .next s
  | cell :: rest => if s.restarting then .next s else .next (acceptCell p cell (s.setIngress p rest))

end Sys2Proof.Machine
end

