-- ==== Sys2Proof/Machine/Transmit.lean ====
section
/-! DEFINITION. The slot arbiter and the probes it sends (R62 to R64, R84): the steps LANE_SLOT and TXFAULT_CHANGE. -/

namespace Sys2Proof.Machine

/-- A cell between the two stations that no buffer holds: FILL and PROBE (R4). -/
def peerCell (kind : CellKind) (station : Fin 2) (payload : List Byte) : Cell :=
  { Cell.empty with
    kind := kind, addr := stationsByte (peerAddress station) (stationAddress station), payload := payload }

/-- The slot carries this cell, its header completed (R1). -/
def transmit (l : Lane) (cell : Cell) (s : State) : State := s.setLaneOut l (linkCell cell l s.lck.epoch)

/-- The slot carries a FILL (R62). -/
def sendFill (l : Lane) (s : State) : State :=
  countLane l .txFill (transmit l (peerCell .fill s.mga.station []) s)

/-- The number of the next probe of a lane (R7). -/
def LaneTx.nextProbe (t : LaneTx) : Byte :=
  match t.lastProbe with
  | none => 0
  | some k => k + 1

/-- The receive states that a probe carries (R64). -/
def State.rxStates (s : State) : PerLane RxState := { a := (s.rx .a).state, b := (s.rx .b).state, c := (s.rx .c).state }

/-- The payload of the probe that lane `l` sends now (R7, R64, R84, R127). -/
def State.probeOf (s : State) (l : Lane) : List Byte :=
  probePayload s.mga.station l (s.tx l).nextProbe s.now (s.rx l).echo s.rxStates s.psc.base s.psc.localStrike s.lck.epoch

/-- A due probe sent in its slot (R64): the due state is cleared, the echo record is used up (R84), TX_CELLS. -/
def sendProbe (l : Lane) (s : State) : State :=
  let t := transmit l (peerCell .probe s.mga.station (s.probeOf l)) s
  let t := t.setTx l { s.tx l with probeDue := false, lastProbe := some (s.tx l).nextProbe }
  let t := t.setRx l { s.rx l with echo := none }
  countLane l .txCells t

/-- A candidate of a lane's queues (R62). -/
inductive Candidate where
  | control (buffer : Nat)
  | media (k : Fin 4) (entry : QueueEntry)
  deriving DecidableEq, Repr

def Candidate.buffer : Candidate → Nat
  | .control b => b
  | .media _ e => e.buffer

/-- The head entry of a class queue, as a candidate. -/
def State.classHead (s : State) (l : Lane) (k : Fin 4) : Option Candidate := (s.classQueue l k).head?.map (Candidate.media k)

/-- The first candidate that has something to send: the control queue, then the class queues 0 to 3 (R62). -/
def State.candidate (s : State) (l : Lane) : Option Candidate :=
  match (s.tx l).control with
  | b :: _ => some (.control b)
  | [] => classes.findSome? (s.classHead l)

/-- A candidate out of its queue; the queued count of a class queue entry's stream falls by one (R63). -/
def removeCandidate (l : Lane) (x : Candidate) (s : State) : State :=
  match x with
  | .control _ => s.setControl l (s.tx l).control.tail
  | .media k e => (s.setClassQueue l k (s.classQueue l k).tail).subQueued e.stream

/-- The candidates of a slot taken in turn: the first whose check agrees is sent, those before it are discarded, and a FILL is
sent when none is left (R62, R63). Every round takes one entry that stood in a queue when the slot began, or sends. TX_CELLS is counted
before the sent cell's buffer is let go (the model's choice, log 41). -/
def arbitrate (l : Lane) : Nat → State → State
  | 0, s => sendFill l s
  | fuel + 1, s =>
    match s.candidate l with
    | none => sendFill l s
    | some x =>
      let buffer := s.buffer x.buffer
      let s := removeCandidate l x s
      if buffer.checkAgrees then dereference x.buffer (countLane l .txCells (transmit l buffer.cell s))
      else arbitrate l fuel (dereference x.buffer (countLane l .txBufCheck s))

/-- Entries in the queues of a lane. -/
def State.waiting (s : State) (l : Lane) : Nat :=
  (s.tx l).control.length + (classes.map (fun k => (s.classQueue l k).length)).sum

/-- LANE_SLOT (R62). While a warm restart is in progress each slot carries FILL (R168). -/
def execLaneSlot (l : Lane) (s : State) : Host.Outcome State Fault Refusal :=
  .next (if s.restarting then sendFill l s
    else if (s.tx l).probeDue then sendProbe l s
    else arbitrate l (s.waiting l + 1) s)

/-- The level of a TXFAULT input set. -/
def Pins.withTxfault (p : Pins) (l : OpticalLane) (level : Bool) : Pins :=
  match l with
  | .a => { p with txfaultA := level }
  | .b => { p with txfaultB := level }

/-- TXFAULT_CHANGE (R56): the views are derived again. -/
def execTxfaultChange (l : OpticalLane) (asserted : Bool) (s : State) : Host.Outcome State Fault Refusal :=
  .next (deriveViews (s.setPins (s.pins.withTxfault l asserted)))

end Sys2Proof.Machine
end

