-- ==== Sys2Proof/Machine/Receive.lean ====
section
/-! DEFINITION. Lane reception (chapter 5, R3): delineation, the examination of a cell, probes and dispatch. The steps
LOSS_OF_SIGNAL, SIGNAL_RESTORED, HUNT_BYTE and LANE_CELL_RECEIVE. While a warm restart is in progress no cell is examined and no
change of a loss input is taken (R168); the input itself has its level (log 26). -/

namespace Sys2Proof.Machine

/-! ### Loss of signal (R74) -/

/-- The loss input of a lane set to a level. -/
def State.setLoss (s : State) (l : Lane) (level : Bool) : State := s.setPins { s.pins with loss := s.pins.loss.set l level }

/-- LOSS_OF_SIGNAL (R74). -/
def execLossOfSignal (l : Lane) (s : State) : Host.Outcome State Fault Refusal :=
  let s := s.setLoss l true
  .next (if s.restarting || (s.rx l).state == .down then s else enterRxState l .down s)

/-- SIGNAL_RESTORED (R74). -/
def execSignalRestored (l : Lane) (s : State) : Host.Outcome State Fault Refusal :=
  let s := s.setLoss l false
  .next (if s.restarting || (s.rx l).state != .down then s else enterRxState l .hunt s)

/-! ### The search for a cell boundary (R75) -/

/-- Good headers, a cell apart, that delineate a lane. -/
def goodHeadersNeeded : Nat := 8

/-- The last eight bytes searched, with one more byte. -/
def slideWindow (window : List Byte) (b : Byte) : List Byte :=
  let w := window ++ [b]
  w.drop (w.length - 8)

/-- The window is a candidate header that passes (R75). -/
def candidatePasses (window : List Byte) : Bool := window.length == 8 && headerPasses window

/-- A hunting lane's record after one more byte (R75). Without a provisional boundary each byte ends a candidate; with one, only
the byte that completes the next header is tested, and a failure lets the search resume one byte on from that header's first
byte, which the window then holds (log 19). -/
def LaneRx.searched (r : LaneRx) (b : Byte) : LaneRx :=
  let w := slideWindow r.huntWindow b
  if r.goodHeaders = 0 then
    if candidatePasses w then { r with huntWindow := w, goodHeaders := 1, huntWait := linkCellSize }
    else { r with huntWindow := w, huntWait := 0 }
  else if 1 < r.huntWait then { r with huntWindow := w, huntWait := r.huntWait - 1 }
  else if candidatePasses w then
    { r with huntWindow := w, goodHeaders := min (r.goodHeaders + 1) goodHeadersNeeded, huntWait := linkCellSize }
  else { r with huntWindow := w, goodHeaders := 0, huntWait := 0 }

/-- One byte received on a lane: examined while the lane hunts (R75). The eighth good header brings the lane to UP. -/
def huntOn (l : Lane) (s : State) (b : Byte) : State :=
  if (s.rx l).state = .hunt then
    let r := (s.rx l).searched b
    let s := s.setRx l r
    if r.goodHeaders = goodHeadersNeeded then enterRxState l .up s else s
  else s

/-- HUNT_BYTE (R75). -/
def execHuntByte (l : Lane) (b : Byte) (s : State) : Host.Outcome State Fault Refusal :=
  .next (if s.restarting then s else huntOn l s b)

/-! ### Probes (R80, R85 to R88) -/

/-- Round trip of an echo received at `now` (R86). -/
def roundTrip (now : Time) (p : Probe) : Nat := (now - p.echoSendTime - p.dwell).toNat

/-- The echo is of a probe the lane has sent (R86). -/
def echoKnown (lastSent : Option Byte) (echoNumber : Byte) : Bool :=
  match lastSent with
  | none => false
  | some k => (echoNumber - k).toNat = 0 || 127 < (echoNumber - k).toNat

/-- The sample of a valid round trip (R86). -/
def sampleOf (rtt : Nat) : Nat := min (rtt / 2) 65535

/-- The delay estimate after a valid sample (R87). -/
def smoothed (delay : Option Nat) (sample : Nat) : Nat :=
  match delay with
  | none => sample
  | some d => (7 * d + sample + 4) / 8

/-- Step 3 of a used probe's receipt (R80, R86, R87). -/
def takeSample (l : Lane) (p : Probe) (s : State) : State :=
  let rtt := roundTrip s.now p
  if rtt < 2147483648 && echoKnown (s.tx l).lastProbe p.echoNumber then
    let r := s.rx l
    s.setRx l { r with lastSample := some (sampleOf rtt), delay := some (smoothed r.delay (sampleOf rtt)) }
  else countLane l .probeInvalid s

/-- The peer report record that a used probe brings (R88). -/
def Probe.report (p : Probe) (l : Lane) (epoch : Epoch) : PeerReport :=
  { rx := p.rx, base := p.base, strike := p.strike, epoch := epoch, arrival := some l, age := 0, stale := false }

/-- A used probe received (R80). The views, with their protection requeue, are derived before the posture (the model's choice,
log 34). -/
def useProbe (l : Lane) (p : Probe) (epoch : Epoch) (s : State) : State :=
  let s := s.setRx l { s.rx l with
    lastSeen := some { number := p.number, received := s.now, old := false }
    echo := some { number := p.number, sendTime := p.sendTime, received := s.now } }
  let s := if p.echoValid then takeSample l p s else s
  derivePeerPosture (deriveViews (s.setPeer (p.report l epoch)))

/-- A good PROBE consumed (R7, R80). -/
def receiveProbe (l : Lane) (bs : List Byte) (s : State) : State :=
  let payload := (rxCell .probe bs).payload
  if probeUsable payload l (peerAddress s.mga.station) (rxEpoch bs) then useProbe l (readProbe payload) (rxEpoch bs) s
  else countLane l .probeInvalid s

/-! ### Dispatch (R78, R79) -/

/-- The admission class of a received MEDIA cell (R9). -/
def Cell.admissionClass (c : Cell) : Fin 4 := if c.demoted then 3 else c.cls

/-- Steps 5 to 7 of the dispatch of a MEDIA cell (R78). -/
def takeMedia (l : Lane) (cell : Cell) (epoch : Epoch) (s : State) : State :=
  let n := cell.stream
  let s := countStream n .rxCells s
  match allocateMedia cell.admissionClass 1 cell s with
  | none => countStream n .admitDrop s
  | some (b, s) =>
    let a : Arrival := { buffer := b, seq := cell.seq, epoch := epoch, lane := l }
    if (s.entry n).merge then mergeUnit n a s else forwardFilter n a s

/-- A good MEDIA cell dispatched (R78). -/
def dispatchMedia (l : Lane) (cell : Cell) (epoch : Epoch) (s : State) : State :=
  let e := s.entry cell.stream
  if s.mga.held then countLane l .rxUnknown s
  else if !e.checkAgrees then countLane l .rxUnknown (raiseFault .tableCheck cell.stream.val s)
  else if e.state ≠ .active then countLane l .rxUnknown s
  else if e.role = .origin then countLane l .rxUnknown s
  else takeMedia l cell epoch s

/-- A good control cell dispatched (R79). -/
def dispatchControl (cell : Cell) (s : State) : State :=
  match allocateControl cell s with
  | none => undeliverable s
  | some (b, s) => routeControl true b s

/-- A good cell dispatched by its kind (section 5.2). -/
def dispatch (l : Lane) (kind : CellKind) (bs : List Byte) (s : State) : State :=
  match kind with
  | .fill => s
  | .media => dispatchMedia l (rxCell .media bs) (rxEpoch bs) s
  | .probe => receiveProbe l bs s
  | .mgmtReq => dispatchControl (rxCell .mgmtReq bs) s
  | .mgmtRsp => dispatchControl (rxCell .mgmtRsp bs) s
  | .notice => dispatchControl (rxCell .notice bs) s
  | .exportCell => dispatchControl (rxCell .exportCell bs) s

/-! ### The examination of a cell (R3, R76, R81) -/

/-- Header failures in a row that cost a lane its delineation (R76). -/
def badHeadersAllowed : Nat := 4

/-- A cell whose header check fails (R3, step 1; R76). On the fourth the lane hunts, from the byte after the cell's first. -/
def headerFailed (l : Lane) (bs : List Byte) (s : State) : State :=
  let s := countLane l .rxHdrErr s
  let r := s.rx l
  let s := s.setRx l { r with headerFailure := true, badHeaders := r.badHeaders + 1 }
  if badHeadersAllowed ≤ r.badHeaders + 1 then (bs.drop 1).foldl (huntOn l) (enterRxState l .hunt s) else s

/-- A cell whose CRC fails (R3, step 2; R81). -/
def crcFailed (l : Lane) (s : State) : State :=
  let s := countLane l .rxCrcErr s
  s.setRx l { s.rx l with crcFailures := (s.rx l).crcFailures + 1 }

/-- Steps 3 to 5 of the examination (R3). -/
def examineFields (l : Lane) (bs : List Byte) (s : State) : State :=
  match CellKind.ofCode (rxKindCode bs) with
  | none => countLane l .rxUnknown s
  | some kind =>
    if 116 < lengthField bs || rxLaneCode bs != laneCode l then countLane l .rxUnknown s
    else dispatch l kind bs (countLane l .rxGood s)

/-- A delineated cell examined (R3). -/
def examine (l : Lane) (bs : List Byte) (s : State) : State :=
  if headerPasses bs then
    let s := s.setRx l { s.rx l with badHeaders := 0 }
    if crcPasses bs then examineFields l bs s else crcFailed l s
  else headerFailed l bs s

/-- LANE_CELL_RECEIVE (R3): a lane that is not delineated has no cell. Bytes that are not a cell's 128 fault (log 18). -/
def execLaneCellReceive (l : Lane) (cell : List Byte) (s : State) : Host.Outcome State Fault Refusal :=
  if cell.length = linkCellSize then
    .next (if (s.rx l).delineated && !s.restarting then examine l cell s else s)
  else .fault .malformedCell

end Sys2Proof.Machine
end

