-- ==== Sys2Proof/Machine/Delivery.lean ====
section
/-! DEFINITION. What leaves by the tributary ports and what the remaining pins bring (chapters 7, 8 and 10): the steps
EGRESS_HANDOVER, PRESENT_NEGATED, PRESENT_ASSERTED, STRIKE_PULSE and EXPORT_ATTEMPT. -/

namespace Sys2Proof.Machine

/-! ### Handovers (R138, R139) -/

/-- A tributary cell handed to the adaptor (R138). -/
def handOver (p : PortId) (cell : List Byte) (s : State) : State := countPort p .outCells (s.setPortOut p cell)

/-- A media or control entry, already out of its FIFO, decided by its buffer's check (R138): whether it was handed over. -/
def handBuffered (p : PortId) (b : Nat) (s : State) : State × Bool :=
  let buffer := s.buffer b
  if buffer.checkAgrees then (dereference b (handOver p (tribCell buffer.cell) s), true)
  else (dereference b (countPort p .outBufCheck s), false)

/-- A head entry, already out of its FIFO, decided by its form (R138): whether a cell was handed over. -/
def handEntry (p : PortId) (e : EgressEntry) (s : State) : State × Bool :=
  match e with
  | .media b _ _ => handBuffered p b s
  | .control b => handBuffered p b s
  | .gap n first lost discontinuity =>
    (countPort p .gapMarkers (handOver p (tribGap n first lost discontinuity) s), true)

/-- One handover of a port: head entries in turn, until one is handed over or the FIFO is empty (R138). Every round takes one
entry that stood in the FIFO when the handover began, or ends it. -/
def handoverLoop (p : PortId) : Nat → State → State
  | 0, s => s
  | fuel + 1, s =>
    match s.egress p with
    | [] => s
    | e :: rest =>
      let r := handEntry p e (s.setEgress p rest)
      if r.2 then r.1 else handoverLoop p fuel r.1

/-- EGRESS_HANDOVER (R138). An absent port makes none (R140); while a warm restart is in progress the FIFOs are empty (R168). -/
def execEgressHandover (p : PortId) (s : State) : Host.Outcome State Fault Refusal :=
  .next (if s.present p && !s.restarting then handoverLoop p ((s.egress p).length + 1) s else s)

/-! ### Port presence (R140) -/

/-- The presence of a port set. -/
def State.setPresent (s : State) (p : PortId) (level : Bool) : State :=
  s.setPins { s.pins with present := s.pins.present.put p level }

/-- One entry dropped from the egress FIFO of a port that becomes absent (R140); OUT_DROP is counted last (the model's choice,
log 41). -/
def dropAbsent (p : PortId) (s : State) (e : EgressEntry) : State :=
  match e with
  | .media b n _ => countPort p .outDrop (countStream n .egressDrop (dereference b s))
  | .gap _ _ _ _ => countPort p .outDrop s
  | .control b => countPort p .outDrop (undeliverable (dereference b s))

/-- PRESENT_NEGATED (R140): the port is absent and its egress FIFO is emptied, head to tail. What the emptying raises finds the port
absent already (the model's choice, log 41). -/
def execPresentNegated (p : PortId) (s : State) : Host.Outcome State Fault Refusal :=
  let q := s.egress p
  let s := s.setPresent p false
  .next (if s.restarting then s else q.foldl (dropAbsent p) (s.setEgress p []))

/-- PRESENT_ASSERTED (R140, R38). -/
def execPresentAsserted (p : PortId) (s : State) : Host.Outcome State Fault Refusal := .next (s.setPresent p true)

/-! ### Strike pulses (R122, R123) -/

/-- The pulse is merged into the last counted one (R122). -/
def PostureController.merges (p : PostureController) (now : Time) : Bool :=
  match p.lastPulse with
  | none => false
  | some t => elapsed t now ≤ Config.strikeMerge

/-- STRIKE_PULSE (R122, R123). No pulse is taken while a warm restart is in progress (R133). -/
def execStrikePulse (s : State) : Host.Outcome State Fault Refusal :=
  .next (if s.restarting || s.psc.merges s.now then s
    else startStrike (countStation .strikes (s.setPsc { s.psc with lastPulse := some s.now })))

/-! ### Export attempts (R157) -/

/-- EXPORT_ATTEMPT (R157). -/
def execExportAttempt (ch : ChannelId) (s : State) : Host.Outcome State Fault Refusal :=
  .next (exportAttemptWith fire ch s)

end Sys2Proof.Machine
end

