-- ==== Sys2Proof/Machine/Agent.lean ====
section
/-! DEFINITION. The service of the head of the request queue (R162, R8), shared by the steps that serve one command each, and the
smallest of them: ECHO and UNKNOWN_COMMAND. -/

namespace Sys2Proof.Machine

/-- What a command answers. -/
inductive Answer where
  /-- a response with this status and these result bytes -/
  | respond (status : Status) (result : List Byte)
  /-- no response at the service: the request became the pending drain (R26) -/
  | later
  deriving DecidableEq, Repr

/-- How a command decides a request: from its payload and the state, in which the response buffer is already allocated. -/
abbrev Decide := List Byte → State → State × Answer

/-- Nothing changed, one answer. -/
def answer (status : Status) (result : List Byte) (s : State) : State × Answer := (s, .respond status result)

/-- The command is answered BAD_ARGUMENT when the argument length is bad (R8, check 2). -/
def checked (decide : Decide) : Decide := fun payload s =>
  if argLengthBad payload then answer .badArgument [] s else decide payload s

/-- The served request removed from the queue; the next service may follow at once (R162). -/
def removeRequest (s : State) : State :=
  s.setMga { s.mga with requests := s.mga.requests.tail, serviceDue := true }

/-- MGMT_ERROR for the statuses that raise it (R162). -/
def raiseError (status : Status) (s : State) : State := if status.isError then fire srcMgmtError .none s else s

/-- The response built in its buffer and routed, MGMT_ERROR, the request removed (R162, steps 3 and 4; log 21). With no response built
at the service, its buffer is let go after all that the command does, a drain's recomputation included (the model's choice, log 21). -/
def conclude (b : Nat) (r : Request) (x : State × Answer) : State :=
  match x.2 with
  | .respond status result =>
    let s := x.1.storeCell b
      (responseCell x.1.mga.station r.source (requestTag r.payload) (requestCommand r.payload) status result)
    removeRequest (raiseError status (routeResponse r.source b s))
  | .later => removeRequest (dereference b x.1)

/-- The request that this step serves: the head of the queue, while the restart state is idle and its command is the step's
own (R162, log 3). -/
def State.served (s : State) (step : Instr) : Option Request :=
  match s.mga.restart, s.mga.requests with
  | .idle, r :: _ => if serviceStep (requestCommand r.payload).toNat = step then some r else none
  | _, _ => none

/-- A service that found no buffer waits for the next tick or arrival (R162). -/
def awaitBuffer (s : State) : State := s.setMga { s.mga with serviceDue := false }

/-- One service of the agent (R162). A step whose request is not at the head changes nothing (log 3). -/
def serve (step : Instr) (decide : Decide) (s : State) : State :=
  match s.served step with
  | none => s
  | some r =>
    match allocateControl .empty s with
    | none => awaitBuffer s
    | some (b, s) => conclude b r (decide r.payload s)

/-! ### ECHO and UNKNOWN_COMMAND -/

/-- ECHO (R163). -/
def decideEcho : Decide := fun payload s =>
  if requestArgLength payload = 112 then answer .badArgument [] s else answer .ok (requestArgs payload) s

def execEcho (s : State) : Host.Outcome State Fault Refusal := .next (serve .echo (checked decideEcho) s)

/-- A command code outside 1..21 (R8, check 1). -/
def decideUnknown : Decide := fun _ s => answer .unknownCommand [] s

def execUnknownCommand (s : State) : Host.Outcome State Fault Refusal := .next (serve .unknownCommand decideUnknown s)

end Sys2Proof.Machine
end

