-- ==== Sys2Proof/Machine/Streams.lean ====
section
/-! DEFINITION. The requests of the Stream Table (chapter 2): STREAM_READ, STREAM_WRITE, STREAM_FILL and STREAM_STATE. -/

namespace Sys2Proof.Machine

/-- A stream number carried in one byte. -/
def streamOfByte (n : Nat) : StreamId := (byte n).toFin

/-! ### STREAM STATE (R23 to R30) -/

/-- A stream's state changed, its check following (R21), and committed load recomputed (R70). -/
def changeState (n : StreamId) (state : StreamState) (s : State) : State :=
  recompute (s.setEntry n { s.entry n with state := state })

/-- The runtime record of an IDLE stream made ACTIVE (R24). -/
def RunRecord.activated (r : RunRecord) (burst : Nat) : RunRecord :=
  { r with sendSeq := 0, level := 16 * burst, queued := 0, lastValid := false, lastEpoch := 0, context := none }

/-- The runtime record of a SUSPENDED stream made ACTIVE (R30). -/
def RunRecord.resumed (r : RunRecord) (burst : Nat) : RunRecord := { r with level := min r.level (16 * burst) }

/-- The stream's attached context flushed in sequence order and detached (R25). -/
def flushContext (n : StreamId) (s : State) : State :=
  match (s.run n).context with
  | none => s
  | some c => detach c n (releaseAll c n (s.context c).heldCells.length s)

/-- An origin suspend (R26). With nothing queued it completes at once, and the service's own buffer takes its response
(log 12). -/
def startDrain (payload : List Byte) (source : Fin 8) (n : StreamId) (s : State) : State × Answer :=
  if (s.run n).queued = 0 then
    answer .ok (streamStateResult .suspended 0) (changeState n .suspended (changeState n .draining s))
  else
    let d : Drain := { stream := n, tag := requestTag payload, command := requestCommand payload, source := source,
                       ticks := s.mga.settings.drainTimeout, purged := 0 }
    (changeState n .draining (s.setMga { s.mga with drain := some d }), .later)

/-- An answer of STREAM STATE: its three result bytes come with any status (section 2.5). -/
def answerState (status : Status) (n : StreamId) (s : State) : State × Answer :=
  answer status (streamStateResult (s.entry n).state 0) s

/-- The transitions that are made (R24 to R26, R30); those the table refuses (R23, check 5). MGMT_BUSY of a BUSY is counted before the
response is built and routed (the model's choice, log 8). -/
def transition (payload : List Byte) (source : Fin 8) (n : StreamId) (target : Nat) (s : State) : State × Answer :=
  let e := s.entry n
  match e.state, target with
  | .idle, 1 =>
    if e.loaded then answerState .ok n (changeState n .active (s.setRun n ((s.run n).activated e.burst)))
    else answerState .refused n s
  | .idle, 3 => answerState .refused n s
  | .active, 0 => answerState .refused n s
  | .active, 3 =>
    match e.role with
    | .terminus => answerState .ok n (changeState n .suspended (flushContext n s))
    | .origin =>
      if s.mga.drain.isSome then answerState .busy n (countStation .mgmtBusy s) else startDrain payload source n s
  | .suspended, 1 => answerState .ok n (changeState n .active (s.setRun n ((s.run n).resumed e.burst)))
  | .suspended, 0 => answerState .ok n (changeState n .idle (s.setRun n .cleared))
  | _, _ => answerState .ok n s

/-- The source of the request in service. -/
def State.requester (s : State) : Fin 8 :=
  match s.mga.requests with
  | r :: _ => r.source
  | [] => 0

/-- STREAM STATE (R23). Its BAD_ARGUMENT result shows the state of the stream in the place of the first argument byte, payload byte 4,
whatever the argument length says (the model's choice, log 10). -/
def decideStreamState : Decide := fun payload s =>
  let n := streamOfByte (requestArg payload 0)
  let target := requestArg payload 1
  if argLengthBad payload || requestArgLength payload != 2 || 3 < target || target == 2 then answerState .badArgument n s
  else if s.mga.held then answerState .held n s
  else if (s.entry n).state = .draining then answerState .notReady n s
  else if !(s.entry n).checkAgrees then answerState .held n (raiseFault .tableCheck n.val s)
  else transition payload s.requester n target s

def execStreamState (s : State) : Host.Outcome State Fault Refusal := .next (serve .streamState decideStreamState s)

/-! ### Field items (section 2.6, R31, R32) -/

/-- The value is inside the coding of the field (R31, check 2). -/
def fieldValueOk (item : Nat × Nat) : Bool :=
  match item.1 with
  | 1 => item.2 ≤ 1
  | 2 => item.2 ≤ 7
  | 3 => item.2 ≤ 3
  | 4 => item.2 ≤ 9
  | 5 => item.2 ≤ 9
  | 6 => item.2 ≤ 9
  | 7 => item.2 ≤ 9
  | 10 => item.2 ≤ 1
  | 11 => item.2 ≤ 1
  | 13 => item.2 ≤ 1
  | 17 => item.2 < 64 || item.2 == 255
  | 18 => item.2 ≤ 1
  | _ => true

/-- A list of items of `length` argument bytes that R31 takes: one to 37 whole items, known codes, none twice, good values. -/
def fieldListOk (length : Nat) (items : List (Nat × Nat)) : Bool :=
  length % 3 == 0 && 1 ≤ length / 3 && length / 3 ≤ 37 && items.all (fun i => 1 ≤ i.1 && i.1 ≤ 18) && codesDistinct items &&
    items.all fieldValueOk

/-- A fixed field is named (section 2.6). -/
def namesFixed (items : List (Nat × Nat)) : Bool := items.any (fun i => [1, 2, 11, 12, 17].contains i.1)

/-- The rate or a plan is named (R70). -/
def namesLoad (items : List (Nat × Nat)) : Bool := items.any (fun i => [4, 5, 6, 7, 8].contains i.1)

/-- A pin's value (section 2.6). -/
def pinOf (v : Nat) : Option ContextId := if h : v < 64 then some ⟨v, h⟩ else none

def fieldRole (v : Nat) : Role := if v = 0 then .origin else .terminus
def fieldExcess (v : Nat) : ExcessAction := if v = 0 then .drop else .demote
def fieldHoldMode (v : Nat) : HoldMode := if v = 0 then .fixed else .auto
def fieldPort (v : Nat) : PortId := ⟨v % 8, by omega⟩
def fieldClass (v : Nat) : Fin 4 := ⟨v % 4, by omega⟩

/-- A named field read by `f`, or the value it has. -/
def fieldOr {α : Type} (items : List (Nat × Nat)) (code : Nat) (f : Nat → α) (old : α) : α :=
  match itemValue items code with
  | some v => f v
  | none => old

/-- A plan field. -/
def fieldPlan (items : List (Nat × Nat)) (code : Nat) (old : Plan) : Plan :=
  match itemValue items code with
  | some v => (Plan.ofCode v).getD old
  | none => old

/-- The hold_min and hold_max an entry would hold after a write, before their clamp (R32). -/
def StreamEntry.boundsAfter (e : StreamEntry) (items : List (Nat × Nat)) : Nat × Nat :=
  (fieldOr items 15 id e.holdMin, fieldOr items 16 id e.holdMax)

/-- The entry with every named field written, after the clamps of R32 (R31, step 8); its check agrees. -/
def StreamEntry.written (e : StreamEntry) (items : List (Nat × Nat)) : StreamEntry :=
  let bounds := e.boundsAfter items
  { e with
    loaded := e.loaded || (itemNamed items 1 && itemNamed items 2)
    role := fieldOr items 1 fieldRole e.role
    port := fieldOr items 2 fieldPort e.port
    cls := fieldOr items 3 fieldClass e.cls
    plan := { clear := fieldPlan items 4 e.plan.clear, watch := fieldPlan items 5 e.plan.watch,
              warning := fieldPlan items 6 e.plan.warning, strike := fieldPlan items 7 e.plan.strike }
    rate := fieldOr items 8 id e.rate
    burst := fieldOr items 9 (fun v => clamp v 1 1024) e.burst
    excess := fieldOr items 10 fieldExcess e.excess
    merge := fieldOr items 11 (fun v => v == 1) e.merge
    depth := fieldOr items 12 (fun v => clamp v 4 32) e.depth
    holdMode := fieldOr items 13 fieldHoldMode e.holdMode
    holdUs := fieldOr items 14 id e.holdUs
    holdMin := bounds.1
    holdMax := max bounds.1 bounds.2
    pin := fieldOr items 17 pinOf e.pin
    gapMarkers := fieldOr items 18 (fun v => v == 1) e.gapMarkers
    checkAgrees := true }

/-- A burst or depth outside its range is named (R32). -/
def clampsValue (items : List (Nat × Nat)) : Bool :=
  items.any (fun i => (i.1 == 9 && clamp i.2 1 1024 != i.2) || (i.1 == 12 && clamp i.2 4 32 != i.2))

/-- A write of these items clamps a value of the entry (R31, R32). -/
def StreamEntry.clamps (e : StreamEntry) (items : List (Nat × Nat)) : Bool :=
  clampsValue items || decide ((e.boundsAfter items).2 < (e.boundsAfter items).1)

/-- The template of a fill clamped by R32: what the list itself names (R34, log 11). -/
def templateClamps (items : List (Nat × Nat)) : Bool :=
  clampsValue items ||
    (match itemValue items 15, itemValue items 16 with
      | some lo, some hi => decide (hi < lo)
      | _, _ => false)

/-! ### Writing one stream (R31, R33, R94) -/

/-- The pin of another stream's entry (R33). -/
def State.pinnedElsewhere (s : State) (n : StreamId) (c : ContextId) : Bool :=
  s.entriesList.any (fun e => e.1 != n && e.2.pin == some c)

/-- A pin to the context conflicts (R33). -/
def State.pinConflict (s : State) (n : StreamId) (c : ContextId) : Bool :=
  s.pinnedElsewhere n c || ((s.context c).condition == .attached && (s.context c).owner != some n)

/-- The list names a pin that conflicts (R31, check 7). -/
def State.conflicts (s : State) (n : StreamId) (items : List (Nat × Nat)) : Bool :=
  match fieldOr items 17 pinOf none with
  | some c => s.pinConflict n c
  | none => false

/-- Checks 4 to 7 of R31 on one stream: OK when it is written. -/
def State.writeStatus (s : State) (n : StreamId) (items : List (Nat × Nat)) : Status :=
  let e := s.entry n
  if e.state = .draining then .notReady
  else if !e.checkAgrees then .held
  else if e.state = .active && namesFixed items then .refused
  else if s.conflicts n items then .refused
  else .ok

/-- The reservations a pin write moves (R33, R94). -/
def movePin (n : StreamId) (old new : Option ContextId) (s : State) : State :=
  if old = new then s
  else
    let s := match old with
      | some c => s.setContext c .cleared
      | none => s
    match new with
    | some c => s.setContext c (.reservedTo n)
    | none => s

/-- The bucket level brought under a smaller burst (R32, R49). -/
def clampLevel (n : StreamId) (s : State) : State :=
  s.setRun n { s.run n with level := min (s.run n).level (16 * (s.entry n).burst) }

/-- One stream written (R31, step 8), without the recomputation of committed load. -/
def writeStream (n : StreamId) (items : List (Nat × Nat)) (s : State) : State :=
  let old := s.entry n
  let s := s.setEntry n (old.written items)
  let s := movePin n old.pin (s.entry n).pin s
  applyHoldWrite n items (clampLevel n s)

/-- TABLE_CHECK of the stream whose check stopped a write (R22). -/
def raiseIfHeld (n : StreamId) (status : Status) (s : State) : State :=
  if status = .held then raiseFault .tableCheck n.val s else s

/-! ### STREAM WRITE (R31) -/

/-- Checks 3 to 8 of R31. The hold write, which may raise SKEW, comes before the recomputation of committed load, which may raise
OVERCOMMIT (the model's choice, log 33). -/
def writeOne (n : StreamId) (items : List (Nat × Nat)) (s : State) : State × Answer :=
  if s.mga.held then answer .held [] s
  else if s.writeStatus n items = .ok then
    let t := writeStream n items s
    answer .ok [flagByte ((s.entry n).clamps items)]
      (if (s.entry n).state = .active && namesLoad items then recompute t else t)
  else answer (s.writeStatus n items) [] (raiseIfHeld n (s.writeStatus n items) s)

/-- STREAM WRITE (R31). -/
def decideStreamWrite : Decide := fun payload s =>
  let items := threeByteItems ((requestArgs payload).drop 1)
  if requestArgLength payload = 0 || !fieldListOk (requestArgLength payload - 1) items then answer .badArgument [] s
  else writeOne (streamOfByte (requestArg payload 0)) items s

def execStreamWrite (s : State) : Host.Outcome State Fault Refusal := .next (serve .streamWrite (checked decideStreamWrite) s)

/-! ### STREAM FILL (R34) -/

/-- What a fill has done: the state, the number of streams written, the status of the stream it stopped at. -/
structure Filled where
  state : State
  written : Nat
  status : Status
  deriving DecidableEq, Repr

/-- The streams of a fill taken in turn (R34). -/
def fillStreams (items : List (Nat × Nat)) : List StreamId → Nat → State → Filled
  | [], k, s => { state := s, written := k, status := .ok }
  | n :: rest, k, s =>
    if s.writeStatus n items = .ok then fillStreams items rest (k + 1) (writeStream n items s)
    else { state := raiseIfHeld n (s.writeStatus n items) s, written := k, status := s.writeStatus n items }

/-- The streams from `first` to `last`. -/
def streamRange (first last : Nat) : List StreamId := (List.finRange 256).filter (fun i => first ≤ i.val && i.val ≤ last)

/-- A fill of streams that R31 would take as writes (R34). Committed load is recomputed once, after the stream that stops the fill
has entered FAULT-HOLD, if it does (the model's choice, log 11). -/
def fillAll (ids : List StreamId) (items : List (Nat × Nat)) (s : State) : State × Answer :=
  let f := fillStreams items ids 0 s
  let touches := namesLoad items && (ids.take f.written).any (fun n => (s.entry n).state == .active)
  answer (if f.status = .ok then .ok else .part)
    (be16 f.written ++ [flagByte (templateClamps items), byte f.status.code]) (if touches then recompute f.state else f.state)

/-- STREAM FILL (R34). -/
def decideStreamFill : Decide := fun payload s =>
  let first := requestArg payload 0
  let last := requestArg payload 1
  let items := threeByteItems ((requestArgs payload).drop 2)
  if requestArgLength payload < 2 || last < first || !fieldListOk (requestArgLength payload - 2) items then
    answer .badArgument [] s
  else if s.mga.held then answer .held [] s
  else fillAll (streamRange first last) items s

def execStreamFill (s : State) : Host.Outcome State Fault Refusal := .next (serve .streamFill (checked decideStreamFill) s)

/-! ### STREAM READ (R35) -/

/-- The 18 fields in field-code order, two bytes each. -/
def StreamEntry.fieldBytes (e : StreamEntry) : List Byte :=
  ([e.role.code, e.port.val, e.cls.val, e.plan.clear.code, e.plan.watch.code, e.plan.warning.code, e.plan.strike.code, e.rate,
    e.burst, e.excess.code, (flagByte e.merge).toNat, e.depth, e.holdMode.code, e.holdUs, e.holdMin, e.holdMax,
    contextCode e.pin, (flagByte e.gapMarkers).toNat].map be16).flatten

/-- The stream is the one of the pending drain. -/
def State.drains (s : State) (n : StreamId) : Bool :=
  match s.mga.drain with
  | some d => d.stream == n
  | none => false

/-- The 54 result bytes (R35). -/
def State.streamReadResult (s : State) (n : StreamId) : List Byte :=
  let e := s.entry n
  let r := s.run n
  e.fieldBytes ++ [byte e.state.code, flagByte e.loaded, flagByte e.checkAgrees] ++ be16 r.sendSeq.toNat ++ be16 r.level ++
    be16 r.queued ++ [flagByte r.lastValid] ++ be16 r.lastSeq.toNat ++ [r.lastEpoch, byte (contextCode r.context)] ++
    be16 r.lossFirst.toNat ++ [byte r.lossCount, flagByte (s.drains n)]

/-- STREAM READ (R35): the result shows the content as it stands after a disagreement has been raised (log 13). -/
def decideStreamRead : Decide := fun payload s =>
  if requestArgLength payload ≠ 1 then answer .badArgument [] s
  else
    let n := streamOfByte (requestArg payload 0)
    let s := if (s.entry n).checkAgrees then s else raiseFault .tableCheck n.val s
    answer .ok (s.streamReadResult n) s

def execStreamRead (s : State) : Host.Outcome State Fault Refusal := .next (serve .streamRead (checked decideStreamRead) s)

end Sys2Proof.Machine
end

