-- ==== Sys2Proof/Machine/Reports.lean ====
section
/-! DEFINITION. The requests of the Merge Unit, the Lane Receiver, the Counter Block and the Posture Controller: CONTEXT_READ (R116),
LANE_READ (R90), COUNTER_READ and COUNTER_CLEAR (chapter 9), POSTURE_SET and STRIKE_TEST (chapter 7). -/

namespace Sys2Proof.Machine

/-- A number that stops at 65535. -/
def stop16 (n : Nat) : Nat := min n 65535

/-! ### CONTEXT READ (R116, R117) -/

/-- Microseconds from now to a deadline; a deadline that has come reads as 0 (R116, log 22). -/
def timeLeft (now : Time) : Option Time → Nat
  | none => 0
  | some t => if later t now then stop16 (elapsed now t) else 0

/-- Microseconds since a release instant. -/
def timeSince (now : Time) : Option Time → Nat
  | none => 0
  | some t => stop16 (elapsed t now)

/-- Slot number and arriving lane of the first present slot; 255 and 3 when the window is empty. -/
def Context.headBytes (x : Context) : List Byte :=
  match x.firstPresent, x.heldCells with
  | some k, h :: _ => [byte k, byte (laneCode h.lane)]
  | _, _ => [255, 3]

/-- Owner stream, 0 when none. -/
def ownerCode : Option StreamId → Nat
  | none => 0
  | some n => n.val

/-- The 26 result bytes (R116). -/
def Context.readResult (x : Context) (now : Time) : List Byte :=
  [byte x.condition.code, byte (ownerCode x.owner), flagByte x.pinned, flagByte x.checkAgrees, flagByte x.synced] ++
    be16 x.next.toNat ++ [x.epoch, byte x.depth, byte x.heldCells.length] ++ x.headBytes ++
    be16 (timeLeft now x.deadline) ++ be16 x.hold ++ be16 (stop16 x.raw) ++
    [flagByte x.skew, byte x.age, flagByte x.arrived, flagByte x.lastRelease.isSome] ++
    be16 (timeSince now x.lastRelease) ++ be16 x.worstGap

/-- The check verified after the content is taken: the worst copy gap reset when it agrees, CONTEXT_CHECK when it does not
(R117). -/
def verifyContext (c : ContextId) (s : State) : State :=
  let x := s.context c
  if x.checkAgrees then s.setContext c { x with worstGap := 0 } else raiseFault .contextCheck c.val s

/-- The context with this number. -/
def contextOfByte (n : Nat) : ContextId := ⟨n % 64, by omega⟩

/-- CONTEXT READ (R116). -/
def decideContextRead : Decide := fun payload s =>
  let k := requestArg payload 0
  if requestArgLength payload != 1 || 63 < k then answer .badArgument [] s
  else
    let c := contextOfByte k
    answer .ok ((s.context c).readResult s.now) (verifyContext c s)

def execContextRead (s : State) : Host.Outcome State Fault Refusal := .next (serve .contextRead (checked decideContextRead) s)

/-! ### LANE READ (R90, R71) -/

/-- An optional number: whether there is one, and its bytes, of 0 when there is none. -/
def optionalWord : Option Nat → List Byte
  | none => [0, 0, 0]
  | some n => [1] ++ be16 n

/-- Echo record held and its probe number, 0 when none. -/
def echoBytes : Option EchoRecord → List Byte
  | none => [0, 0]
  | some e => [1, e.number]

/-- The last probe seen: whether there is one, its number and the ms since its receipt. While there is none, the number and the
time are free values (log 7). -/
def seenBytes (now : Time) (k : Nat) : Option LastSeen → List Byte
  | none => [0, Config.openByte k] ++ be16 (Config.openWord k).toNat
  | some x => [1, x.number] ++ be16 (if x.old then 65535 else stop16 (elapsed x.received now / 1000))

/-- The last probe sent: whether there is one and its number, a free value while there is none (log 7). -/
def sentBytes (k : Nat) : Option Byte → List Byte
  | none => [0, Config.openByte k]
  | some n => [1, n]

/-- Arrival lane of the peer report, 3 for none. -/
def arrivalCode : Option Lane → Nat
  | none => 3
  | some l => laneCode l

/-- The reception fields of LANE READ. -/
def State.laneRxBytes (s : State) (l : Lane) : List Byte :=
  let r := s.rx l
  [byte r.state.code, flagByte (s.pins.loss.get l), byte r.goodHeaders, byte r.badHeaders] ++ be16 r.crcFailures ++
    [flagByte r.headerFailure, flagByte r.judging, byte r.erroredRun, byte r.cleanRun] ++ optionalWord r.delay ++
    optionalWord r.lastSample ++ echoBytes r.echo ++ seenBytes s.now s.openCount r.lastSeen

/-- The peer report fields of LANE READ. -/
def PeerReport.bytes (p : PeerReport) : List Byte :=
  [flagByte p.stale] ++ be16 p.age ++
    [byte p.rx.a.code, byte p.rx.b.code, byte p.rx.c.code, byte p.base.code, flagByte p.strike, p.epoch,
      byte (arrivalCode p.arrival)]

/-- The transmit fields of LANE READ (R71). -/
def State.laneTxBytes (s : State) (l : Lane) : List Byte :=
  let t := s.tx l
  [byte t.view.code, flagByte (s.txfault l), byte t.control.length] ++
    (classes.map (fun k => be16 (s.classQueue l k).length)).flatten ++ [flagByte t.probeDue] ++
    sentBytes (s.openCount + 1) t.lastProbe ++ be32 t.load ++ be16 t.unpoliced ++ [flagByte t.overcommitted]

/-- The 54 result bytes (R90). -/
def State.laneReadResult (s : State) (l : Lane) : List Byte :=
  s.laneRxBytes l ++ s.lrx.peer.bytes ++ s.laneTxBytes l ++ [flagByte (s.source (srcLaneState l)).flag]

/-- A source with its flag clear, its repeat count 0 and its detail zeros; its level is kept (R153). -/
def clearSource (i : Source) (s : State) : State := s.setSource i (.quiet (s.source i).level)

/-- LANE READ (R90): the lane's event is cleared, its repeat count with it (log 15). Two open values are drawn (log 7). -/
def decideLaneRead : Decide := fun payload s =>
  if requestArgLength payload ≠ 1 then answer .badArgument [] s
  else
    match laneOfCode (requestArg payload 0) with
    | none => answer .badArgument [] s
    | some l =>
      answer .ok (s.laneReadResult l) (clearSource (srcLaneState l) { s with openCount := s.openCount + 2 })

def execLaneRead (s : State) : Host.Outcome State Fault Refusal := .next (serve .laneRead (checked decideLaneRead) s)

/-! ### COUNTER READ and COUNTER CLEAR (R146, R147) -/

/-- The counters of an object with ids from `first`, as many as `count`. -/
def counterRefs (kind : ObjectKind) (index first count : Nat) : List CounterRef :=
  (List.range count).filterMap (fun k => CounterRef.of kind index (first + k))

/-- Counters set to 0 with their overflow flags cleared. -/
def clearCounters (rs : List CounterRef) (s : State) : State := rs.foldl (fun s r => s.setCounter r .zero) s

/-- The arguments of a COUNTER READ are good (R146, check 1). -/
def counterRangeOk (kind : ObjectKind) (index first count clear : Nat) : Bool :=
  index < kind.objects && 1 ≤ count && count ≤ 25 && first + count ≤ kind.perObject && clear ≤ 1

/-- Checks 2 and 3 of R146. -/
def readCounters (kind : ObjectKind) (index first count : Nat) (clear : Bool) (s : State) : State × Answer :=
  if clear && s.mga.held then answer .held [] s
  else
    let rs := counterRefs kind index first count
    let xs := rs.map s.counter
    answer .ok
      ([byte kind.code, byte index, byte first, byte count] ++ (xs.map (fun x => be32 x.value.toNat)).flatten ++
        be32 (overflowBits xs))
      (if clear then clearCounters rs s else s)

/-- COUNTER READ (R146). -/
def decideCounterRead : Decide := fun payload s =>
  match ObjectKind.ofCode (requestArg payload 0) with
  | none => answer .badArgument [] s
  | some kind =>
    if requestArgLength payload = 5 ∧
        counterRangeOk kind (requestArg payload 1) (requestArg payload 2) (requestArg payload 3) (requestArg payload 4) then
      readCounters kind (requestArg payload 1) (requestArg payload 2) (requestArg payload 3) (requestArg payload 4 == 1) s
    else answer .badArgument [] s

def execCounterRead (s : State) : Host.Outcome State Fault Refusal := .next (serve .counterRead (checked decideCounterRead) s)

/-- Every counter of the objects from `first` to `last`. -/
def objectRefs (kind : ObjectKind) (first last : Nat) : List CounterRef :=
  (List.range' first (last + 1 - first)).flatMap (fun i => counterRefs kind i 0 kind.perObject)

/-- COUNTER CLEAR (R147). -/
def decideCounterClear : Decide := fun payload s =>
  let first := requestArg payload 1
  let last := requestArg payload 2
  match ObjectKind.ofCode (requestArg payload 0) with
  | none => answer .badArgument [] s
  | some kind =>
    if requestArgLength payload = 3 ∧ first ≤ last ∧ last < kind.objects then
      if s.mga.held then answer .held [] s
      else answer .ok (be16 ((last + 1 - first) * kind.perObject)) (clearCounters (objectRefs kind first last) s)
    else answer .badArgument [] s

def execCounterClear (s : State) : Host.Outcome State Fault Refusal := .next (serve .counterClear (checked decideCounterClear) s)

/-! ### POSTURE SET and STRIKE TEST (R121, R125) -/

/-- A base posture's code (R121). -/
def BasePosture.ofCode : Nat → Option BasePosture
  | 0 => some .clear
  | 1 => some .watch
  | 2 => some .warning
  | _ => none

/-- POSTURE SET (R121). -/
def decidePostureSet : Decide := fun payload s =>
  if requestArgLength payload ≠ 1 then answer .badArgument [] s
  else
    match BasePosture.ofCode (requestArg payload 0) with
    | none => answer .badArgument [] s
    | some base =>
      if s.mga.held then answer .held [] s
      else
        let s := derivePosture (s.setPsc { s.psc with base := base })
        answer .ok [byte s.psc.base.code, byte s.psc.effective.code] s

def execPostureSet (s : State) : Host.Outcome State Fault Refusal := .next (serve .postureSet (checked decidePostureSet) s)

/-- STRIKE TEST (R125). -/
def decideStrikeTest : Decide := fun payload s =>
  if requestArgLength payload ≠ 0 then answer .badArgument [] s
  else if s.mga.held then answer .held [] s
  else
    let s := startStrike s
    answer .ok ([byte s.psc.effective.code] ++ be32 s.psc.timer) s

def execStrikeTest (s : State) : Host.Outcome State Fault Refusal := .next (serve .strikeTest (checked decideStrikeTest) s)

end Sys2Proof.Machine
end

