-- ==== Sys2Proof/Machine/Events.lean ====
section
/-! DEFINITION. The requests of the Event Unit (chapter 10): EVENT_READ, EVENT_CLEAR, EVENT_LEVELS, FLOOR_SET, EXPORT_SET,
EXPORT_START and EXPORT_READ. -/

namespace Sys2Proof.Machine

/-! ### EVENT READ and EVENT CLEAR (R153) -/

/-- Level and repeat count of a source. -/
def SourceRecord.bytes (x : SourceRecord) : List Byte := [byte x.level] ++ be16 x.repeats

/-- The 87 result bytes (R153). -/
def State.eventReadResult (s : State) : List Byte :=
  [byte s.evu.floor] ++ be24 s.pendingSet ++ (s.evu.sources.toList.map SourceRecord.bytes).flatten ++ s.detailBytes

/-- EVENT READ (R153). -/
def decideEventRead : Decide := fun payload s =>
  if requestArgLength payload ≠ 0 then answer .badArgument [] s else answer .ok s.eventReadResult s

def execEventRead (s : State) : Host.Outcome State Fault Refusal := .next (serve .eventRead (checked decideEventRead) s)

/-- The sources that EVENT CLEAR leaves as they stand (R153). -/
def clearedElsewhere (i : Source) : Bool := i == srcFault || i == srcLaneState .a || i == srcLaneState .b || i == srcLaneState .c

/-- One source of an EVENT CLEAR. -/
def clearNamed (set : Nat) (s : State) (i : Source) : State :=
  if set.testBit i.val && !clearedElsewhere i then clearSource i s else s

/-- EVENT CLEAR (R153). -/
def decideEventClear : Decide := fun payload s =>
  let set := requestArg payload 0 * 65536 + requestArg payload 1 * 256 + requestArg payload 2
  if requestArgLength payload != 3 || set.testBit 23 then answer .badArgument [] s
  else if s.mga.held then answer .held [] s
  else
    let s := sourceIds.foldl (clearNamed set) s
    answer .ok (be24 s.pendingSet) s

def execEventClear (s : State) : Host.Outcome State Fault Refusal := .next (serve .eventClear (checked decideEventClear) s)

/-! ### FLOOR SET and EVENT LEVELS (R154) -/

/-- The highest level and floor of a source other than FAULT. -/
def highestLevel : Nat := 6

/-- FLOOR SET (R154). -/
def decideFloorSet : Decide := fun payload s =>
  let v := requestArg payload 0
  if requestArgLength payload ≠ 1 then answer .badArgument [] s
  else if s.mga.held then answer .held [] s
  else
    let s := floorTest (s.setFloor (min v highestLevel))
    answer .ok [flagByte (decide (highestLevel < v)), byte s.evu.floor] s

def execFloorSet (s : State) : Host.Outcome State Fault Refusal := .next (serve .floorSet (checked decideFloorSet) s)

/-- The pair raises a source other than FAULT to level 7, which is clamped. -/
def clampsLevel (pair : Nat × Nat) : Bool := pair.1 != srcFault.val && highestLevel < pair.2

/-- One source given its named level; FAULT keeps its own. -/
def setLevel (pairs : List (Nat × Nat)) (s : State) (i : Source) : State :=
  match itemValue pairs i.val with
  | some level => if i = srcFault then s else s.setSource i { s.source i with level := min level highestLevel }
  | none => s

/-- A list of pairs of `length` argument bytes that R154 takes. -/
def levelListOk (length : Nat) (pairs : List (Nat × Nat)) : Bool :=
  length % 2 == 0 && 1 ≤ length / 2 && length / 2 ≤ 23 && pairs.all (fun p => p.1 ≤ 22 && p.2 ≤ 7) && codesDistinct pairs

/-- EVENT LEVELS (R154). -/
def decideEventLevels : Decide := fun payload s =>
  let pairs := bytePairs (requestArgs payload)
  if !levelListOk (requestArgLength payload) pairs then answer .badArgument [] s
  else if s.mga.held then answer .held [] s
  else
    let s := floorTest (sourceIds.foldl (setLevel pairs) s)
    answer .ok [flagByte (pairs.any clampsLevel), byte s.evu.floor] s

def execEventLevels (s : State) : Host.Outcome State Fault Refusal := .next (serve .eventLevels (checked decideEventLevels) s)

/-! ### Export channels (R155, R156) -/

/-- The channel with this number. -/
def channelOfByte (n : Nat) : Option ChannelId := if h : n < 4 then some ⟨n, h⟩ else none

/-- A bound source's code: a source 1..22, 254 MANUAL, 255 none (R155). The outer `none` is a bad code. -/
def bindingOfCode (n : Nat) : Option (Option Binding) :=
  if n = 255 then some none
  else if n = 254 then some (some .manual)
  else if h : 1 ≤ n ∧ n < 23 then some (some (.source ⟨n, h.2⟩))
  else none

/-- The code of a bound source. -/
def bindingCode : Option Binding → Nat
  | none => 255
  | some .manual => 254
  | some (.source i) => i.val

/-- The most items a channel's block of a kind may hold (R155). -/
def mostItems (kind : ObjectKind) : Nat := min 26 kind.total

/-- What the arguments of an EXPORT SET give a channel (R155). -/
def newChannel (bound : Option Binding) (kind : ObjectKind) (first items step count : Nat) : Channel :=
  { bound := bound, kind := kind, first := first, items := clamp items 1 (mostItems kind), walk := step == 1,
    remaining := if count = 0 then 65536 else count, firing := false, number := 0 }

/-- EXPORT SET (R155): channel, source, kind, first (two bytes), items, step, count (two bytes). -/
def decideExportSet : Decide := fun payload s =>
  let arg := requestArg payload
  let first := arg 3 * 256 + arg 4
  match channelOfByte (arg 0), bindingOfCode (arg 1), ObjectKind.ofCode (arg 2) with
  | some ch, some bound, some kind =>
    if requestArgLength payload ≠ 9 ∨ kind.total ≤ first ∨ 1 < arg 6 then answer .badArgument [] s
    else if s.mga.held then answer .held [] s
    else
      answer .ok [flagByte (clamp (arg 5) 1 (mostItems kind) != arg 5)]
        (s.setChannel ch (newChannel bound kind first (arg 5) (arg 6) (arg 7 * 256 + arg 8)))
  | _, _, _ => answer .badArgument [] s

def execExportSet (s : State) : Host.Outcome State Fault Refusal := .next (serve .exportSet (checked decideExportSet) s)

/-- EXPORT START (R156). -/
def decideExportStart : Decide := fun payload s =>
  match channelOfByte (requestArg payload 0) with
  | none => answer .badArgument [] s
  | some ch =>
    if requestArgLength payload ≠ 1 then answer .badArgument [] s
    else if s.mga.held then answer .held [] s
    else if (s.channel ch).bound = some .manual then answer .ok [1] (takeFiringWith fire ch s)
    else answer .ok [0] s

def execExportStart (s : State) : Host.Outcome State Fault Refusal := .next (serve .exportStart (checked decideExportStart) s)

/-- The 12 result bytes of EXPORT READ (R155). -/
def Channel.readResult (ch : Channel) : List Byte :=
  [byte (bindingCode ch.bound), byte ch.kind.code] ++ be16 ch.first ++ [byte ch.items, flagByte ch.walk] ++
    be24 ch.remaining ++ [flagByte ch.firing] ++ be16 ch.number.toNat

/-- EXPORT READ (R155). -/
def decideExportRead : Decide := fun payload s =>
  match channelOfByte (requestArg payload 0) with
  | none => answer .badArgument [] s
  | some ch => if requestArgLength payload ≠ 1 then answer .badArgument [] s else answer .ok (s.channel ch).readResult s

def execExportRead (s : State) : Host.Outcome State Fault Refusal := .next (serve .exportRead (checked decideExportRead) s)

end Sys2Proof.Machine
end

