-- ==== Sys2Proof/Machine/Station.lean ====
section
/-! DEFINITION. The station's own requests and the warm restart (chapter 11): STATION_READ, STATION_WRITE, RESTART, and the steps
RESTART_COMPLETION and RESTART_RESPONSE. -/

namespace Sys2Proof.Machine

/-! ### STATION READ (R164) -/

/-- The controller port in one byte: 255 for none. -/
def portCode : Option PortId → Nat
  | none => 255
  | some p => p.val

/-- Port presence: port n in bit n. -/
def State.presenceBits (s : State) : Nat := (portIds.map (fun p => flagBit (s.present p) p.val)).sum

/-- The stream of the pending drain, 0 when none. -/
def drainStreamCode : Option Drain → Nat
  | none => 0
  | some d => d.stream.val

/-- The settings as STATION READ shows them. -/
def Settings.bytes (x : Settings) : List Byte :=
  [byte (portCode x.controllerPort)] ++ be16 x.strikeHold ++ be16 x.guards.clear ++ be16 x.guards.watch ++
    be16 x.guards.warning ++ be16 x.guards.strike ++
    [byte x.erroredThreshold, byte x.impairCount, byte x.recoverNormal, byte x.recoverStorm] ++ be16 x.drainTimeout

/-- The 55 result bytes (R164). -/
def State.stationReadResult (s : State) : List Byte :=
  let m := s.mga
  [byte m.station.val] ++ m.settings.bytes ++
    [byte s.psc.base.code, byte s.psc.effective.code, byte s.evu.floor, s.lck.epoch, flagByte m.held,
      byte (faultCauseCode m.faultCause)] ++ be16 m.faultIndex ++ [byte m.furtherFaults] ++ be32 s.psc.timer ++
    [byte s.psc.peerBase.code, flagByte s.psc.peerStrike] ++ be16 s.bfm.freeCount ++
    [flagByte m.drain.isSome, byte (drainStreamCode m.drain), byte m.requests.length, byte s.presenceBits] ++
    (portIds.map (fun p => be16 (s.egress p).length)).flatten

/-- STATION READ (R164). -/
def decideStationRead : Decide := fun payload s =>
  if requestArgLength payload ≠ 0 then answer .badArgument [] s else answer .ok s.stationReadResult s

def execStationRead (s : State) : Host.Outcome State Fault Refusal := .next (serve .stationRead (checked decideStationRead) s)

/-! ### STATION WRITE (R165) -/

/-- The range of a setting other than the controller port. -/
def settingRange : Nat → Nat × Nat
  | 2 => (1, 600)
  | 3 => (0, 20000)
  | 4 => (0, 20000)
  | 5 => (0, 20000)
  | 6 => (0, 20000)
  | 7 => (1, 255)
  | 8 => (1, 15)
  | 9 => (1, 255)
  | 10 => (1, 255)
  | 11 => (1, 1000)
  | _ => (0, 65535)

/-- A value brought into its setting's range. -/
def clampSetting (code v : Nat) : Nat := clamp v (settingRange code).1 (settingRange code).2

/-- A controller port value (R165). -/
def portOf (v : Nat) : Option PortId := if h : v < 8 then some ⟨v, h⟩ else none

/-- The settings with every named one written (R165, check 3). -/
def Settings.written (x : Settings) (items : List (Nat × Nat)) : Settings :=
  let value := fun (code old : Nat) => fieldOr items code (clampSetting code) old
  { controllerPort := fieldOr items 1 portOf x.controllerPort
    strikeHold := value 2 x.strikeHold
    guards := { clear := value 3 x.guards.clear, watch := value 4 x.guards.watch, warning := value 5 x.guards.warning,
                strike := value 6 x.guards.strike }
    erroredThreshold := value 7 x.erroredThreshold
    impairCount := value 8 x.impairCount
    recoverNormal := value 9 x.recoverNormal
    recoverStorm := value 10 x.recoverStorm
    drainTimeout := value 11 x.drainTimeout }

/-- A list of items of `length` argument bytes that R165 takes (check 1). -/
def settingListOk (length : Nat) (items : List (Nat × Nat)) : Bool :=
  length % 3 == 0 && 1 ≤ length / 3 && length / 3 ≤ 11 && items.all (fun i => 1 ≤ i.1 && i.1 ≤ 11) && codesDistinct items &&
    items.all (fun i => i.1 != 1 || i.2 < 8 || i.2 == 255)

/-- STATION WRITE (R165). -/
def decideStationWrite : Decide := fun payload s =>
  let items := threeByteItems (requestArgs payload)
  if !settingListOk (requestArgLength payload) items then answer .badArgument [] s
  else if s.mga.held then answer .held [] s
  else
    answer .ok [flagByte (items.any (fun i => clampSetting i.1 i.2 != i.2))]
      (s.setMga { s.mga with settings := s.mga.settings.written items })

def execStationWrite (s : State) : Host.Outcome State Fault Refusal := .next (serve .stationWrite (checked decideStationWrite) s)

/-! ### RESTART (R168) -/

/-- A transmit side with its queues emptied. -/
def LaneTx.emptied (t : LaneTx) : LaneTx := { t with control := [], classes := Vector.replicate 4 [] }

/-- A pending drain ended by a restart: its stream SUSPENDED, its check following only when it agreed (R29, R21). -/
def endDrain (s : State) : State :=
  match s.mga.drain with
  | none => s
  | some d => (s.setMga { s.mga with drain := none }).setEntry d.stream { s.entry d.stream with state := .suspended }

/-- Every FIFO, queue and window emptied, without counting and without dereference (R168). -/
def emptyAll (s : State) : State :=
  { s with
    stb := { s.stb with runs := s.stb.runs.map (fun r => { r with queued := 0 }) }
    tin := { fifo := Vector.replicate 8 [] }
    ltx := { a := s.ltx.a.emptied, b := s.ltx.b.emptied, c := s.ltx.c.emptied }
    mrg := s.mrg.map (fun x => if x.condition = .attached then x.emptied else x)
    dlv := { egress := Vector.replicate 8 [] } }

/-- The start of a warm restart for a request (R168, log 26). -/
def beginRestart (r : Request) (s : State) : State :=
  let ticket : RestartTicket := { tag := requestTag r.payload, command := requestCommand r.payload, source := r.source }
  let s := endDrain (s.setLck { s.lck with epoch := s.lck.epoch + 1 })
  emptyAll (s.setMga { s.mga with requests := [], restart := .inProgress ticket })

/-- RESTART (R168): the buffer of the service is let go before the restart begins (R162). -/
def execRestart (s : State) : Host.Outcome State Fault Refusal :=
  match s.served .restart with
  | none => .next s
  | some r =>
    match allocateControl .empty s with
    | none => .next (awaitBuffer s)
    | some (b, s) =>
      if argLengthBad r.payload || requestArgLength r.payload != 0 then .next (conclude b r (answer .badArgument [] s))
      else .next (beginRestart r (dereference b s))

/-! ### RESTART_COMPLETION (R168) -/

/-- A runtime record after a warm restart (R36, R50); a pooled context is no longer attached (R119). -/
def RunRecord.restarted (r : RunRecord) (e : StreamEntry) (keeps : Bool) : RunRecord :=
  { r with sendSeq := 0, level := 16 * e.burst, queued := 0, lastValid := false, context := if keeps then r.context else none }

/-- A context after a warm restart (R119). -/
def Context.restarted (x : Context) : Context :=
  match x.condition with
  | .free => .cleared
  | .reserved => { Context.cleared with condition := .reserved, owner := x.owner, pinned := x.pinned }
  | .attached =>
    if x.pinned then
      { x with slots := x.slots.map (fun _ => none), synced := false, lastRelease := none, age := 0, arrived := false,
               worstGap := 0, checkAgrees := true }
    else .cleared

/-- The attached context of a runtime record is pinned, so that it stays (R119). -/
def State.keepsContext (s : State) (r : RunRecord) : Bool :=
  match r.context with
  | some c => (s.context c).pinned
  | none => false

/-- A source after a warm restart: its level kept, its flag, repeat count and detail cleared (R158). -/
def SourceRecord.restarted (x : SourceRecord) : SourceRecord := .quiet x.level

/-- An export channel after a warm restart: unbound, no firing waiting, the rest kept (R158). -/
def Channel.restarted (ch : Channel) : Channel := { ch with bound := none, firing := false }

/-- The posture the Posture Controller holds after a warm restart: the base kept, everything else reset (R133). -/
def PostureController.restarted (p : PostureController) : PostureController := .reset p.base p.base.posture

/-- Every block's warm-restart values but the committed load (R14, R36, R53, R73, R92, R119, R133, R142, R149, R158, R169). -/
def restartedBlocks (s : State) : State :=
  { s with
    bfm := .full (Pool.freed s.bfm.pool)
    stb := { s.stb with
      runs := Vector.zipWith (fun e r => r.restarted e (s.keepsContext r)) s.stb.entries s.stb.runs }
    ltx := { a := .reset, b := .reset, c := .reset }
    lrx := { lanes := { a := .reset s.pins.loss.a s.lrx.lanes.a.lastSeen, b := .reset s.pins.loss.b s.lrx.lanes.b.lastSeen,
                        c := .reset s.pins.loss.c s.lrx.lanes.c.lastSeen },
             peer := { s.lrx.peer with age := Config.staleAge, stale := true } }
    mrg := s.mrg.map Context.restarted
    psc := s.psc.restarted
    evu := { sources := s.evu.sources.map SourceRecord.restarted, floor := 0,
             channels := s.evu.channels.map Channel.restarted }
    mga := { s.mga with held := false } }

/-- Unpoliced counts, loads and flags as the completion's recomputation gives them: every view is UNUSABLE, so all are 0 and
clear, and no fault cause is raised (R73, R21, log 17). -/
def completedLoad (s : State) : State :=
  let t := s.tally
  lanes.foldl (fun s l => s.setLoad l (t.get l)) s

/-- RESTART_COMPLETION (R168): the tick that ends a warm restart in progress. -/
def execRestartCompletion (s : State) : Host.Outcome State Fault Refusal :=
  match s.mga.restart with
  | .inProgress ticket =>
    let s := completedLoad (restartedBlocks s)
    .next (s.setMga { s.mga with restart := .waiting ticket })
  | _ => .next s

/-! ### RESTART_RESPONSE (R168) -/

/-- The response to a RESTART can leave now: its route can take it (R168). -/
def State.restartRouteReady (s : State) (dest : Fin 8) : Bool :=
  if dest = controllerAddress then s.routeReady
  else if dest = peerAddress s.mga.station then s.placement.isSome
  else true

/-- RESTART_RESPONSE (R168): nothing changes until the route can take the response and a buffer can be granted. The BUFFER_LOW
of the allocation is raised after the cell has joined, as for an export (R137, log 14). -/
def execRestartResponse (s : State) : Host.Outcome State Fault Refusal :=
  match s.mga.restart with
  | .waiting ticket =>
    if s.restartRouteReady ticket.source then
      match s.allocate 0 1 (responseCell s.mga.station ticket.source ticket.tag ticket.command .ok [s.lck.epoch]) with
      | none => .next s
      | some (b, t) =>
        let t := raiseIfLow fire s (routeResponse ticket.source b t)
        .next (t.setMga { t.mga with restart := .idle, serviceDue := true })
    else .next s
  | _ => .next s

end Sys2Proof.Machine
end

