-- ==== Sys2Proof/Machine/Dispatch.lean ====
section
/-! DEFINITION. The meaning of each command: one arm for each constructor. -/

namespace Sys2Proof.Machine

/-- The effect of a command on everything but the queue of commands. -/
def exec (i : Instr) (s : State) : Host.Outcome State Fault Refusal :=
  match i with
  | .powerOnReset strap => Sys2Proof.Machine.execPowerOnReset strap s
  | .tick1ms => Sys2Proof.Machine.execTick1ms s
  | .peerReportStale => Sys2Proof.Machine.execPeerReportStale s
  | .erroredIntervalClose lane => Sys2Proof.Machine.execErroredIntervalClose lane s
  | .probeDue lane => Sys2Proof.Machine.execProbeDue lane s
  | .strikeTimerExpiry => Sys2Proof.Machine.execStrikeTimerExpiry s
  | .drainTimeout => Sys2Proof.Machine.execDrainTimeout s
  | .drainCompletion => Sys2Proof.Machine.execDrainCompletion s
  | .tick250ms => Sys2Proof.Machine.execTick250ms s
  | .contextAgeExpiry context => Sys2Proof.Machine.execContextAgeExpiry context s
  | .tick1s => Sys2Proof.Machine.execTick1s s
  | .portCellTake port cell => Sys2Proof.Machine.execPortCellTake port cell s
  | .ingressAcceptance port => Sys2Proof.Machine.execIngressAcceptance port s
  | .laneSlot lane => Sys2Proof.Machine.execLaneSlot lane s
  | .lossOfSignal lane => Sys2Proof.Machine.execLossOfSignal lane s
  | .signalRestored lane => Sys2Proof.Machine.execSignalRestored lane s
  | .huntByte lane byte => Sys2Proof.Machine.execHuntByte lane byte s
  | .laneCellReceive lane cell => Sys2Proof.Machine.execLaneCellReceive lane cell s
  | .releaseExpiry context => Sys2Proof.Machine.execReleaseExpiry context s
  | .egressHandover port => Sys2Proof.Machine.execEgressHandover port s
  | .presentNegated port => Sys2Proof.Machine.execPresentNegated port s
  | .presentAsserted port => Sys2Proof.Machine.execPresentAsserted port s
  | .txfaultChange lane asserted => Sys2Proof.Machine.execTxfaultChange lane asserted s
  | .strikePulse => Sys2Proof.Machine.execStrikePulse s
  | .exportAttempt channel => Sys2Proof.Machine.execExportAttempt channel s
  | .echo => Sys2Proof.Machine.execEcho s
  | .streamRead => Sys2Proof.Machine.execStreamRead s
  | .streamWrite => Sys2Proof.Machine.execStreamWrite s
  | .streamFill => Sys2Proof.Machine.execStreamFill s
  | .streamState => Sys2Proof.Machine.execStreamState s
  | .contextRead => Sys2Proof.Machine.execContextRead s
  | .laneRead => Sys2Proof.Machine.execLaneRead s
  | .counterRead => Sys2Proof.Machine.execCounterRead s
  | .counterClear => Sys2Proof.Machine.execCounterClear s
  | .postureSet => Sys2Proof.Machine.execPostureSet s
  | .strikeTest => Sys2Proof.Machine.execStrikeTest s
  | .eventRead => Sys2Proof.Machine.execEventRead s
  | .eventClear => Sys2Proof.Machine.execEventClear s
  | .eventLevels => Sys2Proof.Machine.execEventLevels s
  | .floorSet => Sys2Proof.Machine.execFloorSet s
  | .exportSet => Sys2Proof.Machine.execExportSet s
  | .exportStart => Sys2Proof.Machine.execExportStart s
  | .exportRead => Sys2Proof.Machine.execExportRead s
  | .stationRead => Sys2Proof.Machine.execStationRead s
  | .stationWrite => Sys2Proof.Machine.execStationWrite s
  | .unknownCommand => Sys2Proof.Machine.execUnknownCommand s
  | .restart => Sys2Proof.Machine.execRestart s
  | .restartCompletion => Sys2Proof.Machine.execRestartCompletion s
  | .restartResponse => Sys2Proof.Machine.execRestartResponse s

end Sys2Proof.Machine
end

