-- ==== Sys2Proof/Safety.lean ====
section
/-! DEFINITION. What a sound state is, in the terms the manual's own rules use: each predicate is one the manual says holds at every
moment, and the claims say that every step keeps it. -/

namespace Sys2Proof.Safety

open Sys2Proof.Machine

/-- No queue holds more than its capacity: ingress FIFOs (R37), control and class queues (R59, R61), egress FIFOs (R134), the
request queue (R161). -/
structure QueuesWithin (s : State) : Prop where
  ingress : ∀ p, (s.ingress p).length ≤ 16
  control : ∀ l, (s.tx l).control.length ≤ 8
  cls : ∀ l k, (s.classQueue l k).length ≤ classDepth l
  egress : ∀ p, (s.egress p).length ≤ 512
  requests : s.mga.requests.length ≤ 4

/-- Every pending source other than FAULT has a level not above the notice floor (R154). -/
def FloorCovers (s : State) : Prop :=
  ∀ i, i ≠ srcFault → (s.source i).flag = true → (s.source i).level ≤ s.evu.floor

/-- Every bucket level stays within 16 times the burst (R48). -/
def BucketsWithin (s : State) : Prop := ∀ n, (s.run n).level ≤ 16 * (s.entry n).burst

/-- The effective posture is the one that R129 derives. -/
def PostureDerived (s : State) : Prop :=
  s.psc.effective =
    if s.psc.localStrike || s.psc.peerStrike then .strike else (s.psc.base.higher s.psc.peerBase).posture

/-- The view of a lane by R55: TXFAULT first, then a fresh peer report, then the lane's own receive state. -/
def viewByRule (s : State) (l : Lane) : View :=
  if s.txfault l then .unusable
  else if s.lrx.peer.stale then viewOf (s.rx l).state
  else viewOf (s.lrx.peer.rx.get l)

/-- Each transmit view is the one that R55 derives. -/
def ViewsDerived (s : State) : Prop := ∀ l, s.view l = viewByRule s l

/-- The buffers are held in their canonical form. -/
def PoolCanonical (s : State) : Prop := Pool.wf s.bfm.pool = true

/-! ### A counter, a source and a buffer away from their thresholds -/

/-- The counter one on, by R144, with no event. -/
def bump (r : CounterRef) (s : State) : State := s.setCounter r (s.counter r).increment

/-- The counter `k` on, by R143 and R144. -/
def bumps (r : CounterRef) (k : Nat) (s : State) : State := (bump r)^[k] s

/-- None of the counters stands at the half mark, so that counting it raises nothing (R145). -/
def Calm (s : State) (rs : List CounterRef) : Prop := ∀ r ∈ rs, (s.counter r).atHalf = false

/-- None of the counters comes near the half mark within one event, however often the event counts it. -/
def Far (s : State) (rs : List CounterRef) : Prop := ∀ r ∈ rs, (s.counter r).value.toNat + 8192 < 2147483648

/-- The counter `r` of `t` is that of `s`, counted `k` times below its half mark (R143). -/
def Counted (s t : State) (r : CounterRef) (k : Nat) : Prop :=
  t.counter r = { value := (s.counter r).value + BitVec.ofNat 32 k, overflow := (s.counter r).overflow }

/-- A firing of the source would send nothing: no channel is bound to it, and it is pending already or its level is not above the
floor (R150, R151, R156). FAULT is not such a source. -/
structure Silent (s : State) (src : Source) : Prop where
  notFault : src ≠ srcFault
  unbound : s.takerOf src = none
  quiet : (s.source src).flag = true ∨ (s.source src).level ≤ s.evu.floor

/-- The flag of a silent source after a firing with this detail: set, or counted as a repeat (R150). -/
def flaggedAs (src : Source) (d : Detail) (s : State) : State :=
  if (s.source src).flag then s.repeatFlag src else s.setFlag src d

/-- The flag of a silent source after a firing without a detail (R150). -/
def flagged (src : Source) (s : State) : State := flaggedAs src .none s

/-- A control cell counted UNDELIVERABLE, its silent source fired (R159). -/
def undelivered (s : State) : State :=
  flagged srcUndeliverable (bump (.station StationCounter.undeliverable.id) s)

/-- The buffer `b` at the head of the free list can be granted above the threshold, and BUFFER_LOW is not reached (R9, R12). -/
structure Grants (s : State) (threshold b : Nat) (bs : List Nat) : Prop where
  free : s.bfm.free = b :: bs
  above : threshold < s.bfm.freeCount
  notLow : s.bfm.freeCount ≠ 512

/-- Buffer `b` taken from the head of the free list, holding a cell (R9). -/
def granted (b : Nat) (bs : List Nat) (refs : Nat) (cell : Cell) (s : State) : State :=
  s.setBfm { free := bs, freeCount := s.bfm.freeCount - 1,
             pool := Pool.write s.bfm.pool b { refs := refs, cell := cell, checkAgrees := true } }

/-- Buffer `b`, with one reference, back at the tail of the free list (R10). -/
def returned (b : Nat) (s : State) : State :=
  s.setBfm { free := s.bfm.free ++ [b], freeCount := s.bfm.freeCount + 1,
             pool := Pool.write s.bfm.pool b { s.buffer b with refs := 0 } }

/-! ### A request that the agent can answer at once -/

/-- The controller is reached through the present port `p`, whose FIFO has room (R160, R136). -/
structure Reaches (s : State) (p : PortId) : Prop where
  port : s.mga.settings.controllerPort = some p
  present : s.present p = true
  room : (s.egress p).length < 512

/-- The controller's request `r` heads the queue and its code is the step's, with a buffer and the way back open (R162). -/
structure Heads (s : State) (step : Instr) (r : Request) (rest : List Request) (p : PortId) (b : Nat) (bs : List Nat) :
    Prop where
  idle : s.mga.restart = .idle
  head : s.mga.requests = r :: rest
  code : serviceStep (requestCommand r.payload).toNat = step
  source : r.source = controllerAddress
  reaches : Reaches s p
  grants : Grants s 0 b bs

/-- The step serves the controller's request `r`, whose argument length is good (R8, R162). -/
structure Serves (s : State) (step : Instr) (r : Request) (rest : List Request) (p : PortId) (b : Nat) (bs : List Nat) : Prop
    extends Heads s step r rest p b bs where
  length : argLengthBad r.payload = false

/-- The state `t`, in which the command has had its effect, with the response in buffer `b` at the tail of the FIFO of `p` and the
request removed (R8, R162). -/
def answered (r : Request) (rest : List Request) (p : PortId) (b : Nat) (bs : List Nat) (status : Status) (result : List Byte)
    (t : State) : State :=
  let u := granted b bs 1
    (responseCell t.mga.station r.source (requestTag r.payload) (requestCommand r.payload) status result) t
  let u := u.setEgress p (u.egress p ++ [.control b])
  u.setMga { u.mga with requests := rest, serviceDue := true }

/-- `l` is the first USABLE lane of the order or, with none USABLE, its first DEGRADED one (R57, R61). -/
def FirstOf (v : Lane → View) (order : List Lane) (l : Lane) : Prop :=
  let first (good : View) : Prop := ∃ before after, order = before ++ l :: after ∧ v l = good ∧ ∀ m ∈ before, v m ≠ good
  first .usable ∨ ((∀ m ∈ order, v m ≠ .usable) ∧ first .degraded)

/-- The response in buffer `b` of `u` routed by its destination as `s` stands leaves `v`: for the controller through its present port,
or, with the port none or absent, over the lanes; for the peer over the lanes, at the tail of the control queue of R61's lane; for any
other address, or refused by a full FIFO or queue or with every view UNUSABLE, its buffer is free again and it is UNDELIVERABLE (R61,
R136, R159, R160, R162). -/
def Routed (s : State) (dest : Fin 8) (b : Nat) (u v : State) : Prop :=
  let forPeer := dest.val + s.mga.station.val = 1
  let lost := undelivered (returned b u)
  (∀ p, dest = controllerAddress → s.mga.settings.controllerPort = some p → s.present p = true →
    v = if (s.egress p).length < 512 then u.setEgress p (s.egress p ++ [.control b])
      else undelivered (bump (.port p PortCounter.outDrop.id) (returned b u))) ∧
  (forPeer ∨ (dest = controllerAddress ∧ ∀ p, s.mga.settings.controllerPort = some p → s.present p = false) →
    (∀ l, FirstOf s.view [.a, .b, .c] l →
      v = if (s.tx l).control.length < 8 then u.setControl l ((s.tx l).control ++ [b]) else lost) ∧
    ((∀ l, s.view l = .unusable) → v = lost)) ∧
  (dest ≠ controllerAddress → ¬ forPeer → v = lost)

/-- Every entry of the table agrees with its check, so that reading them raises nothing (R21, R22). -/
def TableAgrees (s : State) : Prop := ∀ n, (s.entry n).checkAgrees = true

/-! ### Received cells -/

/-- A good cell of this kind arrives on delineated lane `l`: R3 passes it on to dispatch. -/
def GoodCell (s : State) (l : Lane) (cell : List Byte) (kind : Nat) : Prop :=
  cell.length = 128 ∧ s.restarting = false ∧ ((s.rx l).state = .up ∨ (s.rx l).state = .impaired) ∧
    crc8 (cell.take 7) = byteAt cell 7 ∧ (crc32 (cell.take 124)).toNat = nat32At cell 124 ∧
    (byteAt cell 0).toNat / 16 = kind ∧ (byteAt cell 0).toNat / 4 % 4 = laneCode l ∧ (byteAt cell 3).toNat ≤ 116

/-- A good MEDIA cell of stream `n` passes the dispatch of R78 up to its buffer `b`. -/
structure TakesMedia (s : State) (l : Lane) (cell : List Byte) (n : StreamId) (b : Nat) (bs : List Nat) : Prop where
  good : GoodCell s l cell 1
  stream : (byteAt cell 2).toFin = n
  notHeld : s.mga.held = false
  agrees : (s.entry n).checkAgrees = true
  active : (s.entry n).state = .active
  terminus : (s.entry n).role = .terminus
  grants : Grants s (Config.mediaThreshold
    (if (byteAt cell 1).getLsbD 6 then 3 else ⟨(byteAt cell 0).toNat % 4, by omega⟩)) b bs

/-- The sequence of a MEDIA cell. -/
def seqOf (cell : List Byte) : Seq := BitVec.ofNat 16 (nat16At cell 4)

/-- A link cell of this kind as a buffer stores it (R6). -/
def storedCell (kind : CellKind) (cell : List Byte) : Cell :=
  { kind := kind, addr := if kind = .media then byteAt cell 2 else byteAt cell 2 &&& 0x3F
    cls := ⟨(byteAt cell 0).toNat % 4, by omega⟩, frameEnd := (byteAt cell 1).getLsbD 7
    demoted := (byteAt cell 1).getLsbD 6, seq := seqOf cell, payload := (cell.drop 8).take (byteAt cell 3).toNat }

/-- The state in which a good MEDIA cell of stream `n` is counted and stands in buffer `b` (R3, R78). -/
def taken (l : Lane) (cell : List Byte) (n : StreamId) (b : Nat) (bs : List Nat) (s : State) : State :=
  granted b bs 1 (storedCell .media cell)
    (bump (.stream n StreamCounter.rxCells.id) (bump (.lane l LaneCounter.rxGood.id) (s.setRx l { s.rx l with badHeaders := 0 })))

/-- The held cells of the first `k` slots of a context of stream `n` as egress entries, in sequence order (R103). -/
def entriesOf (n : StreamId) (x : Context) (k : Nat) : List EgressEntry :=
  (x.slots.take k).zipIdx.filterMap (fun y => y.1.map (fun h => .media h.buffer n (x.next + BitVec.ofNat 16 y.2)))

/-! ### Lanes -/

/-- The lanes a plan names, in the plan's order (R19). -/
def planNames : Plan → List Lane
  | .off => []
  | .a => [.a]
  | .b => [.b]
  | .c => [.c]
  | .aThenB => [.a, .b]
  | .bThenA => [.b, .a]
  | .aThenBThenC => [.a, .b, .c]
  | .aAndB => [.a, .b]
  | .aAndBElseC => [.a, .b, .c]
  | .aAndBAndC => [.a, .b, .c]

/-- `skew` is that of stream `n`'s effective plan: the greatest less the smallest of the delay estimates of the named lanes that are
UP or IMPAIRED, 0 when fewer than two count (R109). -/
def SkewIs (s : State) (n : StreamId) (skew : Nat) : Prop :=
  let counts (l : Lane) (d : Nat) : Prop :=
    l ∈ planNames ((s.entry n).plan.get s.psc.effective) ∧ ((s.rx l).state = .up ∨ (s.rx l).state = .impaired) ∧
      (s.rx l).delay = some d
  (∃ l m hi lo, l ≠ m ∧ counts l hi ∧ counts m lo ∧ (∀ k d, counts k d → lo ≤ d ∧ d ≤ hi) ∧ skew = hi - lo) ∨
    ((∀ l m d e, counts l d → counts m e → l = m) ∧ skew = 0)

/-! ### Arguments (R8 and each command's own rule) -/

/-- Objects of a kind, and counters of each (section 9.1). -/
def objectsOf : ObjectKind → Nat × Nat
  | .stream => (256, 16)
  | .lane => (3, 14)
  | .port => (8, 8)
  | .station => (1, 6)

/-- A list of field items that R31 takes: one to 37 whole items, codes 1 to 18, none twice, each value inside its coding. -/
def FieldList (length : Nat) (items : List (Nat × Nat)) : Prop :=
  length % 3 = 0 ∧ 1 ≤ length / 3 ∧ length / 3 ≤ 37 ∧ (∀ x ∈ items, 1 ≤ x.1 ∧ x.1 ≤ 18) ∧ (items.map Prod.fst).Nodup ∧
    ∀ x ∈ items, (x.1 ∈ [1, 10, 11, 13, 18] → x.2 ≤ 1) ∧ (x.1 = 2 → x.2 ≤ 7) ∧ (x.1 = 3 → x.2 ≤ 3) ∧
      (x.1 ∈ [4, 5, 6, 7] → x.2 ≤ 9) ∧ (x.1 = 17 → x.2 ≤ 63 ∨ x.2 = 255)

/-- The argument checks that each command's rule makes before anything else (R23, R31, R34, R35, R90, R116, R121, R125, R146, R147,
R153 to R156, R163 to R165, R168). -/
def ArgumentsGood (step : Instr) (payload : List Byte) : Prop :=
  let length := (byteAt payload 3).toNat
  let args := (payload.drop 4).take length
  let arg (i : Nat) : Nat := (byteAt payload (4 + i)).toNat
  match step with
  | .echo => length ≤ 111
  | .streamRead => length = 1
  | .streamWrite => 1 ≤ length ∧ FieldList (length - 1) (threeByteItems (args.drop 1))
  | .streamFill => 2 ≤ length ∧ arg 0 ≤ arg 1 ∧ FieldList (length - 2) (threeByteItems (args.drop 2))
  | .streamState => length = 2 ∧ arg 1 ∈ [0, 1, 3]
  | .contextRead => length = 1 ∧ arg 0 ≤ 63
  | .laneRead => length = 1 ∧ arg 0 ≤ 2
  | .counterRead => length = 5 ∧ 1 ≤ arg 3 ∧ arg 3 ≤ 25 ∧ arg 4 ≤ 1 ∧
      ∃ kind : ObjectKind, kind.code = arg 0 ∧ arg 1 < (objectsOf kind).1 ∧ arg 2 + arg 3 ≤ (objectsOf kind).2
  | .counterClear => length = 3 ∧ arg 1 ≤ arg 2 ∧ ∃ kind : ObjectKind, kind.code = arg 0 ∧ arg 2 < (objectsOf kind).1
  | .postureSet => length = 1 ∧ arg 0 ≤ 2
  | .strikeTest => length = 0
  | .eventRead => length = 0
  | .eventClear => length = 3 ∧ arg 0 ≤ 127
  | .eventLevels => length % 2 = 0 ∧ 1 ≤ length / 2 ∧ length / 2 ≤ 23 ∧ (∀ x ∈ bytePairs args, x.1 ≤ 22 ∧ x.2 ≤ 7) ∧
      ((bytePairs args).map Prod.fst).Nodup
  | .floorSet => length = 1
  | .exportSet => length = 9 ∧ arg 0 ≤ 3 ∧ ((1 ≤ arg 1 ∧ arg 1 ≤ 22) ∨ arg 1 = 254 ∨ arg 1 = 255) ∧ arg 6 ≤ 1 ∧
      ∃ kind : ObjectKind, kind.code = arg 2 ∧ arg 3 * 256 + arg 4 < (objectsOf kind).1 * (objectsOf kind).2
  | .exportStart => length = 1 ∧ arg 0 ≤ 3
  | .exportRead => length = 1 ∧ arg 0 ≤ 3
  | .stationRead => length = 0
  | .stationWrite => length % 3 = 0 ∧ 1 ≤ length / 3 ∧ length / 3 ≤ 11 ∧
      (∀ x ∈ threeByteItems args, 1 ≤ x.1 ∧ x.1 ≤ 11) ∧ ((threeByteItems args).map Prod.fst).Nodup ∧
      (∀ x ∈ threeByteItems args, x.1 = 1 → x.2 ≤ 7 ∨ x.2 = 255)
  | .restart => length = 0
  | _ => True

/-- `e` is the entry `o` with every named field but the pin written after its clamp, its check recomputed, and `clamped` says
whether a value was clamped (R31, R32). -/
structure WrittenBy (items : List (Nat × Nat)) (o e : StreamEntry) (clamped : Bool) : Prop where
  kept : e.state = o.state ∧ e.checkAgrees = true
  loaded : e.loaded = (o.loaded || ((items.lookup 1).isSome && (items.lookup 2).isSome))
  role : e.role.code = (items.lookup 1).getD o.role.code
  port : e.port.val = (items.lookup 2).getD o.port.val
  cls : e.cls.val = (items.lookup 3).getD o.cls.val
  planClear : e.plan.clear.code = (items.lookup 4).getD o.plan.clear.code
  planWatch : e.plan.watch.code = (items.lookup 5).getD o.plan.watch.code
  planWarning : e.plan.warning.code = (items.lookup 6).getD o.plan.warning.code
  planStrike : e.plan.strike.code = (items.lookup 7).getD o.plan.strike.code
  rate : e.rate = (items.lookup 8).getD o.rate
  burst : e.burst = ((items.lookup 9).map (fun v => max 1 (min v 1024))).getD o.burst
  excess : e.excess.code = (items.lookup 10).getD o.excess.code
  merge : (if e.merge then 1 else 0) = (items.lookup 11).getD (if o.merge then 1 else 0)
  depth : e.depth = ((items.lookup 12).map (fun v => max 4 (min v 32))).getD o.depth
  holdMode : e.holdMode.code = (items.lookup 13).getD o.holdMode.code
  holdUs : e.holdUs = (items.lookup 14).getD o.holdUs
  holdMin : e.holdMin = (items.lookup 15).getD o.holdMin
  holdMax : e.holdMax = max e.holdMin ((items.lookup 16).getD o.holdMax)
  gapMarkers : (if e.gapMarkers then 1 else 0) = (items.lookup 18).getD (if o.gapMarkers then 1 else 0)
  clamps : clamped = true ↔
    (∃ v, items.lookup 9 = some v ∧ (v = 0 ∨ 1024 < v)) ∨ (∃ v, items.lookup 12 = some v ∧ (v < 4 ∨ 32 < v)) ∨
      (items.lookup 16).getD o.holdMax < (items.lookup 15).getD o.holdMin

/-! ### Committed load and counters -/

/-- Stream `n` loads lane `l`: an ACTIVE origin whose effective plan yields the lane (R69). -/
def loadsLane (s : State) (l : Lane) (n : StreamId) : Bool :=
  (s.entry n).checkAgrees && (s.entry n).state == .active && (s.entry n).role == .origin &&
    (s.evaluate ((s.entry n).plan.get s.psc.effective)).contains l

/-- The committed load of a lane by R69: the sum of the rates. -/
def loadByRule (s : State) (l : Lane) : Nat :=
  (((List.finRange 256).filter (loadsLane s l)).map (fun n => (s.entry n).rate)).sum

/-- The unpoliced count of a lane by R69: the streams of rate 0. -/
def unpolicedByRule (s : State) (l : Lane) : Nat :=
  ((List.finRange 256).filter (fun n => loadsLane s l n && (s.entry n).rate == 0)).length

/-- Every lane's load, unpoliced count and overcommitted flag are as R69 and section 4.7 give them. -/
def LoadDerived (s : State) : Prop :=
  ∀ l, (s.tx l).load = loadByRule s l ∧ (s.tx l).unpoliced = unpolicedByRule s l ∧
    (s.tx l).overcommitted =
      match l with
      | .a => decide (128000 < loadByRule s l)
      | .b => decide (128000 < loadByRule s l)
      | .c => decide (32 < loadByRule s l ∨ 0 < unpolicedByRule s l)

/-- `t` is `s` but for the entries and runtime records, the committed loads, and the event flags that their recomputation may set. -/
def OnlyTable (s t : State) : Prop :=
  t = { s with stb := t.stb, ltx := t.ltx, evu := t.evu } ∧
    ∀ l, (t.tx l) = { s.tx l with load := (t.tx l).load, unpoliced := (t.tx l).unpoliced,
                                  overcommitted := (t.tx l).overcommitted }

/-- The counter an object kind, an index and an id name, zero where they name none. -/
def counterNamed (s : State) (kind : ObjectKind) (index id : Nat) : Counter :=
  match CounterRef.of kind index id with
  | some r => s.counter r
  | none => { value := 0, overflow := false }

/-! ### What a warm restart and FAULT-HOLD leave -/

/-- Nothing waits in any class queue, any window holds nothing, and only control entries stand in the egress FIFOs (R72, R118,
R141). -/
structure MediaGone (s : State) : Prop where
  cls : ∀ l k, s.classQueue l k = []
  windows : ∀ c, (s.context c).condition = .attached → (s.context c).heldCells = []
  egress : ∀ p, ∀ e ∈ s.egress p, e.isControl = true

end Sys2Proof.Safety
end

