-- ==== Sys2Proof/Certificates/Slice0/Obligations.lean ====
section
/-! DEFINITION. The statements for the provers: what each command does, where the manual says so, and what every step keeps. -/

open Sys2Proof Sys2Proof.Machine Sys2Proof.Safety

/-! ### The queue of commands and the passing of time -/

/-- A step takes the command at the front of the queue and runs it with the rest of the queue. -/
def Obligations.StepRunsFront : Prop :=
  ∀ (c : Instr) (q : List Instr) (s : State), step (s.withPending (c :: q)) = exec c (s.withPending q)

/-- With the queue empty and no step due (the model's choice, log 2), the Link Clock advances by one microsecond, and outside a
warm restart the three ticks come at every 1,000th, 250,000th and 1,000,000th microsecond (R15). -/
def Obligations.IdleMicrosecond : Prop :=
  ∀ s : State, s.pending = [] → s.immediateSteps = [] →
    ∃ q, step s = .next ((s.setLck { s.lck with count := s.lck.count + 1, phase := (s.lck.phase + 1) % 1000000 }).withPending q) ∧
      (s.restarting = false →
        (Instr.tick1ms ∈ q ↔ (s.lck.phase + 1) % 1000000 % 1000 = 0) ∧
        (Instr.tick250ms ∈ q ↔ (s.lck.phase + 1) % 1000000 % 250000 = 0) ∧
        (Instr.tick1s ∈ q ↔ (s.lck.phase + 1) % 1000000 = 0))

/-! ### Reset -/

/-- POWER_ON_RESET sets every item of every block to its power-on value, field by field; the pins keep their levels (R4, R14, R16,
R36, R73, R92, R119, R133, R149, R158, R165, R169). The phase of the ticks and the pending service are the model's own fields (log 2).
-/
def Obligations.PowerOnReset : Prop :=
  ∀ (strap : Fin 2) (s : State), ∃ t, exec (.powerOnReset strap) s = .next t ∧
    t.pins = s.pins ∧ t.lck = { count := 0, phase := 0, epoch := 0 } ∧
    t.bfm.free = List.range 8192 ∧ t.bfm.freeCount = 8192 ∧ (∀ b, (t.buffer b).refs = 0) ∧
    (∀ n, t.entry n =
      { state := .idle, loaded := false, role := .origin, port := 0, cls := 3,
        plan := { clear := .off, watch := .off, warning := .off, strike := .off }, rate := 0, burst := 1, excess := .drop,
        merge := false, depth := 8, holdMode := .fixed, holdUs := 0, holdMin := 0, holdMax := 65535, pin := none,
        gapMarkers := false, checkAgrees := true }) ∧
    (∀ n, t.run n = { sendSeq := 0, level := 0, queued := 0, lastValid := false, lastSeq := 0, lastEpoch := 0,
                      context := none, lossFirst := 0, lossCount := 0 }) ∧
    (∀ p, t.ingress p = [] ∧ t.egress p = []) ∧
    (∀ l, t.tx l = { view := .unusable, control := [], classes := Vector.replicate 4 [], probeDue := false, lastProbe := none,
                     load := 0, unpoliced := 0, overcommitted := false }) ∧
    (∀ l, t.rx l = { state := if s.pins.loss.get l then .down else .hunt, goodHeaders := 0, badHeaders := 0, crcFailures := 0,
                     headerFailure := false, judging := false, erroredRun := 0, cleanRun := 0, echo := none, lastSample := none,
                     delay := none, lastSeen := none, huntWindow := [], huntWait := 0 }) ∧
    t.lrx.peer = { rx := { a := .down, b := .down, c := .down }, base := .clear, strike := false, epoch := 0, arrival := none,
                   age := 300, stale := true } ∧
    (∀ c, t.context c = { condition := .free, owner := none, pinned := false, synced := false, next := 0, epoch := 0, depth := 0,
                          slots := [], hold := 0, raw := 0, skew := false, lastRelease := none, age := 0, arrived := false,
                          worstGap := 0, checkAgrees := true }) ∧
    t.psc = { base := .clear, timer := 0, localStrike := false, lastPulse := none, peerBase := .clear, peerStrike := false,
              effective := .clear } ∧
    (∀ r, t.counter r = { value := 0, overflow := false }) ∧
    (∀ i, t.source i = { level := if i = srcFault then 7 else 0, flag := false, repeats := 0, detail := .none }) ∧
    t.evu.floor = 0 ∧
    (∀ ch, t.channel ch = { bound := none, kind := .stream, first := 0, items := 1, walk := false, remaining := 1, firing := false,
                            number := 0 }) ∧
    t.mga = { station := strap, requests := [], drain := none, restart := .idle,
              settings := { controllerPort := none, strikeHold := 10,
                            guards := { clear := 200, watch := 400, warning := 800, strike := 1500 }, erroredThreshold := 4,
                            impairCount := 3, recoverNormal := 5, recoverStorm := 50, drainTimeout := 100 },
              faultCause := none, faultIndex := 0, furtherFaults := 0, held := false, serviceDue := true }

/-! ### The ticks -/

/-- TICK_1MS refills the bucket of every ACTIVE origin stream up to 16 times its burst and no other, ages a fresh peer report up
to 300, lowers the strike timer and clears a counted pulse more than 1,000 microseconds old (R47, R89, R122, R124), whatever
faults the AUTO holds find; that an age of 300 is not yet stale and a timer of 0 not yet the strike's end is the model's division of
the tick (log 5). While no attached context is in AUTO mode, buffers, entries, queues, contexts, counters and events are unchanged,
and a pending drain comes one tick nearer to its deadline (R26, R15). -/
def Obligations.Tick1msActs : Prop :=
  (∀ s : State, s.restarting = false → ∃ t, exec .tick1ms s = .next t ∧
    (∀ n, (t.run n).level =
      if (s.entry n).state = .active ∧ (s.entry n).role = .origin
      then min ((s.run n).level + (s.entry n).rate) (16 * (s.entry n).burst) else (s.run n).level) ∧
    t.lrx.peer = { s.lrx.peer with age := if s.lrx.peer.stale then s.lrx.peer.age else min (s.lrx.peer.age + 1) 300 } ∧
    t.psc = { s.psc with timer := s.psc.timer - 1
                         lastPulse := s.psc.lastPulse.filter (fun p => decide (elapsed p s.now ≤ 1000)) } ∧
    t.pins = s.pins ∧ t.lck = s.lck ∧ t.tin = s.tin ∧ t.out = s.out ∧ t.mga.settings = s.mga.settings ∧
    t.mga.requests = s.mga.requests ∧ t.openCount = s.openCount ∧ t.pending = s.pending) ∧
  (∀ s : State, s.restarting = false →
    (∀ c n, (s.context c).condition = .attached → (s.context c).owner = some n → (s.entry n).holdMode = .fixed) →
    ∃ t, exec .tick1ms s = .next t ∧
      t.bfm = s.bfm ∧ t.stb.entries = s.stb.entries ∧ t.ltx = s.ltx ∧ t.mrg = s.mrg ∧ t.dlv = s.dlv ∧ t.cnt = s.cnt ∧
      t.evu = s.evu ∧ t.mga.drain = s.mga.drain.map (fun d => { d with ticks := d.ticks - 1 }) ∧
      t.mga.held = s.mga.held ∧ t.mga.faultCause = s.mga.faultCause ∧
      (∀ n, (t.run n).sendSeq = (s.run n).sendSeq ∧ (t.run n).queued = (s.run n).queued ∧
        (t.run n).lastSeq = (s.run n).lastSeq ∧ (t.run n).context = (s.run n).context) ∧
      (∀ l, (t.rx l).state = (s.rx l).state ∧ (t.rx l).delay = (s.rx l).delay ∧ (t.rx l).echo = (s.rx l).echo))

/-- The AUTO tick of an attached context whose stream's entry agrees: raw is the skew of R109 plus the guard, the hold rises to its
target at once or falls toward it by at most 8, and the skew flag says whether raw exceeds hold_max (R109, R110, R111). -/
def Obligations.AutoHoldMoves : Prop :=
  ∀ (s : State) (c : ContextId) (n : StreamId), s.restarting = false → (s.context c).condition = .attached →
    (s.context c).owner = some n → (s.entry n).holdMode = .auto → (s.entry n).checkAgrees = true →
    ∃ t skew, exec .tick1ms s = .next t ∧ SkewIs s n skew ∧
      let raw := skew + s.mga.settings.guards.get s.psc.effective
      let target := if raw < (s.entry n).holdMin then (s.entry n).holdMin else min raw (s.entry n).holdMax
      (t.context c).raw = raw ∧
      (t.context c).hold =
        (if (s.context c).hold < target then target else (s.context c).hold - min ((s.context c).hold - target) 8) ∧
      (t.context c).skew = decide ((s.entry n).holdMax < raw) ∧
      (t.context c).next = (s.context c).next ∧ (t.context c).depth = (s.context c).depth

/-- PEER_REPORT_STALE: the record is stale at age 300 with its other fields kept, the peer's posture and strike no longer count, and
the views follow this station's own receive states; the passage raises PEER_STALE and counts nothing (R55, R89, R128, R129). The step is a due tick's own consequence and
acts from age 299 on: that division of the tick is the model's (log 5). -/
def Obligations.PeerReportGoesStale : Prop :=
  ∀ s : State, s.restarting = false → s.lrx.peer.stale = false → 299 ≤ s.lrx.peer.age →
    ∃ t, exec .peerReportStale s = .next t ∧
      t.lrx.lanes = s.lrx.lanes ∧ t.lrx.peer = { s.lrx.peer with age := 300, stale := true } ∧
      t.psc = { s.psc with
        peerBase := .clear, peerStrike := false
        effective := if s.psc.localStrike then .strike else s.psc.base.posture } ∧
      (∀ l, t.view l = if s.txfault l then .unusable else viewOf (s.rx l).state) ∧
      t.pins = s.pins ∧ t.lck = s.lck ∧ t.tin = s.tin ∧ t.out = s.out ∧
      (TableAgrees s → Silent s srcPeerStale → (∀ l, Silent s (srcLaneView l)) → Silent s srcPosture → Silent s srcOvercommit →
        (∀ l, (s.tx l).control = [] ∧ ∀ k, s.classQueue l k = []) →
        t.source srcPeerStale = (flagged srcPeerStale s).source srcPeerStale ∧ t.cnt = s.cnt)

/-- ERRORED_INTERVAL_CLOSE: the first close of a delineated lane only begins the judging; a judged interval moves the run of the
lane's state, and the run moves an UP lane to IMPAIRED or an IMPAIRED lane to UP (R77, R81, R82, R83). -/
def Obligations.IntervalCloses : Prop :=
  ∀ (s : State) (l : Lane), s.restarting = false →
    ((s.rx l).judging = false →
      exec (.erroredIntervalClose l) s = .next (s.setRx l { s.rx l with
        judging := decide ((s.rx l).state = .up ∨ (s.rx l).state = .impaired), crcFailures := 0, headerFailure := false })) ∧
    ((s.rx l).judging = true →
      let errored := decide (s.mga.settings.erroredThreshold ≤ (s.rx l).crcFailures) || (s.rx l).headerFailure
      let recover := match s.psc.effective with
        | .clear | .watch => s.mga.settings.recoverNormal
        | .warning | .strike => s.mga.settings.recoverStorm
      let up := if errored then min ((s.rx l).erroredRun + 1) 255 else 0
      let clean := if errored then 0 else min ((s.rx l).cleanRun + 1) 255
      ((s.rx l).state = .up → ∃ t, exec (.erroredIntervalClose l) s = .next t ∧
        (∀ m, m ≠ l → t.rx m = s.rx m) ∧ t.lrx.peer = s.lrx.peer ∧
        t.rx l = if s.mga.settings.impairCount ≤ up
          then { s.rx l with state := .impaired, crcFailures := 0, headerFailure := false, erroredRun := 0, cleanRun := 0 }
          else { s.rx l with crcFailures := 0, headerFailure := false, erroredRun := up }) ∧
      ((s.rx l).state = .impaired → ∃ t, exec (.erroredIntervalClose l) s = .next t ∧
        (∀ m, m ≠ l → t.rx m = s.rx m) ∧ t.lrx.peer = s.lrx.peer ∧
        t.rx l = if recover ≤ clean
          then { s.rx l with state := .up, crcFailures := 0, headerFailure := false, erroredRun := 0, cleanRun := 0 }
          else { s.rx l with crcFailures := 0, headerFailure := false, cleanRun := clean }))

/-- TICK_250MS ages every context as R114 says and changes nothing else; CONTEXT_AGE_EXPIRY then detaches a pooled idle context at
its third tick, back to the free pool (R114, R115). That TICK_250MS leaves a context of age 3 attached and that the expiry acts from
age 2 on is the model's division of the tick (log 5). -/
def Obligations.ContextsAge : Prop :=
  (∀ s : State, s.restarting = false → ∃ t, exec .tick250ms s = .next t ∧ t = { s with mrg := t.mrg } ∧
    ∀ c, ((s.context c).condition ≠ .attached → t.context c = s.context c) ∧
      ((s.context c).condition = .attached →
        (t.context c).arrived = false ∧ (t.context c).slots = (s.context c).slots ∧
        (t.context c).condition = .attached ∧ (t.context c).owner = (s.context c).owner ∧
        (t.context c).hold = (s.context c).hold ∧ (t.context c).next = (s.context c).next ∧
        (t.context c).lastRelease = (if (s.context c).heldCells = [] then none else (s.context c).lastRelease) ∧
        (t.context c).age =
          if (s.context c).arrived then 0
          else if (s.context c).pinned = false ∧ (s.context c).heldCells = [] then min ((s.context c).age + 1) 3
          else (s.context c).age)) ∧
  (∀ (s : State) (c : ContextId) (n : StreamId), s.restarting = false → (s.context c).condition = .attached →
    (s.context c).owner = some n → (s.context c).pinned = false → (s.context c).arrived = false →
    (s.context c).heldCells = [] → 2 ≤ (s.context c).age →
    exec (.contextAgeExpiry c) s =
      .next ((s.setRun n { s.run n with context := none }).setContext c
        { condition := .free, owner := none, pinned := false, synced := false, next := 0, epoch := 0, depth := 0, slots := [],
          hold := 0, raw := 0, skew := false, lastRelease := none, age := 0, arrived := false, worstGap := 0,
          checkAgrees := true }))

/-- TICK_1S with a consistent pool sets the flag of SECOND and changes nothing else; with a pool whose census disagrees the station
enters FAULT-HOLD with the free count as the index, and no media is left in any queue, window or egress FIFO (R13, R15, R72, R118,
R141, R166). SECOND is taken to be silent here. -/
def Obligations.SecondTick : Prop :=
  ∀ s : State, s.restarting = false → Silent s srcSecond →
    (s.bfm.pool.countP (fun e => decide (0 < e.2.refs)) + s.bfm.freeCount = 8192 →
      exec .tick1s s = .next (flagged srcSecond s)) ∧
    (s.bfm.pool.countP (fun e => decide (0 < e.2.refs)) + s.bfm.freeCount ≠ 8192 → s.mga.held = false →
      ∃ t, exec .tick1s s = .next t ∧ t.mga.held = true ∧ t.mga.faultCause = some .poolCheck ∧
        t.mga.faultIndex = s.bfm.freeCount ∧ MediaGone t ∧ t.mga.drain = none ∧ t.psc = s.psc ∧ t.lrx = s.lrx ∧
        t.mga.settings = s.mga.settings)

/-! ### Tributary Ingress and the ports -/

/-- PORT_CELL_TAKE: a present port with fewer than 16 cells takes the cell at the tail, a port without space takes nothing, and a cell
that is not 124 bytes is none the pins can carry (R37, R38; the fault is the model's, log 18). PRESENT_NEGATED leaves the port absent
with its egress FIFO empty: every media and control entry's buffer is back on the free list in the FIFO's order, every entry counts
OUT_DROP, a media entry EGRESS_DROP for its stream, a control entry UNDELIVERABLE with its event; with the FIFO empty already it only
sets the presence. PRESENT_ASSERTED sets the presence and changes nothing else (R38, R140). Media fed to a port that is absent or whose
FIFO is full is dropped: a delivered cell of an unmerged stream and a released cell of a merged one count DELIVERED, EGRESS_DROP and
OUT_DROP and their buffer is free again, the stream moving on as for any delivery, and a resync marker ahead of one counts OUT_DROP (R135,
R113, R103). -/
def Obligations.PortsFollowPins : Prop :=
  ∀ (s : State) (p : PortId),
    (∀ cell : List Byte,
      (cell.length = 124 → s.present p = true → s.restarting = false → (s.ingress p).length < 16 →
        exec (.portCellTake p cell) s = .next (s.setIngress p (s.ingress p ++ [cell]))) ∧
      (cell.length = 124 → (s.present p = false ∨ s.restarting = true ∨ 16 ≤ (s.ingress p).length) →
        exec (.portCellTake p cell) s = .next s) ∧
      (cell.length ≠ 124 → exec (.portCellTake p cell) s = .fault .malformedCell)) ∧
    (∃ t, exec (.presentNegated p) s = .next t ∧ t.present p = false ∧ (∀ o, o ≠ p → t.present o = s.present o) ∧
      (s.restarting = false → t.egress p = []) ∧ t.ingress p = s.ingress p ∧ t.lrx = s.lrx ∧ t.psc = s.psc ∧
      t.mga.settings = s.mga.settings) ∧
    (let q := s.egress p
     let held : List Nat := q.filterMap (fun e => match e with
       | .media b _ _ => some b
       | .control b => some b
       | .gap _ _ _ _ => none)
     let refs : List CounterRef := [.port p PortCounter.outDrop.id, .station StationCounter.undeliverable.id] ++
       (List.finRange 256).map (fun n => .stream n StreamCounter.egressDrop.id)
     s.restarting = false → q.length ≤ 512 → held.Nodup → (∀ b ∈ held, (s.buffer b).refs = 1) → PoolCanonical s → Far s refs →
     Silent s srcUndeliverable →
     ∃ t, exec (.presentNegated p) s = .next t ∧ t.egress p = [] ∧ t.bfm.free = s.bfm.free ++ held ∧
       t.bfm.freeCount = s.bfm.freeCount + held.length ∧ (∀ b ∈ held, (t.buffer b).refs = 0) ∧
       (∀ b, b ∉ held → t.buffer b = s.buffer b) ∧ Counted s t (.port p PortCounter.outDrop.id) q.length ∧
       (∀ n, Counted s t (.stream n StreamCounter.egressDrop.id) (q.countP (fun e => match e with
         | .media _ m _ => m == n
         | _ => false))) ∧
       Counted s t (.station StationCounter.undeliverable.id) (q.countP EgressEntry.isControl) ∧
       ((∃ e ∈ q, e.isControl = true) → (t.source srcUndeliverable).flag = true) ∧ t.mga = s.mga ∧ t.stb = s.stb ∧
       t.ltx = s.ltx ∧ t.mrg = s.mrg) ∧
    (s.egress p = [] → exec (.presentNegated p) s = .next (s.setPins { s.pins with present := s.pins.present.put p false })) ∧
    exec (.presentAsserted p) s = .next (s.setPins { s.pins with present := s.pins.present.put p true }) ∧
    ((s.present p = false ∨ 512 ≤ (s.egress p).length) →
      (∀ (l : Lane) (cell : List Byte) (n : StreamId) (b : Nat) (bs : List Nat), TakesMedia s l cell n b bs →
        (s.entry n).merge = false → (s.entry n).port = p →
        Far s [.lane l LaneCounter.rxGood.id, .stream n StreamCounter.rxCells.id, .stream n StreamCounter.delivered.id,
          .stream n StreamCounter.resync.id, .stream n StreamCounter.egressDrop.id, .port p PortCounter.outDrop.id] →
        let x := s.run n
        let ahead := (seqOf cell - x.lastSeq).toNat
        let dropped (u : State) : State := bump (.port p PortCounter.outDrop.id) (bump (.stream n StreamCounter.egressDrop.id)
          (returned b ((bump (.stream n StreamCounter.delivered.id) u).setRun n
            { x with lastValid := true, lastSeq := seqOf cell, lastEpoch := byteAt cell 6 })))
        (x.lastValid = false ∨ (byteAt cell 6 = x.lastEpoch ∧ 0 < ahead ∧ ahead < 32768) →
          exec (.laneCellReceive l cell) s = .next (dropped (taken l cell n b bs s))) ∧
        (x.lastValid = true → byteAt cell 6 ≠ x.lastEpoch → (s.entry n).gapMarkers = true →
          exec (.laneCellReceive l cell) s = .next (dropped (bump (.port p PortCounter.outDrop.id)
            (bump (.stream n StreamCounter.resync.id) (taken l cell n b bs s)))))) ∧
      (∀ (c : ContextId) (n : StreamId) (h : Held) (j : Nat), (s.context c).condition = .attached →
        (s.context c).owner = some n → (s.entry n).port = p → (s.context c).slots = some h :: List.replicate j none →
        (s.context c).lastRelease = none → ((h.release - s.now).toNat = 0 ∨ 2147483648 ≤ (h.release - s.now).toNat) →
        s.mga.held = false → (s.buffer h.buffer).refs = 1 →
        Far s [.stream n StreamCounter.delivered.id, .stream n StreamCounter.egressDrop.id, .port p PortCounter.outDrop.id] →
        exec (.releaseExpiry c) s = .next (bump (.port p PortCounter.outDrop.id) (bump (.stream n StreamCounter.egressDrop.id)
          (returned h.buffer (((bump (.stream n StreamCounter.delivered.id) s).setContext c
            { s.context c with
              next := (s.context c).next + 1
              slots := List.replicate j none ++ [none]
              lastRelease := some s.now
              checkAgrees := true }).setRun n
            { s.run n with lastValid := true, lastSeq := (s.context c).next, lastEpoch := (s.context c).epoch }))))))

/-- The discards of INGRESS_ACCEPTANCE in their order: a foreign kind or length, then for MEDIA the held station, the stream not
ACTIVE, the role TERMINUS, the wrong port, the bucket below 16 under DROP, a plan that yields no lane, and a refused buffer; each counts
IN_CELLS and its own counter and changes nothing else (R39, R42 to R45). -/
def Obligations.IngressDiscards : Prop :=
  ∀ (s : State) (p : PortId) (cell : List Byte) (rest : List (List Byte)), s.ingress p = cell :: rest → s.restarting = false →
    let n : StreamId := (byteAt cell 2).toFin
    let taken := bump (.port p PortCounter.inCells.id) (s.setIngress p rest)
    let media := lengthField cell ≤ 116 ∧ tribKindCode cell = 1
    Calm s [.port p PortCounter.inCells.id, .port p PortCounter.inUnknown.id, .port p PortCounter.inWrongPort.id,
      .port p PortCounter.inactive.id, .stream n StreamCounter.policeDrop.id, .stream n StreamCounter.noLane.id,
      .stream n StreamCounter.admitDrop.id] →
    (116 < lengthField cell ∨ (tribKindCode cell ≠ 1 ∧ tribKindCode cell ≠ 3) →
      exec (.ingressAcceptance p) s = .next (bump (.port p PortCounter.inUnknown.id) taken)) ∧
    (media → s.mga.held = true →
      exec (.ingressAcceptance p) s = .next (bump (.port p PortCounter.inactive.id) taken)) ∧
    (media → s.mga.held = false → (s.entry n).checkAgrees = true →
      ((s.entry n).state ≠ .active →
        exec (.ingressAcceptance p) s = .next (bump (.port p PortCounter.inactive.id) taken)) ∧
      ((s.entry n).state = .active → (s.entry n).role = .terminus →
        exec (.ingressAcceptance p) s = .next (bump (.port p PortCounter.inUnknown.id) taken)) ∧
      ((s.entry n).state = .active → (s.entry n).role = .origin → (s.entry n).port ≠ p →
        exec (.ingressAcceptance p) s = .next (bump (.port p PortCounter.inWrongPort.id) taken)) ∧
      ((s.entry n).state = .active → (s.entry n).role = .origin → (s.entry n).port = p → (s.entry n).rate ≠ 0 →
        (s.run n).level < 16 → (s.entry n).excess = .drop →
        exec (.ingressAcceptance p) s = .next (bump (.stream n StreamCounter.policeDrop.id) taken)) ∧
      ((s.entry n).state = .active → (s.entry n).role = .origin → (s.entry n).port = p →
        ((s.entry n).rate = 0 ∨ 16 ≤ (s.run n).level ∨ (s.entry n).excess = .demote) →
        let demoted := decide ((s.entry n).rate ≠ 0 ∧ (s.run n).level < 16)
        let ls := s.evaluate ((s.entry n).plan.get s.psc.effective)
        (ls = [] → exec (.ingressAcceptance p) s = .next (bump (.stream n StreamCounter.noLane.id) taken)) ∧
        (ls ≠ [] → s.bfm.freeCount ≤ Config.mediaThreshold (if demoted then 3 else (s.entry n).cls) →
          exec (.ingressAcceptance p) s = .next (bump (.stream n StreamCounter.admitDrop.id) taken))))

/-- INGRESS_ACCEPTANCE accepts a cell whose plan yields lanes: a conforming cell keeps its class and is debited, a cell beyond the bucket
goes on demoted to class 3 without a debit; it takes the next sequence, one buffer with a reference for each lane, a copy at the tail of
the class queue of each lane, TX_CELLS (and POLICE_DEMOTE), and nothing else changes (R43 to R46, R59, R60, R9). A copy for a full class
queue is dropped: QUEUE_DROP and one reference each; when every copy is dropped the buffer is back on the free list and NO_LANE counts
once, the sequence and TX_CELLS staying as they are (R60). The allocation that takes the free count from 512 to 511 raises BUFFER_LOW,
which sets its flag or counts a repeat beside all else (R12). -/
def Obligations.IngressAccepts : Prop :=
  ∀ (s : State) (p : PortId) (cell : List Byte) (rest : List (List Byte)) (n : StreamId) (b : Nat) (bs : List Nat),
    let e := s.entry n
    let demoted := decide (e.rate ≠ 0 ∧ (s.run n).level < 16)
    let k : Fin 4 := if demoted then 3 else e.cls
    let ls := s.evaluate (e.plan.get s.psc.effective)
    let stored : Cell :=
      { kind := .media, addr := byteAt cell 2, cls := k, frameEnd := (byteAt cell 1).getLsbD 7, demoted := demoted,
        seq := (s.run n).sendSeq, payload := (cell.drop 8).take (lengthField cell) }
    let level := if e.rate = 0 ∨ demoted then (s.run n).level else (s.run n).level - 16
    s.ingress p = cell :: rest → s.restarting = false → lengthField cell ≤ 116 → tribKindCode cell = 1 →
    (byteAt cell 2).toFin = n → s.mga.held = false → e.checkAgrees = true → e.state = .active → e.role = .origin → e.port = p →
    (demoted = true → e.excess = .demote) → ls ≠ [] →
    let counted := bump (.stream n StreamCounter.txCells.id) (bump (.port p PortCounter.inCells.id) s)
    let u := ((granted b bs ls.length stored
        (if demoted then bump (.stream n StreamCounter.policeDemote.id) counted else counted)).setIngress p rest).setRun n
      { s.run n with level := level, sendSeq := (s.run n).sendSeq + 1, queued := (s.run n).queued + ls.length }
    let queues (v : State) : Prop := ∃ t, exec (.ingressAcceptance p) s = .next t ∧ t = { v with ltx := t.ltx } ∧
      ∀ l, t.tx l = { s.tx l with classes := (t.tx l).classes } ∧
        (∀ j, t.classQueue l j =
          if l ∈ ls ∧ j = k then s.classQueue l j ++ [{ buffer := b, stream := n }] else s.classQueue l j)
    (s.bfm.free = b :: bs → s.bfm.freeCount = 512 → Config.mediaThreshold k < 512 → Silent s srcBufferLow →
      (∀ l ∈ ls, (s.classQueue l k).length < classDepth l) →
      Calm s [.port p PortCounter.inCells.id, .stream n StreamCounter.txCells.id, .stream n StreamCounter.policeDemote.id] →
      queues (flagged srcBufferLow u)) ∧
    (Grants s (Config.mediaThreshold k) b bs →
    ((∀ l ∈ ls, (s.classQueue l k).length < classDepth l) →
      Calm s [.port p PortCounter.inCells.id, .stream n StreamCounter.txCells.id, .stream n StreamCounter.policeDemote.id] →
      queues u) ∧
    (Far s [.port p PortCounter.inCells.id, .stream n StreamCounter.txCells.id, .stream n StreamCounter.policeDemote.id,
        .stream n StreamCounter.queueDrop.id, .stream n StreamCounter.noLane.id] →
      let joined := ls.filter (fun l => decide ((s.classQueue l k).length < classDepth l))
      let lost := if joined = [] then 1 else 0
      ∃ t, exec (.ingressAcceptance p) s = .next t ∧
        (∀ l j, t.classQueue l j =
          if l ∈ joined ∧ j = k then s.classQueue l j ++ [{ buffer := b, stream := n }] else s.classQueue l j) ∧
        t.run n = { s.run n with level := level, sendSeq := (s.run n).sendSeq + 1, queued := (s.run n).queued + joined.length } ∧
        t.buffer b = { refs := joined.length, cell := stored, checkAgrees := true } ∧
        t.bfm.free = (if joined = [] then bs ++ [b] else bs) ∧ t.bfm.freeCount = s.bfm.freeCount - 1 + lost ∧
        Counted s t (.stream n StreamCounter.txCells.id) 1 ∧ Counted s t (.stream n StreamCounter.policeDemote.id) demoted.toNat ∧
        Counted s t (.stream n StreamCounter.queueDrop.id) (ls.length - joined.length) ∧
        Counted s t (.stream n StreamCounter.noLane.id) lost ∧ t.ingress p = rest ∧ t.mga = s.mga ∧ t.evu = s.evu ∧
        t.mrg = s.mrg ∧ t.dlv = s.dlv))

/-- INGRESS_ACCEPTANCE of a MGMT_REQ: the controller port is learned, and the request is routed from its buffer by its destination.
This station: MGMT_REQUESTS counts and the request joins the queue, or, the queue holding 4, MGMT_BUSY counts and a BUSY response leaves;
its buffer is back on the free list (the order of the two buffers is the model's, log 8). The peer: the control queue of the lane of R61,
or UNDELIVERABLE when that queue is full or every view is UNUSABLE. The controller: the port it came from, or with that port absent
the lanes. Destinations 2 to 6, and a request without a buffer: UNDELIVERABLE (R40, R41, R61, R159, R160, R161). -/
def Obligations.IngressTakesRequest : Prop :=
  ∀ (s : State) (p : PortId) (cell : List Byte) (rest : List (List Byte)), s.ingress p = cell :: rest → s.restarting = false →
    lengthField cell ≤ 116 → tribKindCode cell = 3 →
    Calm s [.port p PortCounter.inCells.id, .station StationCounter.mgmtRequests.id, .station StationCounter.mgmtBusy.id,
      .station StationCounter.undeliverable.id] →
    Silent s srcUndeliverable →
    let dest := (byteAt cell 2).toNat / 8 % 8
    let own := s.mga.station.val
    let payload := (cell.drop 8).take (lengthField cell)
    let stored : Cell :=
      { kind := .mgmtReq, addr := byteAt cell 2 &&& 0x3F, cls := 0, frameEnd := false, demoted := false, seq := 0, payload := payload }
    let learned := { s.mga with settings := { s.mga.settings with controllerPort := some p } }
    let u := (bump (.port p PortCounter.inCells.id) (s.setIngress p rest)).setMga learned
    (s.bfm.freeCount = 0 → exec (.ingressAcceptance p) s = .next (undelivered u)) ∧
    (∀ b bs, Grants s 0 b bs →
      let lost := undelivered (returned b (granted b bs 1 stored u))
      let overLanes : Prop :=
        (∀ l, FirstOf s.view [.a, .b, .c] l →
          ((s.tx l).control.length < 8 → exec (.ingressAcceptance p) s =
            .next ((granted b bs 1 stored u).setControl l ((s.tx l).control ++ [b]))) ∧
          (8 ≤ (s.tx l).control.length → exec (.ingressAcceptance p) s = .next lost)) ∧
        ((∀ l, s.view l = .unusable) → exec (.ingressAcceptance p) s = .next lost)
      (dest = own → s.mga.requests.length < 4 →
        exec (.ingressAcceptance p) s = .next ((returned b (bump (.station StationCounter.mgmtRequests.id)
          (granted b bs 1 stored u))).setMga { learned with
            requests := s.mga.requests ++ [{ source := ⟨(byteAt cell 2).toNat % 8, by omega⟩, payload := payload }]
            serviceDue := true })) ∧
      (∀ b2 cs, dest = own → 4 ≤ s.mga.requests.length → bs = b2 :: cs → b ≠ b2 → s.bfm.freeCount ≠ 513 → 1 < s.bfm.freeCount →
        (byteAt cell 2).toNat % 8 = 7 → s.present p = true → (s.egress p).length < 512 →
        exec (.ingressAcceptance p) s = .next (returned b (granted b2 cs 1
          { kind := .mgmtRsp, addr := stationsByte controllerAddress (stationAddress s.mga.station), cls := 0, frameEnd := false,
            demoted := false, seq := 0, payload := [byteAt payload 0, byteAt payload 1, byteAt payload 2, 3, 0] }
          (bump (.station StationCounter.mgmtBusy.id) (bump (.station StationCounter.mgmtRequests.id)
            (granted b bs 1 stored ((u.setEgress p (s.egress p ++ [.control b2])).setMga { learned with serviceDue := true }))))))) ∧
      (dest = 1 - own → overLanes) ∧
      (dest = 7 → s.present p = true → (s.egress p).length < 512 →
        exec (.ingressAcceptance p) s = .next ((granted b bs 1 stored u).setEgress p (s.egress p ++ [.control b]))) ∧
      (dest = 7 → s.present p = false → overLanes) ∧
      (2 ≤ dest → dest ≤ 6 → exec (.ingressAcceptance p) s = .next lost))

/-! ### Lane Transmitter -/

/-- A link cell as it is sent has every field of R1 and R3 in its place, its two checks over the bytes before them, and zeros beyond
its length; the payload of a probe has the 19 bytes of section 1.4, and a receiver reads back what the sender wrote (R1, R2, R3, R7,
R17). -/
def Obligations.LinkCellsLaidOut : Prop :=
  (∀ (c : Cell) (l : Lane) (epoch : Epoch), c.payload.length ≤ 116 →
    let x := linkCell c l epoch
    x.length = 128 ∧ (byteAt x 0).toNat = c.kind.code * 16 + laneCode l * 4 + c.cls.val ∧
      (byteAt x 1).getLsbD 7 = c.frameEnd ∧ (byteAt x 1).getLsbD 6 = c.demoted ∧ (byteAt x 1).toNat % 64 = 0 ∧
      byteAt x 2 = c.addr ∧ (byteAt x 3).toNat = c.payload.length ∧
      nat16At x 4 = (if c.kind = .media then c.seq.toNat else 0) ∧ byteAt x 6 = epoch ∧ byteAt x 7 = crc8 (x.take 7) ∧
      (x.drop 8).take c.payload.length = c.payload ∧ (∀ i, 8 + c.payload.length ≤ i → i < 124 → byteAt x i = 0) ∧
      nat32At x 124 = (crc32 (x.take 124)).toNat) ∧
  (∀ (station : Fin 2) (l : Lane) (number : Byte) (now : Time) (echo : Option EchoRecord) (rx : PerLane RxState)
    (base : BasePosture) (strike : Bool) (epoch : Epoch),
    let x := probePayload station l number now echo rx base strike epoch
    x.length = 19 ∧ (byteAt x 0).toNat = station.val ∧ (byteAt x 1).toNat = laneCode l ∧ byteAt x 2 = number ∧
      nat32At x 4 = now.toNat ∧ (byteAt x 16).toNat = rx.a.code * 16 + rx.b.code * 4 + rx.c.code ∧
      (byteAt x 17).getLsbD 7 = echo.isSome ∧ (byteAt x 17).getLsbD 6 = strike ∧ (byteAt x 17).toNat % 64 = base.code ∧
      byteAt x 18 = epoch ∧
      (echo = none → byteAt x 3 = 0 ∧ nat32At x 8 = 0 ∧ nat32At x 12 = 0) ∧
      (∀ e, echo = some e →
        byteAt x 3 = e.number ∧ nat32At x 8 = e.sendTime.toNat ∧ nat32At x 12 = (now - e.received).toNat) ∧
      readProbe x =
        { number := number, echoNumber := byteAt x 3, sendTime := now, echoSendTime := BitVec.ofNat 32 (nat32At x 8),
          dwell := BitVec.ofNat 32 (nat32At x 12), rx := rx, echoValid := echo.isSome, strike := strike, base := base })

/-- Plan evaluation against the current views, plan by plan: OFF no lane; a single plan its lane unless UNUSABLE; a protected plan the
first USABLE lane of its order, else the first DEGRADED, else none; A+B, A+B>C and A+B+C each named lane that is not UNUSABLE, and C
under A+B>C only when A and B both are; no lane twice (R57, R19). -/
def Obligations.PlansEvaluate : Prop :=
  ∀ s : State,
    let up (l : Lane) : Prop := s.view l ≠ .unusable
    (∀ p, (s.evaluate p).Nodup) ∧ s.evaluate .off = [] ∧
    (∀ p l, (p, l) ∈ [(Plan.a, Lane.a), (.b, .b), (.c, .c)] → (up l → s.evaluate p = [l]) ∧ (¬ up l → s.evaluate p = [])) ∧
    (∀ p ∈ [Plan.aThenB, .bThenA, .aThenBThenC],
      (∀ l, FirstOf s.view (planNames p) l → s.evaluate p = [l]) ∧
      ((∀ l ∈ planNames p, ¬ up l) → s.evaluate p = [])) ∧
    (∀ l, l ∈ s.evaluate .aAndB ↔ (l = .a ∨ l = .b) ∧ up l) ∧
    (∀ l, l ∈ s.evaluate .aAndBElseC ↔ ((l = .a ∨ l = .b) ∧ up l) ∨ (l = .c ∧ ¬ up .a ∧ ¬ up .b ∧ up .c)) ∧
    (∀ l, l ∈ s.evaluate .aAndBAndC ↔ up l)

/-- A probe becomes due (PROBE_DUE); the next slot sends it with the next number and the lane's echo record, which it uses up; a slot
with nothing to send carries FILL (R7, R62, R64, R84). -/
def Obligations.SlotProbeAndFill : Prop :=
  ∀ (s : State) (l : Lane), s.restarting = false →
    let own := stationAddress s.mga.station
    let peer := peerAddress s.mga.station
    let number : Byte := match (s.tx l).lastProbe with
      | none => 0
      | some k => k + 1
    exec (.probeDue l) s = .next (s.setTx l { s.tx l with probeDue := true }) ∧
    ((s.tx l).probeDue = true → Calm s [.lane l LaneCounter.txCells.id] →
      exec (.laneSlot l) s = .next (bump (.lane l LaneCounter.txCells.id)
        (((s.setLaneOut l (linkCell
            { kind := .probe, addr := stationsByte peer own, cls := 0, frameEnd := false, demoted := false, seq := 0,
              payload := probePayload s.mga.station l number s.now (s.rx l).echo
                { a := (s.rx .a).state, b := (s.rx .b).state, c := (s.rx .c).state } s.psc.base s.psc.localStrike s.lck.epoch }
            l s.lck.epoch)).setTx l { s.tx l with probeDue := false, lastProbe := some number }).setRx l
          { s.rx l with echo := none }))) ∧
    ((s.tx l).probeDue = false → (s.tx l).control = [] → (∀ k, s.classQueue l k = []) →
      Calm s [.lane l LaneCounter.txFill.id] →
      exec (.laneSlot l) s = .next (bump (.lane l LaneCounter.txFill.id)
        (s.setLaneOut l (linkCell
          { kind := .fill, addr := stationsByte peer own, cls := 0, frameEnd := false, demoted := false, seq := 0, payload := [] }
          l s.lck.epoch))))

/-- LANE_SLOT sends the head of the control queue before any class queue, and the head of the lowest-numbered class queue that holds an
entry; the sent cell's buffer returns to the free list; a head whose check disagrees is counted and skipped within the slot (R10, R11,
R62, R63). -/
def Obligations.SlotSendsQueued : Prop :=
  ∀ (s : State) (l : Lane), s.restarting = false → (s.tx l).probeDue = false →
    Calm s [.lane l LaneCounter.txCells.id, .lane l LaneCounter.txBufCheck.id, .lane l LaneCounter.txFill.id] →
    (∀ b q, (s.tx l).control = b :: q → (s.buffer b).refs = 1 → (s.buffer b).checkAgrees = true →
      exec (.laneSlot l) s = .next (returned b (bump (.lane l LaneCounter.txCells.id)
        ((s.setControl l q).setLaneOut l (linkCell (s.buffer b).cell l s.lck.epoch))))) ∧
    (∀ k e q, (s.tx l).control = [] → (∀ j, j < k → s.classQueue l j = []) → s.classQueue l k = e :: q →
      (s.buffer e.buffer).refs = 1 → (s.buffer e.buffer).checkAgrees = true →
      exec (.laneSlot l) s = .next (returned e.buffer (bump (.lane l LaneCounter.txCells.id)
        (((s.setClassQueue l k q).setRun e.stream { s.run e.stream with queued := (s.run e.stream).queued - 1 }).setLaneOut l
          (linkCell (s.buffer e.buffer).cell l s.lck.epoch))))) ∧
    (∀ b, (s.tx l).control = [b] → (∀ k, s.classQueue l k = []) → (s.buffer b).refs = 1 →
      (s.buffer b).checkAgrees = false →
      exec (.laneSlot l) s = .next (bump (.lane l LaneCounter.txFill.id)
        ((returned b (bump (.lane l LaneCounter.txBufCheck.id) (s.setControl l []))).setLaneOut l
          (linkCell
            { kind := .fill, addr := stationsByte (peerAddress s.mga.station) (stationAddress s.mga.station), cls := 0,
              frameEnd := false, demoted := false, seq := 0, payload := [] } l s.lck.epoch))))

/-- The counter of an idle slot, TX_FILL, at each place of its range: at its maximum it wraps to 0 and its overflow flag is set, with no
event; the count from 2,147,483,647 to 2,147,483,648 fires COUNTER_HALF with the lane, the index and the counter id as its detail, recorded at
the first setting and kept by a repeat; any other count adds one, the overflow flag as it stands, with no event (R143, R144, R145, R150).
A flag set above the floor raises the floor to its level and sends a NOTICE naming it through the controller port, and NOTICES counts it;
without a buffer UNDELIVERABLE counts and fires instead (R151, R152). A source bound to channels is taken by the lowest-numbered one, its
flag and the floor untouched: a firing already pending there is merged and counts EXPORT_OVERRUN, one that finds no route or no buffer
waits, and one that finds both sends its EXPORT cell at once (R150, R156, R157). -/
def Obligations.CountersWrapAndHalve : Prop :=
  ∀ (s : State) (l : Lane), s.restarting = false → (s.tx l).probeDue = false → (s.tx l).control = [] →
    (∀ k, s.classQueue l k = []) →
    let r : CounterRef := .lane l LaneCounter.txFill.id
    let x := s.counter r
    let sent := s.setLaneOut l (linkCell
      { kind := .fill, addr := stationsByte (peerAddress s.mga.station) (stationAddress s.mga.station), cls := 0, frameEnd := false,
        demoted := false, seq := 0, payload := [] } l s.lck.epoch)
    let y := s.source srcCounterHalf
    (x.value.toNat = 4294967295 → exec (.laneSlot l) s = .next (sent.setCounter r { value := 0, overflow := true })) ∧
    (x.value.toNat ≠ 4294967295 → x.value.toNat ≠ 2147483647 →
      ∃ v, v.toNat = x.value.toNat + 1 ∧
        exec (.laneSlot l) s = .next (sent.setCounter r { value := v, overflow := x.overflow })) ∧
    (x.value.toNat = 2147483647 → Silent s srcCounterHalf →
      exec (.laneSlot l) s = .next ((sent.setCounter r { value := 2147483648, overflow := x.overflow }).setSource srcCounterHalf
        (if y.flag then { y with repeats := min (y.repeats + 1) 65535 }
         else { level := y.level, flag := true, repeats := 0
                detail := .counterHalf .lane (match l with | .a => 0 | .b => 1 | .c => 2) 8 }))) ∧
    (x.value.toNat = 2147483647 →
      let half := sent.setCounter r { value := 2147483648, overflow := x.overflow }
      let control (kind : CellKind) (payload : List Byte) : Cell :=
        { kind := kind, addr := stationsByte controllerAddress (stationAddress s.mga.station), cls := 0, frameEnd := false,
          demoted := false, seq := 0, payload := payload }
      let bound (c : ChannelId) : Prop := (s.channel c).bound = some (.source srcCounterHalf)
      ((∀ c, ¬ bound c) → y.flag = false → s.evu.floor < y.level → FloorCovers s → (s.source srcFault).flag = false →
        let set := (half.setSource srcCounterHalf
          { level := y.level, flag := true, repeats := 0
            detail := .counterHalf .lane (match l with | .a => 0 | .b => 1 | .c => 2) 8 }).setFloor y.level
        (∀ p b bs, Reaches s p → Grants s 0 b bs → Calm s [.station StationCounter.notices.id] →
          exec (.laneSlot l) s = .next (bump (.station StationCounter.notices.id)
            ((granted b bs 1 (control .notice ([byte srcCounterHalf.val, byte y.level] ++
                be24 ((List.finRange 23).map (fun j => if (set.source j).flag then 2 ^ j.val else 0)).sum ++
                [byte y.level] ++ set.detailBytes)) set).setEgress p (s.egress p ++ [.control b])))) ∧
        (s.bfm.freeCount = 0 → Silent s srcUndeliverable → Calm s [.station StationCounter.undeliverable.id] →
          exec (.laneSlot l) s = .next (undelivered set))) ∧
      (∀ c, bound c → (∀ d, d < c → ¬ bound d) →
        let z := s.channel c
        (z.firing = true → Calm s [.station StationCounter.exportOverrun.id] →
          exec (.laneSlot l) s = .next (bump (.station StationCounter.exportOverrun.id) half)) ∧
        (z.firing = false → (s.routeReady = false ∨ s.bfm.freeCount = 0) →
          exec (.laneSlot l) s = .next (half.setChannel c { z with firing := true })) ∧
        (∀ p b bs, z.firing = false → Reaches s p → Grants s 0 b bs → 2 ≤ z.remaining →
          exec (.laneSlot l) s = .next (((granted b bs 1 (control .exportCell
              ([byte c.val] ++ be16 (z.number + 1).toNat ++ [byte z.kind.code] ++ be16 z.first ++ [byte z.items] ++
                ((half.blockOf z).map (fun w => be32 w.value.toNat)).flatten ++ be32 (overflowBits (half.blockOf z)))) half).setEgress p
              (s.egress p ++ [.control b])).setChannel c
            { z with
              number := z.number + 1, remaining := z.remaining - 1
              first := if z.walk then (z.first + z.items) % z.kind.total else z.first }))))

/-- TXFAULT_CHANGE sets the input and derives every view by R55; receive states, posture and the peer report stay (R55, R56). -/
def Obligations.TxfaultDerivesViews : Prop :=
  ∀ (s : State) (l : OpticalLane) (level : Bool), ∃ t, exec (.txfaultChange l level) s = .next t ∧
    t.pins = (match l with
      | .a => { s.pins with txfaultA := level }
      | .b => { s.pins with txfaultB := level }) ∧
    ViewsDerived t ∧ t.lrx = s.lrx ∧ t.psc = s.psc ∧ t.lck = s.lck ∧ t.tin = s.tin ∧ t.out = s.out ∧
    (∀ n, (t.run n).level = (s.run n).level ∧ (t.run n).sendSeq = (s.run n).sendSeq)

/-- TXFAULT_CHANGE that makes a lane UNUSABLE: its view event fires, no other lane's, and its class and control queues end empty.
Entries of protected plans move, in order, to the tail of the same class queue of the lane that R57 then gives, each counting TX_REQUEUE
and keeping its buffer and queued count. An entry is dropped as TX_FLUSH when its plan is not protected, yields no lane, or yields one
that holds a copy already, and as QUEUE_DROP when that queue is full: one reference less, queued count less one. The control queue moves
to the lane of R61 among the other two as far as it has room; the rest, or with both UNUSABLE all of it, is dropped as TX_FLUSH (R56,
R65, R66). -/
def Obligations.FallenViewRequeues : Prop :=
  ∀ (s : State) (o : OpticalLane),
    let m : Lane := match o with | .a => .a | .b => .b
    let down := exec (.txfaultChange o true) s
    let flush : CounterRef := .lane m LaneCounter.txFlush.id
    s.view m ≠ .unusable →
    (∃ t, down = .next t ∧ t.view m = .unusable ∧ (t.tx m).control = [] ∧ ∀ k, t.classQueue m k = []) ∧
    (ViewsDerived s → TableAgrees s → Silent s (srcLaneView m) → Silent s srcOvercommit →
      let v (l : Lane) : View := if l = m then .unusable else s.view l
      let isProtected (p : Plan) : Prop := p ∈ [Plan.aThenB, .bThenA, .aThenBThenC]
      let planOf (e : QueueEntry) : Plan := (s.entry e.stream).plan.get s.psc.effective
      let onlyClass (k : Fin 4) : Prop := (s.tx m).control = [] ∧ ∀ i, i ≠ k → s.classQueue m i = []
      (∃ t, down = .next t ∧ (∀ l, t.view l = v l) ∧ (t.source (srcLaneView m)).flag = true ∧
        ∀ l, l ≠ m → t.source (srcLaneView l) = s.source (srcLaneView l)) ∧
      (∀ k es j, onlyClass k → s.classQueue m k = es → Far s [.lane m LaneCounter.txRequeue.id] →
        (∀ e ∈ es, isProtected (planOf e) ∧ FirstOf v (planNames (planOf e)) j) → (es.map (·.buffer)).Nodup →
        (∀ e ∈ es, ∀ x ∈ s.classQueue j k, x.buffer ≠ e.buffer) → (s.classQueue j k).length + es.length ≤ classDepth j →
        ∃ t, down = .next t ∧
          (∀ l i, t.classQueue l i =
            if l = m then [] else if l = j ∧ i = k then s.classQueue j k ++ es else s.classQueue l i) ∧
          Counted s t (.lane m LaneCounter.txRequeue.id) es.length ∧ t.counter flush = s.counter flush ∧
          (∀ n, t.run n = s.run n) ∧ t.bfm = s.bfm) ∧
      (∀ k e, onlyClass k → s.classQueue m k = [e] → 1 ≤ (s.buffer e.buffer).refs → PoolCanonical s →
        Far s [flush, .stream e.stream StreamCounter.queueDrop.id] →
        let dropped (r : CounterRef) : Prop := ∃ t, down = .next t ∧
          (∀ l i, t.classQueue l i = if l = m then [] else s.classQueue l i) ∧ Counted s t r 1 ∧
          (t.buffer e.buffer).refs = (s.buffer e.buffer).refs - 1 ∧
          t.bfm.free = s.bfm.free ++ (if (s.buffer e.buffer).refs = 1 then [e.buffer] else []) ∧
          (t.run e.stream).queued = (s.run e.stream).queued - 1
        (¬ isProtected (planOf e) → dropped flush) ∧
        ((∀ l ∈ planNames (planOf e), v l = .unusable) → dropped flush) ∧
        (∀ j, isProtected (planOf e) → FirstOf v (planNames (planOf e)) j →
          ((∃ x ∈ s.classQueue j k, x.buffer = e.buffer) → dropped flush) ∧
          ((∀ x ∈ s.classQueue j k, x.buffer ≠ e.buffer) → classDepth j ≤ (s.classQueue j k).length →
            dropped (.stream e.stream StreamCounter.queueDrop.id)))) ∧
      (∀ q, (s.tx m).control = q → (∀ i, s.classQueue m i = []) → q.length ≤ 8 → q.Nodup → (∀ b ∈ q, (s.buffer b).refs = 1) →
        PoolCanonical s → Far s [flush] →
        let moved (room : Nat) (t : State) : Prop := t.bfm.free = s.bfm.free ++ q.drop room ∧
          (∀ b ∈ q.drop room, (t.buffer b).refs = 0) ∧ Counted s t flush (q.length - room) ∧ t.mga = s.mga ∧ t.stb = s.stb
        (∀ j, FirstOf v ([Lane.a, .b, .c].filter (fun l => decide (l ≠ m))) j →
          ∃ t, down = .next t ∧ (t.tx j).control = (s.tx j).control ++ q.take (8 - (s.tx j).control.length) ∧
            (∀ l, l ≠ m → l ≠ j → (t.tx l).control = (s.tx l).control) ∧ moved (8 - (s.tx j).control.length) t) ∧
        ((∀ l, l ≠ m → s.view l = .unusable) → ∃ t, down = .next t ∧ moved 0 t)))

/-! ### Lane Receiver -/

/-- LOSS_OF_SIGNAL takes a lane to DOWN and SIGNAL_RESTORED takes it from there to HUNT, with everything measured on the lane lost but
the last probe seen; a lane already DOWN, or not in DOWN, only has its input follow (R74, R77). Every change of a lane's receive state,
by a loss or its end, by the close of an errored interval, by the eighth good header of a hunt or the fourth bad header of a delineated
lane, raises the lane's event, and counts DOWN_ENTRIES, HUNT_ENTRIES or IMPAIRED_ENTRIES on entry to DOWN, HUNT or IMPAIRED and nothing on
entry to UP; the other counts of those steps are the errored interval and the bad header (R75 to R77, R82, R83). -/
def Obligations.SignalMovesLane : Prop :=
  ∀ (s : State) (l : Lane), s.restarting = false →
    let fresh (state : RxState) : LaneRx :=
      { state := state, goodHeaders := 0, badHeaders := 0, crcFailures := 0, headerFailure := false, judging := false,
        erroredRun := 0, cleanRun := 0, echo := none, lastSample := none, delay := none, lastSeen := (s.rx l).lastSeen,
        huntWindow := [], huntWait := 0 }
    let loss (level : Bool) : Pins := { s.pins with loss := s.pins.loss.set l level }
    ((s.rx l).state ≠ .down → ∃ t, exec (.lossOfSignal l) s = .next t ∧ t.pins = loss true ∧ t.rx l = fresh .down ∧
      (∀ m, m ≠ l → t.rx m = s.rx m) ∧ t.lrx.peer = s.lrx.peer ∧ t.psc = s.psc ∧ t.lck = s.lck ∧ t.tin = s.tin) ∧
    ((s.rx l).state = .down → exec (.lossOfSignal l) s = .next (s.setPins (loss true))) ∧
    ((s.rx l).state = .down → ∃ t, exec (.signalRestored l) s = .next t ∧ t.pins = loss false ∧ t.rx l = fresh .hunt ∧
      (∀ m, m ≠ l → t.rx m = s.rx m) ∧ t.lrx.peer = s.lrx.peer ∧ t.psc = s.psc ∧ t.lck = s.lck ∧ t.tin = s.tin) ∧
    ((s.rx l).state ≠ .down → exec (.signalRestored l) s = .next (s.setPins (loss false))) ∧
    (ViewsDerived s → TableAgrees s → Silent s (srcLaneState l) → Silent s (srcLaneView l) → Silent s srcOvercommit →
      (s.lrx.peer.stale = true → (s.tx l).control = [] ∧ ∀ k, s.classQueue l k = []) →
      Calm s [.lane l LaneCounter.downEntries.id, .lane l LaneCounter.huntEntries.id, .lane l LaneCounter.impairedEntries.id,
        .lane l LaneCounter.erroredIntervals.id, .lane l LaneCounter.rxHdrErr.id] →
      let x := s.rx l
      let enters (counters : List LaneCounter) (step : Instr) : Prop := ∃ t, exec step s = .next t ∧
        t.cnt = (counters.foldl (fun u c => bump (.lane l c.id) u) s).cnt ∧
        t.source (srcLaneState l) = (flagged (srcLaneState l) s).source (srcLaneState l)
      let isErrored := s.mga.settings.erroredThreshold ≤ x.crcFailures ∨ x.headerFailure = true
      let recover := match s.psc.effective with
        | .clear | .watch => s.mga.settings.recoverNormal
        | .warning | .strike => s.mga.settings.recoverStorm
      (x.state ≠ .down → enters [.downEntries] (.lossOfSignal l)) ∧
      (x.state = .down → enters [.huntEntries] (.signalRestored l)) ∧
      (x.judging = true → x.state = .up → isErrored → s.mga.settings.impairCount ≤ min (x.erroredRun + 1) 255 →
        enters [.erroredIntervals, .impairedEntries] (.erroredIntervalClose l)) ∧
      (x.judging = true → x.state = .impaired → ¬ isErrored → recover ≤ min (x.cleanRun + 1) 255 →
        enters [] (.erroredIntervalClose l)) ∧
      (∀ y : Byte, let w := (x.huntWindow ++ [y]).drop (x.huntWindow.length + 1 - 8)
        x.state = .hunt → x.goodHeaders = 7 → x.huntWait = 1 → w.length = 8 → crc8 (w.take 7) = byteAt w 7 →
        enters [] (.huntByte l y)) ∧
      (∀ cell : List Byte, cell.length = 128 → (x.state = .up ∨ x.state = .impaired) → crc8 (cell.take 7) ≠ byteAt cell 7 →
        x.badHeaders = 3 → enters [.rxHdrErr, .huntEntries] (.laneCellReceive l cell)))

/-- HUNT_BYTE: a failing candidate only moves the search on, a passing one is the first good header, a passing header 128 bytes after
the seventh brings the lane to UP, and a failing one there sets the good-header count to 0; in any state but HUNT a byte does nothing
(R75, R77; how the window is kept is the model's, log 19). -/
def Obligations.HuntFindsBoundary : Prop :=
  ∀ (s : State) (l : Lane) (x : Byte), s.restarting = false →
    let w := ((s.rx l).huntWindow ++ [x]).drop ((s.rx l).huntWindow.length + 1 - 8)
    let passes := w.length = 8 ∧ crc8 (w.take 7) = byteAt w 7
    ((s.rx l).state ≠ .hunt → exec (.huntByte l x) s = .next s) ∧
    ((s.rx l).state = .hunt → (s.rx l).goodHeaders = 0 → ¬ passes →
      exec (.huntByte l x) s = .next (s.setRx l { s.rx l with huntWindow := w, huntWait := 0 })) ∧
    ((s.rx l).state = .hunt → (s.rx l).goodHeaders = 0 → passes →
      exec (.huntByte l x) s = .next (s.setRx l { s.rx l with huntWindow := w, goodHeaders := 1, huntWait := 128 })) ∧
    ((s.rx l).state = .hunt → (s.rx l).goodHeaders = 7 → (s.rx l).huntWait = 1 → ¬ passes →
      exec (.huntByte l x) s = .next (s.setRx l { s.rx l with huntWindow := w, goodHeaders := 0, huntWait := 0 })) ∧
    ((s.rx l).state = .hunt → (s.rx l).goodHeaders = 7 → (s.rx l).huntWait = 1 → passes →
      ∃ t, exec (.huntByte l x) s = .next t ∧
        t.rx l = { s.rx l with state := .up, goodHeaders := 8, badHeaders := 0, huntWindow := [], huntWait := 0 } ∧
        (∀ m, m ≠ l → t.rx m = s.rx m) ∧ t.pins = s.pins ∧ t.psc = s.psc ∧ t.lrx.peer = s.lrx.peer)

/-- LANE_CELL_RECEIVE on a delineated lane examines a cell in the order of R3: a failing header below the fourth, a failing CRC, a
kind of 7 to 15, a bad length or lane id, and a good FILL; each counts its one counter. The fourth failing header in a row costs the
lane its delineation: HUNT, with everything measured lost but the last probe seen, and the search goes on in the cell's other bytes. A
lane that is not delineated has no cell, and bytes that are no cell fault (R3, R74, R75, R76, R77, R81; the fault is the model's, log
18). A good MEDIA cell is refused at dispatch in the order of R78: RX_UNKNOWN for the lane with the station held, with a stream whose
entry disagrees (the station then enters FAULT-HOLD with TABLE_CHECK, and its FAULT notice leaves), that is not ACTIVE, or whose role is
ORIGIN; past these RX_CELLS for the stream, and ADMIT_DROP when no buffer is granted (R9, R22, R78, R166). -/
def Obligations.CellExamined : Prop :=
  ∀ (s : State) (l : Lane) (cell : List Byte),
    let ready := cell.length = 128 ∧ s.restarting = false ∧ ((s.rx l).state = .up ∨ (s.rx l).state = .impaired)
    let headerGood := crc8 (cell.take 7) = byteAt cell 7
    let crcGood := (crc32 (cell.take 124)).toNat = nat32At cell 124
    let kind := (byteAt cell 0).toNat / 16
    let laneId := (byteAt cell 0).toNat / 4 % 4
    let seen := s.setRx l { s.rx l with badHeaders := 0 }
    (cell.length ≠ 128 → exec (.laneCellReceive l cell) s = .fault .malformedCell) ∧
    (cell.length = 128 → (s.rx l).state = .down ∨ (s.rx l).state = .hunt → exec (.laneCellReceive l cell) s = .next s) ∧
    (Calm s [.lane l LaneCounter.rxHdrErr.id, .lane l LaneCounter.rxCrcErr.id, .lane l LaneCounter.rxUnknown.id,
        .lane l LaneCounter.rxGood.id] → ready →
      (¬ headerGood → (s.rx l).badHeaders < 3 →
        exec (.laneCellReceive l cell) s = .next ((bump (.lane l LaneCounter.rxHdrErr.id) s).setRx l
          { s.rx l with headerFailure := true, badHeaders := (s.rx l).badHeaders + 1 })) ∧
      (headerGood → ¬ crcGood →
        exec (.laneCellReceive l cell) s = .next ((bump (.lane l LaneCounter.rxCrcErr.id) s).setRx l
          { s.rx l with badHeaders := 0, crcFailures := (s.rx l).crcFailures + 1 })) ∧
      (headerGood → crcGood → (6 < kind ∨ 116 < (byteAt cell 3).toNat ∨ laneId ≠ laneCode l) →
        exec (.laneCellReceive l cell) s = .next (bump (.lane l LaneCounter.rxUnknown.id) seen)) ∧
      (headerGood → crcGood → kind = 0 → (byteAt cell 3).toNat ≤ 116 → laneId = laneCode l →
        exec (.laneCellReceive l cell) s = .next (bump (.lane l LaneCounter.rxGood.id) seen))) ∧
    (ready → ¬ headerGood → (s.rx l).badHeaders = 3 → ∃ t, exec (.laneCellReceive l cell) s = .next t ∧
      t.rx l = { state := .hunt, goodHeaders := (t.rx l).goodHeaders, badHeaders := 0, crcFailures := 0, headerFailure := false,
                 judging := false, erroredRun := 0, cleanRun := 0, echo := none, lastSample := none, delay := none,
                 lastSeen := (s.rx l).lastSeen, huntWindow := (t.rx l).huntWindow, huntWait := (t.rx l).huntWait } ∧
      (t.rx l).goodHeaders ≤ 1 ∧
      (∀ m, m ≠ l → t.rx m = s.rx m) ∧ t.lrx.peer = s.lrx.peer ∧ t.pins = s.pins ∧ t.psc = s.psc ∧ t.lck = s.lck) ∧
    (∀ n : StreamId, GoodCell s l cell 1 → (byteAt cell 2).toFin = n →
      Calm s [.lane l LaneCounter.rxGood.id, .lane l LaneCounter.rxUnknown.id, .stream n StreamCounter.rxCells.id,
        .stream n StreamCounter.admitDrop.id] →
      let e := s.entry n
      let good := bump (.lane l LaneCounter.rxGood.id) seen
      let unknown (u : State) : State := bump (.lane l LaneCounter.rxUnknown.id) u
      let cls : Fin 4 := if (byteAt cell 1).getLsbD 6 then 3 else ⟨(byteAt cell 0).toNat % 4, by omega⟩
      (s.mga.held = true ∨ (e.checkAgrees = true ∧ (e.state ≠ .active ∨ e.role = .origin)) →
        exec (.laneCellReceive l cell) s = .next (unknown good)) ∧
      (s.mga.held = false → e.checkAgrees = true → e.state = .active → e.role = .terminus →
        s.bfm.freeCount ≤ Config.mediaThreshold cls →
        exec (.laneCellReceive l cell) s =
          .next (bump (.stream n StreamCounter.admitDrop.id) (bump (.stream n StreamCounter.rxCells.id) good))) ∧
      (s.mga.held = false → e.checkAgrees = false →
        (∃ t, exec (.laneCellReceive l cell) s = .next t ∧ t.mga.held = true ∧ t.mga.faultCause = some .tableCheck ∧
          t.mga.faultIndex = n.val ∧ MediaGone t) ∧
        (∀ p b bs, MediaGone s → s.mga.drain = none → (s.source srcFault).flag = false → Reaches s p → Grants s 0 b bs →
          Calm s [.station StationCounter.notices.id] →
          ∃ t, exec (.laneCellReceive l cell) s = .next t ∧
            t.cnt = (unknown (bump (.station StationCounter.notices.id) good)).cnt ∧ t.egress p = s.egress p ++ [.control b] ∧
            (t.source srcFault).flag = true ∧ (t.source srcFault).detail = .fault .tableCheck n.val ∧ t.stb = s.stb ∧
            t.bfm.free = bs)))

/-- A used probe: the last probe seen, the echo record and the peer report record are its own, a valid sample sets or smooths the delay
estimate, and the views and the effective posture follow the new report (R80, R85 to R88, R55, R128, R129). A sample is invalid for a round
trip of 2^31 or more, with no probe sent, or for an echo number 1 to 127 ahead of the last probe sent; any other number, that one or one
behind it, is taken. An invalid sample counts PROBE_INVALID and leaves the estimate, the probe still being used. A probe that fails the
tests of R7 counts PROBE_INVALID and does nothing else (R7, R86). -/
def Obligations.ProbeUsed : Prop :=
  ∀ (s : State) (l : Lane) (cell : List Byte), GoodCell s l cell 2 →
    let load := (cell.drop 8).take (byteAt cell 3).toNat
    let p := readProbe load
    let rtt := (s.now - p.echoSendTime - p.dwell).toNat
    let sample := min (rtt / 2) 65535
    let counts : List CounterRef := [.lane l LaneCounter.rxGood.id, .lane l LaneCounter.probeInvalid.id]
    let good := bump (.lane l LaneCounter.rxGood.id) (s.setRx l { s.rx l with badHeaders := 0 })
    let usable := load.length = 19 ∧ (byteAt load 0).toNat % 8 = (peerAddress s.mga.station).val ∧
      (byteAt load 1).toNat % 4 = laneCode l ∧ byteAt load 18 = byteAt cell 6
    (¬ usable → Calm s counts →
      exec (.laneCellReceive l cell) s = .next (bump (.lane l LaneCounter.probeInvalid.id) good)) ∧
    (usable → ∃ t, exec (.laneCellReceive l cell) s = .next t ∧
      (t.rx l).lastSeen = some { number := p.number, received := s.now, old := false } ∧
      (t.rx l).echo = some { number := p.number, sendTime := p.sendTime, received := s.now } ∧
      (p.echoValid = false → (t.rx l).delay = (s.rx l).delay ∧ (t.rx l).lastSample = (s.rx l).lastSample) ∧
      (∀ k, p.echoValid = true → rtt < 2147483648 → (s.tx l).lastProbe = some k → p.echoNumber = k →
        (t.rx l).lastSample = some sample ∧
        (t.rx l).delay = some (match (s.rx l).delay with
          | none => sample
          | some d => (7 * d + sample + 4) / 8)) ∧
      (p.echoValid = true → (2147483648 ≤ rtt ∨ (s.tx l).lastProbe = none) →
        (t.rx l).delay = (s.rx l).delay ∧ (t.rx l).lastSample = (s.rx l).lastSample) ∧
      (∀ k, p.echoValid = true → (s.tx l).lastProbe = some k → 1 ≤ (p.echoNumber - k).toNat → (p.echoNumber - k).toNat ≤ 127 →
        (t.rx l).delay = (s.rx l).delay ∧ (t.rx l).lastSample = (s.rx l).lastSample) ∧
      (∀ k, p.echoValid = true → rtt < 2147483648 → (s.tx l).lastProbe = some k → 128 ≤ (p.echoNumber - k).toNat →
        (t.rx l).lastSample = some sample ∧
        (t.rx l).delay = some (match (s.rx l).delay with
          | none => sample
          | some d => (7 * d + sample + 4) / 8)) ∧
      (TableAgrees s → (∀ m, Silent s (srcLaneView m)) → Silent s srcPosture → Silent s srcOvercommit →
        (∀ m, (s.tx m).control = [] ∧ ∀ k, s.classQueue m k = []) → Calm s counts →
        let isInvalid := p.echoValid = true ∧ (2147483648 ≤ rtt ∨ (s.tx l).lastProbe = none ∨
          ∃ k, (s.tx l).lastProbe = some k ∧ 1 ≤ (p.echoNumber - k).toNat ∧ (p.echoNumber - k).toNat ≤ 127)
        (isInvalid → t.cnt = (bump (.lane l LaneCounter.probeInvalid.id) good).cnt) ∧ (¬ isInvalid → t.cnt = good.cnt)) ∧
      t.lrx.peer = { rx := p.rx, base := p.base, strike := p.strike, epoch := byteAt cell 6, arrival := some l, age := 0,
                     stale := false } ∧
      t.psc.peerBase = p.base ∧ t.psc.peerStrike = p.strike ∧ PostureDerived t ∧ ViewsDerived t ∧
      (∀ m, m ≠ l → t.rx m = s.rx m) ∧ t.psc.base = s.psc.base ∧ t.psc.timer = s.psc.timer)

/-- LANE_CELL_RECEIVE of a good MGMT_REQ, MGMT_RSP, NOTICE or EXPORT cell stores it in a buffer and routes it by its destination. A
MGMT_REQ for this station: MGMT_REQUESTS and the tail of the request queue, or, with the queue at 4, MGMT_BUSY and a BUSY response, the
request's buffer then free (the order of the two buffers is the model's, log 8). For the controller: the tail of the controller port's FIFO
when that port is present, OUT_DROP and UNDELIVERABLE when it is full. Every other cell from a lane (another kind for this station, the
peer's own address, the controller with its port none or absent, 2 to 6) and one without a buffer is UNDELIVERABLE (R79, R136, R159,
R160, R161). -/
def Obligations.ControlCellRouted : Prop :=
  ∀ (s : State) (l : Lane) (cell : List Byte) (kind : CellKind), kind ∈ [CellKind.mgmtReq, .mgmtRsp, .notice, .exportCell] →
    GoodCell s l cell kind.code → Silent s srcUndeliverable →
    Calm s [.lane l LaneCounter.rxGood.id, .station StationCounter.mgmtRequests.id, .station StationCounter.mgmtBusy.id,
      .station StationCounter.undeliverable.id] →
    let dest := (byteAt cell 2).toNat / 8 % 8
    let own := s.mga.station.val
    let stored := storedCell kind cell
    let good := bump (.lane l LaneCounter.rxGood.id) (s.setRx l { s.rx l with badHeaders := 0 })
    (s.bfm.freeCount = 0 → exec (.laneCellReceive l cell) s = .next (undelivered good)) ∧
    (∀ b bs, Grants s 0 b bs →
      let lost := exec (.laneCellReceive l cell) s = .next (undelivered (returned b (granted b bs 1 stored good)))
      (dest = own → kind = .mgmtReq → s.mga.requests.length < 4 →
        exec (.laneCellReceive l cell) s = .next ((returned b (bump (.station StationCounter.mgmtRequests.id)
          (granted b bs 1 stored good))).setMga { s.mga with
            requests := s.mga.requests ++ [{ source := ⟨(byteAt cell 2).toNat % 8, by omega⟩, payload := stored.payload }]
            serviceDue := true })) ∧
      (∀ p b2 cs, dest = own → kind = .mgmtReq → 4 ≤ s.mga.requests.length → bs = b2 :: cs → b ≠ b2 → s.bfm.freeCount ≠ 513 →
        1 < s.bfm.freeCount → (byteAt cell 2).toNat % 8 = 7 → Reaches s p →
        exec (.laneCellReceive l cell) s = .next (returned b (granted b2 cs 1
          { kind := .mgmtRsp, addr := stationsByte controllerAddress (stationAddress s.mga.station), cls := 0, frameEnd := false,
            demoted := false, seq := 0
            payload := [byteAt stored.payload 0, byteAt stored.payload 1, byteAt stored.payload 2, 3, 0] }
          (bump (.station StationCounter.mgmtBusy.id) (bump (.station StationCounter.mgmtRequests.id)
            (granted b bs 1 stored ((good.setEgress p (s.egress p ++ [.control b2])).setMga
              { s.mga with serviceDue := true }))))))) ∧
      (dest = own → kind ≠ .mgmtReq → lost) ∧ (dest = 1 - own → lost) ∧ (2 ≤ dest → dest ≤ 6 → lost) ∧
      (dest = 7 → (∀ p, s.mga.settings.controllerPort = some p → s.present p = false) → lost) ∧
      (∀ p, dest = 7 → Reaches s p →
        exec (.laneCellReceive l cell) s = .next ((granted b bs 1 stored good).setEgress p (s.egress p ++ [.control b]))) ∧
      (∀ p, dest = 7 → s.mga.settings.controllerPort = some p → s.present p = true → 512 ≤ (s.egress p).length →
        Calm s [.port p PortCounter.outDrop.id] →
        exec (.laneCellReceive l cell) s =
          .next (undelivered (bump (.port p PortCounter.outDrop.id) (returned b (granted b bs 1 stored good))))))

/-- A good MEDIA cell of an ACTIVE terminus stream with no context, by the unmerged forward filter: the first cell, one ahead by 1 to
32767, or one of another epoch is delivered: DELIVERED, a media entry at the tail of the port's egress FIFO, and the last delivered
sequence and epoch; one of another epoch first counts RESYNC and, with gap markers ON, sends a resync marker ahead of it; any other
cell counts LATE and its buffer is free again (R78, R9, R113, R135). -/
def Obligations.UnmergedDelivers : Prop :=
  ∀ (s : State) (l : Lane) (cell : List Byte) (n : StreamId) (b : Nat) (bs : List Nat), TakesMedia s l cell n b bs →
    (s.entry n).merge = false →
    let seq := seqOf cell
    let x := s.run n
    let p := (s.entry n).port
    let ahead := (seq - x.lastSeq).toNat
    let isNew := x.lastValid = false ∨ (byteAt cell 6 = x.lastEpoch ∧ 0 < ahead ∧ ahead < 32768)
    let delivered (u : State) : State := (bump (.stream n StreamCounter.delivered.id) u).setRun n
      { x with lastValid := true, lastSeq := seq, lastEpoch := byteAt cell 6 }
    Calm s [.lane l LaneCounter.rxGood.id, .stream n StreamCounter.rxCells.id, .stream n StreamCounter.delivered.id,
      .stream n StreamCounter.resync.id, .stream n StreamCounter.late.id] →
    (isNew → s.present p = true → (s.egress p).length < 512 →
      exec (.laneCellReceive l cell) s =
        .next (delivered ((taken l cell n b bs s).setEgress p (s.egress p ++ [.media b n seq])))) ∧
    (x.lastValid = true → byteAt cell 6 ≠ x.lastEpoch → s.present p = true → (s.egress p).length < 511 →
      exec (.laneCellReceive l cell) s = .next (delivered (bump (.stream n StreamCounter.resync.id)
        ((taken l cell n b bs s).setEgress p
          (s.egress p ++ (if (s.entry n).gapMarkers then [.gap n seq 0 true] else []) ++ [.media b n seq]))))) ∧
    (x.lastValid = true → byteAt cell 6 = x.lastEpoch → (ahead = 0 ∨ 32768 ≤ ahead) →
      exec (.laneCellReceive l cell) s =
        .next (returned b (bump (.stream n StreamCounter.late.id) (taken l cell n b bs s))))

/-! ### Merge Unit -/

/-- A good MEDIA cell of a merged stream without a context takes its pinned context, or the lowest FREE one, with the stream's depth,
empty slots and a hold of hold_us in FIXED mode or skew plus guard within the bounds in AUTO mode; the first cell, or one of another
epoch than the last delivered (RESYNC, and a marker with gap markers ON), starts the run in slot 0; otherwise the window resumes after
the last delivered sequence and the cell falls at its offset. With no context to be had MERGE_POOL fires with the stream, UNMERGED counts,
and the forward filter delivers the cell (R95, R96, R97, R99, R109, R110, R111, R113). -/
def Obligations.ContextAttaches : Prop :=
  ∀ (s : State) (l : Lane) (cell : List Byte) (n : StreamId) (b : Nat) (bs : List Nat), TakesMedia s l cell n b bs →
    (s.entry n).merge = true → (s.run n).context = none →
    let e := s.entry n
    let x := s.run n
    let seq := seqOf cell
    Calm s [.lane l LaneCounter.rxGood.id, .stream n StreamCounter.rxCells.id, .stream n StreamCounter.delivered.id,
      .stream n StreamCounter.resync.id, .stream n StreamCounter.unmerged.id] →
    (∀ c, (e.pin = some c ∨ (e.pin = none ∧ (s.context c).condition = .free ∧ ∀ d, d < c → (s.context d).condition ≠ .free)) →
      let held (hold : Nat) : Held := { buffer := b, arrival := s.now, lane := l, release := s.now + BitVec.ofNat 32 hold }
      let attached (hold raw : Nat) (skew : Bool) (next : Seq) (epoch : Epoch) (offset : Nat) : Context :=
        { condition := .attached, owner := some n, pinned := decide (e.pin = some c), synced := true, next := next, epoch := epoch,
          depth := e.depth, slots := (List.replicate e.depth none).set offset (some (held hold)), hold := hold, raw := raw,
          skew := skew, lastRelease := none, age := 0, arrived := true, worstGap := 0, checkAgrees := true }
      let linked (k : Context) (u : State) : State := (u.setContext c k).setRun n { x with context := some c }
      (e.holdMode = .fixed → x.lastValid = false →
        exec (.laneCellReceive l cell) s =
          .next (linked (attached e.holdUs 0 false seq (byteAt cell 6) 0) (taken l cell n b bs s))) ∧
      (e.holdMode = .fixed → x.lastValid = true → byteAt cell 6 ≠ x.lastEpoch → s.present e.port = true →
        (s.egress e.port).length < 512 →
        exec (.laneCellReceive l cell) s =
          .next (linked (attached e.holdUs 0 false seq (byteAt cell 6) 0) (bump (.stream n StreamCounter.resync.id)
            ((taken l cell n b bs s).setEgress e.port
              (s.egress e.port ++ (if e.gapMarkers then [.gap n seq 0 true] else [])))))) ∧
      (e.holdMode = .fixed → x.lastValid = true → byteAt cell 6 = x.lastEpoch → (seq - (x.lastSeq + 1)).toNat < e.depth →
        exec (.laneCellReceive l cell) s =
          .next (linked (attached e.holdUs 0 false (x.lastSeq + 1) x.lastEpoch (seq - (x.lastSeq + 1)).toNat)
            (taken l cell n b bs s))) ∧
      (e.holdMode = .auto → x.lastValid = false → ∃ t skew, exec (.laneCellReceive l cell) s = .next t ∧ SkewIs s n skew ∧
        let raw := skew + s.mga.settings.guards.get s.psc.effective
        t.context c = attached (if raw < e.holdMin then e.holdMin else min raw e.holdMax) raw (decide (e.holdMax < raw)) seq
            (byteAt cell 6) 0 ∧
          t.run n = { x with context := some c } ∧
          (e.holdMax < raw → Silent s srcSkew → t.evu = (flaggedAs srcSkew (.skew n (min raw 65535)) s).evu))) ∧
    (e.pin = none → (∀ c, (s.context c).condition ≠ .free) → x.lastValid = false → Silent s srcMergePool →
      s.present e.port = true → (s.egress e.port).length < 512 →
      exec (.laneCellReceive l cell) s =
        .next ((flaggedAs srcMergePool (.mergePool n) (bump (.stream n StreamCounter.delivered.id)
          (bump (.stream n StreamCounter.unmerged.id)
            ((taken l cell n b bs s).setEgress e.port (s.egress e.port ++ [.media b n seq]))))).setRun n
          { x with lastValid := true, lastSeq := seq, lastEpoch := byteAt cell 6 }))

/-- A good MEDIA cell within the window of its stream's synced context: stored in its empty slot with release time now plus the hold,
or, the slot being occupied, counted DUP with its buffer back on the free list and the copy gap noted (R78, R98, R99). -/
def Obligations.WindowStores : Prop :=
  ∀ (s : State) (l : Lane) (cell : List Byte) (n : StreamId) (c : ContextId) (b : Nat) (bs : List Nat),
    GoodCell s l cell 1 →
    let seq : Seq := BitVec.ofNat 16 (nat16At cell 4)
    let demoted := (byteAt cell 1).getLsbD 6
    let cls : Fin 4 := ⟨(byteAt cell 0).toNat % 4, by omega⟩
    let d := (seq - (s.context c).next).toNat
    let good := bump (.stream n StreamCounter.rxCells.id) (bump (.lane l LaneCounter.rxGood.id)
      (s.setRx l { s.rx l with badHeaders := 0 }))
    let stored : Cell :=
      { kind := .media, addr := byteAt cell 2, cls := cls, frameEnd := (byteAt cell 1).getLsbD 7, demoted := demoted,
        seq := seq, payload := (cell.drop 8).take (byteAt cell 3).toNat }
    (byteAt cell 2).toFin = n → s.mga.held = false → (s.entry n).checkAgrees = true → (s.entry n).state = .active →
    (s.entry n).role = .terminus → (s.entry n).merge = true → (s.run n).context = some c →
    (s.context c).synced = true → (s.context c).epoch = byteAt cell 6 → d < (s.context c).depth →
    (s.context c).slots.length = (s.context c).depth →
    Grants s (Config.mediaThreshold (if demoted then 3 else cls)) b bs →
    Calm s [.lane l LaneCounter.rxGood.id, .stream n StreamCounter.rxCells.id, .stream n StreamCounter.dup.id] →
    ((s.context c).slots[d]? = some none →
      exec (.laneCellReceive l cell) s = .next ((granted b bs 1 stored good).setContext c
        { s.context c with
          arrived := true
          slots := (s.context c).slots.set d (some { buffer := b, arrival := s.now, lane := l,
                                                      release := s.now + BitVec.ofNat 32 (s.context c).hold })
          checkAgrees := true })) ∧
    (∀ h, (s.context c).slots[d]? = some (some h) →
      exec (.laneCellReceive l cell) s = .next
        ((returned b (bump (.stream n StreamCounter.dup.id) (granted b bs 1 stored good))).setContext c
          { s.context c with
            arrived := true
            worstGap := max (s.context c).worstGap (min (s.now - h.arrival).toNat 65535) }))

/-- A good MEDIA cell beyond the window of its stream's synced context. Behind it (an offset of 32768 or more): LATE, its buffer free
again. From the depth to 4095, a jump: the held cells of the sequences passed are released in order and the missing ones declared lost,
LOST counting each, the cell lands in the last slot and JUMP counts once; an empty window passed by at most 32 sequences makes one
declaration, with its gap marker when ON. Another epoch, or an offset from 4096 to 32767, is a resync: every held cell is released in
order with nothing declared lost, RESYNC counts, a marker follows when gap markers are ON, and the new run starts in slot 0 (R98, R100,
R101, R102, R103, R104). -/
def Obligations.WindowMoves : Prop :=
  ∀ (s : State) (l : Lane) (cell : List Byte) (n : StreamId) (c : ContextId) (b : Nat) (bs : List Nat),
    TakesMedia s l cell n b bs → (s.entry n).merge = true → (s.run n).context = some c → (s.context c).condition = .attached →
    (s.context c).synced = true → (s.context c).slots.length = (s.context c).depth → (s.context c).depth ≤ 32 →
    1 ≤ (s.context c).depth →
    let x := s.context c
    let q := (s.entry n).port
    let seq := seqOf cell
    let offset := (seq - x.next).toNat
    let new : Held := { buffer := b, arrival := s.now, lane := l, release := s.now + BitVec.ofNat 32 x.hold }
    let same := byteAt cell 6 = x.epoch
    let jumps := same ∧ x.depth ≤ offset ∧ offset ≤ 4095
    let resyncs := ¬ same ∨ (4096 ≤ offset ∧ offset ≤ 32767)
    let passed := offset + 1 - x.depth
    let released := entriesOf n x
    let instant (k : Nat) : Option Time := if released k = [] then x.lastRelease else some s.now
    Far s [.lane l LaneCounter.rxGood.id, .stream n StreamCounter.rxCells.id, .stream n StreamCounter.late.id,
      .stream n StreamCounter.lost.id, .stream n StreamCounter.jump.id, .stream n StreamCounter.resync.id,
      .stream n StreamCounter.delivered.id] →
    (same → 32768 ≤ offset → exec (.laneCellReceive l cell) s =
      .next ((returned b (bump (.stream n StreamCounter.late.id) (taken l cell n b bs s))).setContext c { x with arrived := true })) ∧
    (jumps → s.present q = true → (s.egress q).length ≤ 256 → Silent s srcStreamLoss →
      ∃ t, exec (.laneCellReceive l cell) s = .next t ∧
        t.context c = { x with
          arrived := true, next := seq + 1 - BitVec.ofNat 16 x.depth, lastRelease := instant passed, checkAgrees := true
          slots := (x.slots.drop passed ++ List.replicate (min passed x.depth) none).set (x.depth - 1) (some new) } ∧
        Counted s t (.stream n StreamCounter.jump.id) 1 ∧
        Counted s t (.stream n StreamCounter.delivered.id) (released passed).length ∧
        Counted s t (.stream n StreamCounter.lost.id) (passed - (released passed).length) ∧
        ((s.entry n).gapMarkers = false → t.egress q = s.egress q ++ released passed) ∧
        (x.heldCells = [] → passed ≤ 32 →
          t.run n = { s.run n with lossFirst := x.next, lossCount := passed } ∧
          t.evu = (flaggedAs srcStreamLoss (.loss n x.next passed) s).evu ∧
          t.egress q = s.egress q ++ (if (s.entry n).gapMarkers then [.gap n x.next passed false] else [])) ∧
        t.mga = s.mga ∧ t.stb.entries = s.stb.entries ∧ t.ltx = s.ltx ∧ t.psc = s.psc) ∧
    (resyncs → s.present q = true → (s.egress q).length ≤ 256 →
      ∃ t, exec (.laneCellReceive l cell) s = .next t ∧
        t.context c = { x with
          arrived := true, next := seq, epoch := byteAt cell 6, lastRelease := instant x.depth, checkAgrees := true
          slots := (List.replicate x.depth none).set 0 (some new) } ∧
        Counted s t (.stream n StreamCounter.resync.id) 1 ∧
        Counted s t (.stream n StreamCounter.delivered.id) (released x.depth).length ∧
        t.counter (.stream n StreamCounter.lost.id) = s.counter (.stream n StreamCounter.lost.id) ∧
        t.egress q = s.egress q ++ released x.depth ++ (if (s.entry n).gapMarkers then [.gap n seq 0 true] else []) ∧
        t.evu = s.evu ∧ t.mga = s.mga ∧ t.stb.entries = s.stb.entries ∧ t.ltx = s.ltx ∧ t.psc = s.psc)

/-- RELEASE_EXPIRY of a due cell in slot 0 with nothing behind it: the cell passes to the egress FIFO, DELIVERED counts, N moves by one,
the release instant is now and the last delivered sequence is the cell's; before its deadline nothing happens (R103, R105, R106). With
empty slots ahead of the first present one, the missing sequences are declared lost in one declaration (LOST counts each, the loss detail
and STREAM_LOSS name the first and their number, and a gap entry stands ahead of the cell when gap markers are ON), the cell behind them is
released, and N stands after it (R104, R106). -/
def Obligations.ReleasesAndLosses : Prop :=
  (∀ (s : State) (c : ContextId) (n : StreamId) (h : Held) (j : Nat), (s.context c).condition = .attached →
    (s.context c).owner = some n → (s.context c).slots = some h :: List.replicate j none →
    let p := (s.entry n).port
    let isLater (u t : Time) : Prop := 0 < (u - t).toNat ∧ (u - t).toNat < 2147483648
    let due := match (s.context c).lastRelease with
      | none => h.release
      | some r => if (r - h.release).toNat = 0 ∨ 2147483648 ≤ (r - h.release).toNat then h.release else r
    (isLater due s.now → exec (.releaseExpiry c) s = .next s) ∧
    (¬ isLater due s.now → s.mga.held = false → s.present p = true → (s.egress p).length < 512 →
      Calm s [.stream n StreamCounter.delivered.id] →
      exec (.releaseExpiry c) s = .next
        ((((bump (.stream n StreamCounter.delivered.id) s).setContext c
          { s.context c with
            next := (s.context c).next + 1
            slots := List.replicate j none ++ [none]
            lastRelease := some s.now
            checkAgrees := true }).setEgress p (s.egress p ++ [.media h.buffer n (s.context c).next])).setRun n
          { s.run n with lastValid := true, lastSeq := (s.context c).next, lastEpoch := (s.context c).epoch }))) ∧
  (∀ (s : State) (c : ContextId) (n : StreamId) (h : Held) (k j : Nat), (s.context c).condition = .attached →
    (s.context c).owner = some n → 1 ≤ k → k ≤ 32 →
    (s.context c).slots = List.replicate k none ++ some h :: List.replicate j none → (s.context c).lastRelease = none →
    ((h.release - s.now).toNat = 0 ∨ 2147483648 ≤ (h.release - s.now).toNat) →
    let first := (s.context c).next
    let behind := first + BitVec.ofNat 16 k
    let p := (s.entry n).port
    (∃ t, exec (.releaseExpiry c) s = .next t ∧
      (t.run n).lossFirst = first ∧ (t.run n).lossCount = k ∧
      (t.run n).lastValid = true ∧ (t.run n).lastSeq = behind ∧ (t.run n).lastEpoch = (s.context c).epoch ∧
      (t.context c).next = first + BitVec.ofNat 16 (k + 1) ∧ (t.context c).heldCells = [] ∧
      t.lrx = s.lrx ∧ t.psc = s.psc ∧ t.pins = s.pins ∧ t.lck = s.lck) ∧
    (s.mga.held = false → s.present p = true → (s.egress p).length < 511 → Silent s srcStreamLoss →
      Far s [.stream n StreamCounter.lost.id, .stream n StreamCounter.delivered.id] →
      exec (.releaseExpiry c) s = .next
        ((((flaggedAs srcStreamLoss (.loss n first k) (bump (.stream n StreamCounter.delivered.id)
          (bumps (.stream n StreamCounter.lost.id) k s))).setContext c
            { s.context c with
              next := behind + 1
              slots := List.replicate (k + j + 1) none
              lastRelease := some s.now
              checkAgrees := true }).setEgress p
            (s.egress p ++ (if (s.entry n).gapMarkers then [.gap n first k false] else []) ++ [.media h.buffer n behind])).setRun n
          { s.run n with
            lastValid := true, lastSeq := behind, lastEpoch := (s.context c).epoch, lossFirst := first, lossCount := k })))

/-! ### Posture Controller -/

/-- A counted STRIKE pulse restarts the timer at its full value and puts the station in STRIKE; it counts STRIKES and raises STRIKE, and
POSTURE when the effective posture was another; a pulse within 1,000 microseconds of the
last counted one changes nothing; STRIKE_TIMER_EXPIRY ends the strike and the posture is derived without it (R122, R123, R124,
R129). That the expiry acts at a timer of 1 or below is the model's division of the tick (log 5). -/
def Obligations.StrikesBeginAndEnd : Prop :=
  ∀ s : State, s.restarting = false →
    ((∀ p, s.psc.lastPulse = some p → 1000 < (s.now - p).toNat) →
      ∃ t, exec .strikePulse s = .next t ∧
        t.psc = { s.psc with lastPulse := some s.now, timer := 1000 * s.mga.settings.strikeHold, localStrike := true,
                             effective := .strike } ∧
        t.lrx = s.lrx ∧ t.pins = s.pins ∧ t.lck = s.lck ∧ t.mga.settings = s.mga.settings) ∧
    ((∀ p, s.psc.lastPulse = some p → 1000 < (s.now - p).toNat) → TableAgrees s → Silent s srcStrike → Silent s srcPosture →
      Silent s srcOvercommit → Calm s [.station StationCounter.strikes.id] →
      ∃ t, exec .strikePulse s = .next t ∧ t.cnt = (bump (.station StationCounter.strikes.id) s).cnt ∧
        t.source srcStrike = (flagged srcStrike s).source srcStrike ∧
        t.source srcPosture = if s.psc.effective = .strike then s.source srcPosture else (flagged srcPosture s).source srcPosture) ∧
    (∀ p, s.psc.lastPulse = some p → (s.now - p).toNat ≤ 1000 → exec .strikePulse s = .next s) ∧
    (s.psc.localStrike = true → s.psc.timer ≤ 1 →
      ∃ t, exec .strikeTimerExpiry s = .next t ∧
        t.psc = { s.psc with timer := 0, localStrike := false
                             effective := if s.psc.peerStrike then .strike else (s.psc.base.higher s.psc.peerBase).posture } ∧
        t.lrx = s.lrx ∧ t.pins = s.pins ∧ t.lck = s.lck)

/-! ### Delivery Unit -/

/-- EGRESS_HANDOVER hands the head entry of a present port to the adaptor: a gap entry as a GAP cell, a media or control entry as the
tributary cell of its buffer, which then returns to the free list; an absent port or an empty FIFO hands nothing. An entry whose buffer's
check disagrees is not handed over: OUT_BUF_CHECK counts, its buffer returns, and the next head entry is taken within the same handover,
which ends with nothing handed over when the FIFO is empty (R5, R6, R11, R138, R139, R140). That the tributary cell of a control entry
carries its buffer's frame-end flag, as R6 has it, is the model's reading: R139 names a control cell's fields without it (DEDUCED, log
30). -/
def Obligations.HandoverTakesHead : Prop :=
  ∀ (s : State) (p : PortId), s.restarting = false →
    Calm s [.port p PortCounter.outCells.id, .port p PortCounter.gapMarkers.id, .port p PortCounter.outBufCheck.id] →
    let entryOf (e : EgressEntry) (b : Nat) : Prop := e = .control b ∨ ∃ n q, e = .media b n q
    let handed (b : Nat) (u : State) : State := returned b (bump (.port p PortCounter.outCells.id) (u.setPortOut p
      ([byte ((s.buffer b).cell.kind.code * 16), if (s.buffer b).cell.frameEnd then 0x80 else 0, (s.buffer b).cell.addr,
          byte (s.buffer b).cell.payload.length] ++
        (if (s.buffer b).cell.kind = .media then be16 (s.buffer b).cell.seq.toNat else [0, 0]) ++ [0, 0] ++
        (s.buffer b).cell.payload ++ List.replicate (116 - (s.buffer b).cell.payload.length) 0)))
    let spoiled (b : Nat) (u : State) : State := returned b (bump (.port p PortCounter.outBufCheck.id) u)
    ((s.present p = false ∨ s.egress p = []) → exec (.egressHandover p) s = .next s) ∧
    (∀ n first lost d rest, s.present p = true → s.egress p = .gap n first lost d :: rest →
      exec (.egressHandover p) s = .next (bump (.port p PortCounter.gapMarkers.id) (bump (.port p PortCounter.outCells.id)
        ((s.setEgress p rest).setPortOut p
          ([0x80, if d then 0x40 else 0, byte n.val, 0] ++ be16 first.toNat ++ [byte lost, 0] ++ List.replicate 116 0))))) ∧
    (∀ e b rest, s.present p = true → s.egress p = e :: rest → entryOf e b → (s.buffer b).refs = 1 →
      (s.buffer b).checkAgrees = true → exec (.egressHandover p) s = .next (handed b (s.setEgress p rest))) ∧
    (∀ e b, s.present p = true → s.egress p = [e] → entryOf e b → (s.buffer b).refs = 1 → (s.buffer b).checkAgrees = false →
      exec (.egressHandover p) s = .next (spoiled b (s.setEgress p []))) ∧
    (∀ e e' b b' rest, s.present p = true → s.egress p = e :: e' :: rest → entryOf e b → entryOf e' b' → b ≠ b' →
      (s.buffer b).refs = 1 → (s.buffer b).checkAgrees = false → (s.buffer b').refs = 1 → (s.buffer b').checkAgrees = true →
      exec (.egressHandover p) s = .next (handed b' (spoiled b (s.setEgress p rest))))

/-! ### Export channels -/

/-- EXPORT_ATTEMPT with the route and a buffer open sends one EXPORT cell with the block's counters and the next firing number, and the
channel counts down, moving on under WALK; with the last export of its count it is unbound, its count 1 again, and EXPORT_DONE of the
channel fires; with no firing pending, or with no route or no buffer, nothing changes (R148, R157). -/
def Obligations.ExportServed : Prop :=
  ∀ (s : State) (ch : ChannelId), s.restarting = false →
    let x := s.channel ch
    let served (p : PortId) (b : Nat) (bs : List Nat) (y : Channel) : State :=
      ((granted b bs 1
        { kind := .exportCell, addr := stationsByte controllerAddress (stationAddress s.mga.station), cls := 0,
          frameEnd := false, demoted := false, seq := 0,
          payload := [byte ch.val] ++ be16 (x.number + 1).toNat ++ [byte x.kind.code] ++ be16 x.first ++ [byte x.items] ++
            ((s.blockOf x).map (fun y => be32 y.value.toNat)).flatten ++ be32 (overflowBits (s.blockOf x)) } s).setEgress p
        (s.egress p ++ [.control b])).setChannel ch
          { y with
            firing := false, number := x.number + 1
            first := if x.walk then (x.first + x.items) % x.kind.total else x.first }
    ((x.firing = false ∨ s.routeReady = false ∨ s.bfm.freeCount = 0) → exec (.exportAttempt ch) s = .next s) ∧
    (∀ p b bs, x.firing = true → Reaches s p → Grants s 0 b bs →
      (2 ≤ x.remaining → exec (.exportAttempt ch) s = .next (served p b bs { x with remaining := x.remaining - 1 })) ∧
      (x.remaining = 1 → Silent s (srcExportDone ch) →
        exec (.exportAttempt ch) s =
          .next (flagged (srcExportDone ch) (served p b bs { x with remaining := 1, bound := none }))))

/-! ### Drains -/

/-- DRAIN_COMPLETION with nothing of the stream queued: SUSPENDED, the response with the purged count in a buffer of its own, no drain
pending, committed load derived again. The response goes the way of its source: the controller's port, the lanes for the peer or for a
controller not reached here, or, for another address and when refused, UNDELIVERABLE, as it is when no buffer is to be had (R160 to
R162). DRAIN_TIMEOUT at the deadline leaves no entry of the stream in any class queue, the stream
SUSPENDED and no drain pending; one remaining copy counts DRAIN_PURGE, frees its buffer and shows in the purged count. With no drain,
with entries still queued or before the deadline, nothing happens (R27, R28, R68). That the deadline acts with 1 tick or fewer left is the
model's division of the tick (log 5). -/
def Obligations.DrainsEnd : Prop :=
  (∀ s : State,
    (s.mga.drain = none → exec .drainCompletion s = .next s) ∧
    (∀ d, s.mga.drain = some d → (s.run d.stream).queued ≠ 0 → exec .drainCompletion s = .next s) ∧
    (∀ d p b bs, s.mga.drain = some d → (s.run d.stream).queued = 0 → TableAgrees s → Silent s srcOvercommit →
      d.source = controllerAddress → Reaches s p → Grants s 0 b bs →
      let u := (((granted b bs 1
        { kind := .mgmtRsp, addr := stationsByte controllerAddress (stationAddress s.mga.station), cls := 0, frameEnd := false,
          demoted := false, seq := 0, payload := be16 d.tag.toNat ++ [d.command, 0, 3, 3] ++ be16 d.purged } s).setEgress p
        (s.egress p ++ [.control b])).setMga { s.mga with drain := none }).setEntry d.stream
          { s.entry d.stream with state := .suspended }
      ∃ t, exec .drainCompletion s = .next t ∧ OnlyTable u t ∧ t.stb = u.stb ∧ LoadDerived t) ∧
    (∀ d, s.mga.drain = some d → (s.run d.stream).queued = 0 → TableAgrees s → Silent s srcOvercommit →
      Silent s srcUndeliverable → Calm s [.station StationCounter.undeliverable.id] →
      (∀ p, Calm s [.port p PortCounter.outDrop.id]) →
      let suspended := (s.setMga { s.mga with drain := none }).setEntry d.stream
        { s.entry d.stream with state := .suspended }
      let ends (v : State) : Prop := ∃ t, exec .drainCompletion s = .next t ∧ OnlyTable v t ∧ t.stb = v.stb ∧ LoadDerived t ∧
        t.source srcUndeliverable = v.source srcUndeliverable
      (s.bfm.freeCount = 0 → ends (undelivered suspended)) ∧
      (∀ b bs, Grants s 0 b bs → ∃ v, ends v ∧ Routed s d.source b
        (granted b bs 1
          { kind := .mgmtRsp, addr := stationsByte d.source (stationAddress s.mga.station), cls := 0, frameEnd := false,
            demoted := false, seq := 0, payload := be16 d.tag.toNat ++ [d.command, 0, 3, 3] ++ be16 d.purged } suspended) v))) ∧
  (∀ s : State, (s.mga.drain = none → exec .drainTimeout s = .next s) ∧
    ∀ d, s.mga.drain = some d →
      (1 < d.ticks → exec .drainTimeout s = .next s) ∧
      (d.ticks ≤ 1 → ∃ t, exec .drainTimeout s = .next t ∧ t.mga.drain = none ∧ (t.entry d.stream).state = .suspended ∧
        (∀ l k e, e ∈ t.classQueue l k → e.stream ≠ d.stream) ∧ t.psc = s.psc ∧ t.lrx = s.lrx ∧ t.pins = s.pins ∧
        t.lck = s.lck ∧ t.tin = s.tin ∧ t.mga.settings = s.mga.settings) ∧
      (∀ l k b0 p b bs, d.ticks ≤ 1 → s.classQueue l k = [{ buffer := b0, stream := d.stream }] →
        (∀ m j, (m, j) ≠ (l, k) → ∀ e ∈ s.classQueue m j, e.stream ≠ d.stream) → (s.buffer b0).refs = 1 → b0 ≠ b →
        PoolCanonical s → TableAgrees s → Silent s srcOvercommit → Calm s [.stream d.stream StreamCounter.drainPurge.id] →
        d.source = controllerAddress → Reaches s p → Grants s 0 b bs → s.bfm.freeCount ≠ 511 →
        ∃ t, exec .drainTimeout s = .next t ∧ t.classQueue l k = [] ∧ (t.buffer b0).refs = 0 ∧ t.bfm.free = bs ++ [b0] ∧
          t.counter (.stream d.stream StreamCounter.drainPurge.id) =
            (s.counter (.stream d.stream StreamCounter.drainPurge.id)).increment ∧
          (t.run d.stream).queued = (s.run d.stream).queued - 1 ∧ t.egress p = s.egress p ++ [.control b] ∧
          (t.buffer b).cell.payload = be16 d.tag.toNat ++ [d.command, 0, 3, 3] ++ be16 (d.purged + 1)))

/-! ### The service of requests -/

/-- A service step whose request does not head the queue changes nothing (the model's choice, log 3), and one that finds the free
count at 0 only waits for the next tick or arrival. The first two checks of R8: a code outside 1 to 21 is answered UNKNOWN_COMMAND
whatever its length, and any command with a bad argument length BAD_ARGUMENT, each with MGMT_ERROR and nothing else. Responses, shown for ECHO and for these refusals, go the way of the request's
source: the controller's port, OUT_DROP and UNDELIVERABLE with its FIFO full; the lanes for the peer, and for the controller with its
port none or absent; UNDELIVERABLE for this station's own address and 2 to 6 (R61, R136, R159, R160). On these refusals a STREAM STATE
still shows the stream's state (R8, R162). The order of those checks on a short request and UNKNOWN_COMMAND whatever the length are the
model's reading (log 9), so are the stream, the one in payload byte 4, whose state a refused STREAM STATE
shows (log 10) and the wait marked by serviceDue (log 2). -/
def Obligations.ServiceWaitsOrRefuses : Prop :=
  (∀ (s : State) (code : Nat), code ≤ 22 →
    let step := serviceStep code
    (s.mga.restart ≠ .idle → exec step s = .next s) ∧
    (s.mga.requests = [] → exec step s = .next s) ∧
    (∀ r rest, s.mga.requests = r :: rest → serviceStep (requestCommand r.payload).toNat ≠ step → exec step s = .next s) ∧
    (∀ r rest, s.mga.restart = .idle → s.mga.requests = r :: rest → serviceStep (requestCommand r.payload).toNat = step →
      s.bfm.freeCount = 0 → exec step s = .next (s.setMga { s.mga with serviceDue := false }))) ∧
  (∀ (s : State) (step : Instr) (r : Request) (rest : List Request) (p : PortId) (b : Nat) (bs : List Nat),
    Heads s step r rest p b bs → Silent s srcMgmtError →
    let code := (byteAt r.payload 2).toNat
    let short := 112 < (byteAt r.payload 3).toNat ∨ r.payload.length < (byteAt r.payload 3).toNat + 4
    ((code = 0 ∨ 21 < code) → step = .unknownCommand ∧
      exec .unknownCommand s = .next (answered r rest p b bs .unknownCommand [] (flagged srcMgmtError s))) ∧
    (1 ≤ code → code ≤ 21 → code ≠ 5 → short →
      exec step s = .next (answered r rest p b bs .badArgument [] (flagged srcMgmtError s))) ∧
    (code = 5 → short →
      exec step s = .next (answered r rest p b bs .badArgument
        [byte (s.entry (byteAt r.payload 4).toFin).state.code, 0, 0] (flagged srcMgmtError s)))) ∧
  (∀ (s : State) (r : Request) (rest : List Request) (b : Nat) (bs : List Nat), s.mga.restart = .idle →
    s.mga.requests = r :: rest → Grants s 0 b bs → Silent s srcUndeliverable → Silent s srcMgmtError →
    Calm s [.station StationCounter.undeliverable.id] → (∀ p, Calm s [.port p PortCounter.outDrop.id]) →
    let code := (byteAt r.payload 2).toNat
    let length := (byteAt r.payload 3).toNat
    let short := 112 < length ∨ r.payload.length < length + 4
    let replies (status : Status) (result : List Byte) (after : State → State) : Prop := ∃ v,
      Routed s r.source b (granted b bs 1
        { kind := .mgmtRsp, addr := stationsByte r.source (stationAddress s.mga.station), cls := 0, frameEnd := false
          demoted := false, seq := 0
          payload := [byteAt r.payload 0, byteAt r.payload 1, byteAt r.payload 2, byte status.code, byte result.length] ++ result }
        s) v ∧
      exec (serviceStep code) s = .next (after (v.setMga { s.mga with requests := rest, serviceDue := true }))
    (code = 1 → ¬ short → length ≤ 111 → replies .ok ((r.payload.drop 4).take length) id) ∧
    ((code = 0 ∨ 21 < code) → replies .unknownCommand [] (flagged srcMgmtError)) ∧
    (1 ≤ code → code ≤ 21 → code ≠ 5 → short → replies .badArgument [] (flagged srcMgmtError)) ∧
    (code = 5 → short →
      replies .badArgument [byte (s.entry (byteAt r.payload 4).toFin).state.code, 0, 0] (flagged srcMgmtError)))

/-- ECHO answers OK with its 0 to 111 argument bytes unchanged, in FAULT-HOLD too, and changes nothing else; 112 bytes are answered
BAD_ARGUMENT (R163). -/
def Obligations.EchoAnswers : Prop :=
  ∀ (s : State) (r : Request) (rest : List Request) (p : PortId) (b : Nat) (bs : List Nat), Serves s .echo r rest p b bs →
    let length := (byteAt r.payload 3).toNat
    let args := (r.payload.drop 4).take length
    (length ≤ 111 → args.length = length ∧ exec .echo s = .next (answered r rest p b bs .ok args s)) ∧
    (length = 112 → Silent s srcMgmtError →
      exec .echo s = .next (answered r rest p b bs .badArgument [] (flagged srcMgmtError s)))

/-- Each request whose arguments fail the checks of its own rule is answered BAD_ARGUMENT, held or not, and changes nothing but
MGMT_ERROR; while the station is held, each of the requests that R167 lists whose arguments are good is answered HELD in the same way (a
COUNTER READ is one of them when its clear flag is 1), STREAM STATE with the stream's state and a purged count of 0 as its result (R8,
R23, R31, R34, R35, R90, R116, R121, R125, R146, R154, R155, R156, R163 to R165, R167; that the state byte on BAD_ARGUMENT is of the
stream in payload byte 4, whatever the argument length, is the model's, log 10). -/
def Obligations.HeldStationRefuses : Prop :=
  ∀ (s : State) (step : Instr) (r : Request) (rest : List Request) (p : PortId) (b : Nat) (bs : List Nat),
    Serves s step r rest p b bs → Silent s srcMgmtError →
    let result : List Byte := if step = .streamState then [byte (s.entry (byteAt r.payload 4).toFin).state.code, 0, 0] else []
    (¬ ArgumentsGood step r.payload →
      exec step s = .next (answered r rest p b bs .badArgument result (flagged srcMgmtError s))) ∧
    (ArgumentsGood step r.payload → s.mga.held = true →
      (step ∈ [.streamWrite, .streamFill, .streamState, .counterClear, .postureSet, .strikeTest, .eventClear, .eventLevels,
          .floorSet, .exportSet, .exportStart, .stationWrite] ∨ (step = .counterRead ∧ byteAt r.payload 8 = 1)) →
      exec step s = .next (answered r rest p b bs .held result (flagged srcMgmtError s)))

/-! ### Requests of the Stream Table -/

/-- STREAM READ of an agreeing entry answers OK with the 54 bytes of R35 and changes nothing else. On disagreement a held station
counts a further fault and shows the content with the check flag 0, and a station not held enters FAULT-HOLD (R35, R22, R166). -/
def Obligations.StreamReadAnswers : Prop :=
  ∀ (s : State) (r : Request) (rest : List Request) (p : PortId) (b : Nat) (bs : List Nat) (n : StreamId),
    Serves s .streamRead r rest p b bs → byteAt r.payload 3 = 1 → (byteAt r.payload 4).toFin = n →
    let e := s.entry n
    let x := s.run n
    let result (agrees : Byte) : List Byte :=
      let fields : List Nat :=
        [e.role.code, e.port.val, e.cls.val, e.plan.clear.code, e.plan.watch.code, e.plan.warning.code, e.plan.strike.code,
          e.rate, e.burst, e.excess.code, if e.merge then 1 else 0, e.depth, e.holdMode.code, e.holdUs, e.holdMin, e.holdMax,
          e.pin.elim 255 (fun c => c.val), if e.gapMarkers then 1 else 0]
      (fields.map be16).flatten ++
        [byte e.state.code, if e.loaded then 1 else 0, agrees] ++ be16 x.sendSeq.toNat ++ be16 x.level ++ be16 x.queued ++
        [if x.lastValid then 1 else 0] ++ be16 x.lastSeq.toNat ++
        [x.lastEpoch, x.context.elim 255 (fun c => byte c.val)] ++ be16 x.lossFirst.toNat ++
        [byte x.lossCount, s.mga.drain.elim 0 (fun d => if d.stream = n then 1 else 0)]
    (e.checkAgrees = true → exec .streamRead s = .next (answered r rest p b bs .ok (result 1) s)) ∧
    (e.checkAgrees = false → s.mga.held = true → (s.source srcFault).flag = true →
      exec .streamRead s = .next (answered r rest p b bs .ok (result 0)
        ((s.setMga { s.mga with furtherFaults := min (s.mga.furtherFaults + 1) 255 }).repeatFlag srcFault))) ∧
    (e.checkAgrees = false → s.mga.held = false → ∃ t, exec .streamRead s = .next t ∧ t.mga.held = true ∧
      t.mga.faultCause = some .tableCheck ∧ t.mga.faultIndex = n.val ∧ t.mga.drain = none ∧ MediaGone t ∧
      t.mga.requests = rest ∧ t.psc = s.psc ∧ t.lrx = s.lrx ∧ t.mga.settings = s.mga.settings)

/-- STREAM WRITE of good items: every named field is written after its clamp, the check is recomputed, the bucket is brought under 16
bursts, and the result says whether a value was clamped. A rate or plan written to an ACTIVE stream derives the committed load again. With
an attached context the hold fields act on it at once by R112. A fixed field of an ACTIVE stream is REFUSED, a DRAINING stream is
NOT_READY, and a disagreeing entry brings FAULT-HOLD and HELD; none of these writes the entry (R21, R31, R32, R70, R109 to R112, R166; a pin
is the subject of PinReserves). One clause is the model's reading: that a write naming the hold mode the context already holds sets it
too, and so acts by R112 as a change of mode does (DEDUCED, log 16). -/
def Obligations.StreamWriteSets : Prop :=
  ∀ (s : State) (r : Request) (rest : List Request) (p : PortId) (b : Nat) (bs : List Nat) (n : StreamId),
    Serves s .streamWrite r rest p b bs → s.mga.held = false → (byteAt r.payload 4).toFin = n →
    let length := (byteAt r.payload 3).toNat
    let items := threeByteItems (((r.payload.drop 4).take length).drop 1)
    let value (code : Nat) : Option Nat := items.lookup code
    let o := s.entry n
    let written (e : StreamEntry) : State :=
      (s.setEntry n e).setRun n { s.run n with level := min (s.run n).level (16 * e.burst) }
    let byteOf (clamped : Bool) : List Byte := [if clamped then 1 else 0]
    let taken := o.state ≠ .draining ∧ o.checkAgrees = true ∧ value 17 = none ∧
      (o.state = .active → ∀ code ∈ [1, 2, 11, 12], value code = none)
    let loads := ∃ code ∈ [4, 5, 6, 7, 8], value code ≠ none
    1 ≤ length → FieldList (length - 1) items →
    (taken → (s.run n).context = none → ¬ (o.state = .active ∧ loads) →
      ∃ e clamped, WrittenBy items o e clamped ∧ e.pin = o.pin ∧
        exec .streamWrite s = .next (answered r rest p b bs .ok (byteOf clamped) (written e))) ∧
    (taken → (s.run n).context = none → o.state = .active → loads → TableAgrees s → Silent s srcOvercommit →
      ∃ e clamped u, WrittenBy items o e clamped ∧ e.pin = o.pin ∧
        exec .streamWrite s = .next (answered r rest p b bs .ok (byteOf clamped) u) ∧ OnlyTable s u ∧
        u.stb = (written e).stb ∧ LoadDerived u) ∧
    (∀ c, taken → (s.run n).context = some c → ¬ (o.state = .active ∧ loads) → (s.context c).checkAgrees = true →
      let x := s.context c
      ∃ e clamped, WrittenBy items o e clamped ∧ e.pin = o.pin ∧
        let put (y : Context) : Prop := exec .streamWrite s =
          .next (answered r rest p b bs .ok (byteOf clamped) ((written e).setContext c y))
        (e.holdMode = .fixed → put { x with
          hold := if value 13 = none ∧ value 14 = none then x.hold else e.holdUs
          skew := if value 13 = none then x.skew else false }) ∧
        (e.holdMode = .auto → value 13 = none → put { x with
          hold := if value 15 = none ∧ value 16 = none then x.hold
            else if x.hold < e.holdMin then e.holdMin else min x.hold e.holdMax }) ∧
        (e.holdMode = .auto → value 13 ≠ none → ∃ t skew, exec .streamWrite s = .next t ∧ SkewIs (written e) n skew ∧
          let raw := skew + s.mga.settings.guards.get s.psc.effective
          t.mga.requests = rest ∧
          ((e.holdMax < raw → x.skew = false → Silent s srcSkew) →
            t.context c = { x with
              hold := if raw < e.holdMin then e.holdMin else min raw e.holdMax, raw := raw, skew := decide (e.holdMax < raw) } ∧
            t.entry n = e) ∧
          (e.holdMax < raw → x.skew = false → Silent s srcSkew →
            t.evu = (flaggedAs srcSkew (.skew n (min raw 65535)) s).evu))) ∧
    (o.state = .active → o.checkAgrees = true → (∃ code ∈ [1, 2, 11, 12, 17], value code ≠ none) → Silent s srcMgmtError →
      exec .streamWrite s = .next (answered r rest p b bs .refused [] (flagged srcMgmtError s))) ∧
    (o.state = .draining → exec .streamWrite s = .next (answered r rest p b bs .notReady [] s)) ∧
    (o.state ≠ .draining → o.checkAgrees = false →
      (∃ t, exec .streamWrite s = .next t ∧ t.mga.held = true ∧
        t.mga.faultCause = some .tableCheck ∧ t.mga.faultIndex = n.val ∧ MediaGone t ∧ t.mga.requests = rest ∧
        ((∀ d, s.mga.drain = some d → d.stream ≠ n) → t.entry n = o)) ∧
      (∀ b2 cs, bs = b2 :: cs → b ≠ b2 → s.bfm.freeCount ≠ 513 → 1 < s.bfm.freeCount → (s.egress p).length < 511 → MediaGone s →
        s.mga.drain = none → (s.source srcFault).flag = false → Silent s srcMgmtError →
        Calm s [.station StationCounter.notices.id] →
        ∃ t, exec .streamWrite s = .next t ∧ t.egress p = s.egress p ++ [.control b2, .control b] ∧
          (t.buffer b).cell.payload = be16 (nat16At r.payload 0) ++ [byteAt r.payload 2, 7, 0] ∧
          t.stb = s.stb ∧ (t.source srcFault).flag = true ∧ t.mga.requests = rest))

/-- A pin written alone: a FREE context that no entry pins becomes RESERVED to the stream, empty and unsynced; a context that another
stream pins is a conflict, answered REFUSED (R33, R94). -/
def Obligations.PinReserves : Prop :=
  ∀ (s : State) (r : Request) (rest : List Request) (p : PortId) (b : Nat) (bs : List Nat) (n : StreamId) (c : ContextId),
    Serves s .streamWrite r rest p b bs → s.mga.held = false → (byteAt r.payload 4).toFin = n → byteAt r.payload 3 = 4 →
    byteAt r.payload 5 = 17 → byteAt r.payload 6 = 0 → byteAt r.payload 7 = byte c.val →
    ((s.entry n).state = .idle ∨ (s.entry n).state = .suspended) → (s.entry n).checkAgrees = true → (s.entry n).pin = none →
    ((∀ m, (s.entry m).pin ≠ some c) → (s.context c).condition = .free → (s.run n).context = none →
      (s.entry n).holdMin ≤ (s.entry n).holdMax →
      exec .streamWrite s = .next (answered r rest p b bs .ok [0]
        (((s.setEntry n { s.entry n with pin := some c }).setContext c
          { condition := .reserved, owner := some n, pinned := true, synced := false, next := 0, epoch := 0, depth := 0, slots := [],
            hold := 0, raw := 0, skew := false, lastRelease := none, age := 0, arrived := false, worstGap := 0,
            checkAgrees := true }).setRun n
          { s.run n with level := min (s.run n).level (16 * (s.entry n).burst) }))) ∧
    (∀ m, m ≠ n → (s.entry m).pin = some c → Silent s srcMgmtError →
      exec .streamWrite s = .next (answered r rest p b bs .refused [] (flagged srcMgmtError s)))

/-- STREAM FILL of streams that take its items writes each of them as a STREAM WRITE does and answers OK with their number; a first
stream that is DRAINING stops it at once: PARTIAL, none written, NOT_READY as the fourth byte (R34). That the clamp byte is computed from
the template alone is the model's choice (log 11). -/
def Obligations.StreamFillWrites : Prop :=
  ∀ (s : State) (r : Request) (rest : List Request) (p : PortId) (b : Nat) (bs : List Nat) (first last : StreamId),
    Serves s .streamFill r rest p b bs → s.mga.held = false → (byteAt r.payload 4).toFin = first →
    (byteAt r.payload 5).toFin = last → first ≤ last →
    let length := (byteAt r.payload 3).toNat
    let items := threeByteItems (((r.payload.drop 4).take length).drop 2)
    let value (code : Nat) : Option Nat := items.lookup code
    2 ≤ length → fieldListOk (length - 2) items = true → value 17 = none →
    ∃ clamped : Bool,
      (clamped = true ↔ (∃ v, value 9 = some v ∧ (v = 0 ∨ 1024 < v)) ∨ (∃ v, value 12 = some v ∧ (v < 4 ∨ 32 < v)) ∨
        (∃ lo hi, value 15 = some lo ∧ value 16 = some hi ∧ hi < lo)) ∧
      ((∀ m, first ≤ m → m ≤ last → (s.entry m).state ≠ .draining ∧ (s.entry m).checkAgrees = true ∧
          (s.run m).context = none ∧
          ((s.entry m).state = .active → ∀ code ∈ [1, 2, 4, 5, 6, 7, 8, 11, 12], value code = none)) →
        ∃ u : State, u = { s with stb := u.stb } ∧
          exec .streamFill s = .next (answered r rest p b bs .ok
            (be16 (last.val + 1 - first.val) ++ [if clamped then 1 else 0, 0]) u) ∧
          (∀ m, first ≤ m → m ≤ last → u.entry m = (s.entry m).written items ∧
            u.run m = { s.run m with level := min (s.run m).level (16 * (u.entry m).burst) }) ∧
          (∀ m, (m < first ∨ last < m) → u.entry m = s.entry m ∧ u.run m = s.run m)) ∧
      ((s.entry first).state = .draining → Silent s srcMgmtError →
        exec .streamFill s = .next (answered r rest p b bs .part [0, 0, if clamped then 1 else 0, 2] (flagged srcMgmtError s)))

/-- STREAM STATE: the transitions that are made (IDLE and loaded to ACTIVE, SUSPENDED to ACTIVE and to IDLE, an ACTIVE terminus with no
attached context to SUSPENDED) with their runtime record and the committed load derived again; a request for the state held changes
nothing; the refused transitions are REFUSED; a DRAINING stream is NOT_READY; a bad target is BAD_ARGUMENT (R23, R24, R25, R30). That
BAD_ARGUMENT shows the state of the stream in payload byte 4, whatever the argument length, is the model's (log 10), and so is the
last sequence that an activation keeps (log 21). -/
def Obligations.StreamStateMoves : Prop :=
  ∀ (s : State) (r : Request) (rest : List Request) (p : PortId) (b : Nat) (bs : List Nat) (n : StreamId),
    Serves s .streamState r rest p b bs → s.mga.held = false → (byteAt r.payload 4).toFin = n →
    let target := (byteAt r.payload 5).toNat
    let e := s.entry n
    let x := s.run n
    let same : List Byte := [byte e.state.code, 0, 0]
    let moved (st : StreamState) (y : RunRecord) : Prop := TableAgrees s → Silent s srcOvercommit →
      ∃ u, exec .streamState s = .next (answered r rest p b bs .ok [byte st.code, 0, 0] u) ∧ OnlyTable s u ∧
        u.stb = ((s.setEntry n { e with state := st }).setRun n y).stb ∧ LoadDerived u
    ((byteAt r.payload 3 ≠ 2 ∨ 3 < target ∨ target = 2) → Silent s srcMgmtError →
      exec .streamState s = .next (answered r rest p b bs .badArgument same (flagged srcMgmtError s))) ∧
    (byteAt r.payload 3 = 2 → target ≤ 3 → target ≠ 2 →
      (e.state = .draining → exec .streamState s = .next (answered r rest p b bs .notReady [2, 0, 0] s)) ∧
      (e.checkAgrees = true → e.state.code = target → exec .streamState s = .next (answered r rest p b bs .ok same s)) ∧
      (e.checkAgrees = true → Silent s srcMgmtError →
        ((e.state = .idle ∧ target = 3) ∨ (e.state = .idle ∧ target = 1 ∧ e.loaded = false) ∨
          (e.state = .active ∧ target = 0)) →
        exec .streamState s = .next (answered r rest p b bs .refused same (flagged srcMgmtError s))) ∧
      (e.state = .idle → target = 1 → e.loaded = true →
        moved .active { x with sendSeq := 0, level := 16 * e.burst, queued := 0, lastValid := false, lastEpoch := 0,
                               context := none }) ∧
      (e.state = .suspended → target = 1 → moved .active { x with level := min x.level (16 * e.burst) }) ∧
      (e.state = .suspended → target = 0 →
        moved .idle { sendSeq := 0, level := 0, queued := 0, lastValid := false, lastSeq := 0, lastEpoch := 0, context := none,
                      lossFirst := 0, lossCount := 0 }) ∧
      (e.state = .active → e.role = .terminus → x.context = none → target = 3 → moved .suspended x))

/-- A terminus suspend flushes the attached context: every held cell, in sequence order, joins the stream's egress FIFO, the context
goes back to the free pool or stays reserved, nothing is declared lost, and the stream is SUSPENDED (R25, R115). An origin suspend: with
cells queued the request becomes the pending drain with the drain timeout as its deadline, and no response is built; while another drain is
pending it is BUSY, which counts MGMT_BUSY; with nothing queued the stream is SUSPENDED at once (R26, R23, R162). That the service's buffer
then goes back to the free list, and that it takes the response of a drain that completes at once, is the model's choice (log 12). -/
def Obligations.SuspendFlushesOrDrains : Prop :=
  (∀ (s : State) (r : Request) (rest : List Request) (p : PortId) (b : Nat) (bs : List Nat) (n : StreamId) (c : ContextId),
    Serves s .streamState r rest p b bs → s.mga.held = false → (byteAt r.payload 4).toFin = n → byteAt r.payload 3 = 2 →
    byteAt r.payload 5 = 3 → TableAgrees s → (s.entry n).state = .active → (s.entry n).role = .terminus →
    (s.run n).context = some c → (s.context c).condition = .attached →
    let q := (s.entry n).port
    q ≠ p → s.present q = true → (s.egress q).length + (s.context c).heldCells.length ≤ 512 →
    ∃ t, exec .streamState s = .next t ∧ (t.entry n).state = .suspended ∧ (t.run n).context = none ∧
      (Far s [.stream n StreamCounter.delivered.id] → Silent s srcOvercommit →
        t.egress q = s.egress q ++ (s.context c).slots.zipIdx.filterMap (fun x =>
          x.1.map (fun h => EgressEntry.media h.buffer n ((s.context c).next + BitVec.ofNat 16 x.2)))) ∧
      t.context c =
        { condition := if (s.context c).pinned then .reserved else .free
          owner := if (s.context c).pinned then some n else none
          pinned := (s.context c).pinned, synced := false, next := 0, epoch := 0, depth := 0, slots := [], hold := 0, raw := 0,
          skew := false, lastRelease := none, age := 0, arrived := false, worstGap := 0, checkAgrees := true } ∧
      (t.run n).lossFirst = (s.run n).lossFirst ∧ (t.run n).lossCount = (s.run n).lossCount ∧ t.mga.requests = rest ∧
      t.lrx = s.lrx ∧ t.psc = s.psc ∧ t.pins = s.pins) ∧
  (∀ (s : State) (r : Request) (rest : List Request) (p : PortId) (b : Nat) (bs : List Nat) (n : StreamId),
    Serves s .streamState r rest p b bs → s.mga.held = false → (byteAt r.payload 4).toFin = n → byteAt r.payload 3 = 2 →
    byteAt r.payload 5 = 3 → TableAgrees s → Silent s srcOvercommit → (s.entry n).state = .active →
    (s.entry n).role = .origin →
    (s.mga.drain = none → (s.run n).queued ≠ 0 →
      let u := ((returned b (granted b bs 1 Cell.empty s)).setEntry n { s.entry n with state := .draining }).setMga
        { s.mga with
          drain := some { stream := n, tag := BitVec.ofNat 16 (nat16At r.payload 0), command := byteAt r.payload 2,
                          source := r.source, ticks := s.mga.settings.drainTimeout, purged := 0 }
          requests := rest, serviceDue := true }
      ∃ t, exec .streamState s = .next t ∧ OnlyTable u t ∧ t.stb = u.stb ∧ LoadDerived t) ∧
    (∀ d, s.mga.drain = some d → Calm s [.station StationCounter.mgmtBusy.id] →
      exec .streamState s = .next (answered r rest p b bs .busy [1, 0, 0] (bump (.station StationCounter.mgmtBusy.id) s))) ∧
    (s.mga.drain = none → (s.run n).queued = 0 →
      ∃ u, exec .streamState s = .next (answered r rest p b bs .ok [3, 0, 0] u) ∧ OnlyTable s u ∧
        u.stb = (s.setEntry n { s.entry n with state := .suspended }).stb ∧ LoadDerived u))

/-! ### Requests of the Merge Unit, the Lane Receiver and the Counter Block -/

/-- CONTEXT READ answers OK with the 26 bytes of R116 and resets the worst copy gap. On disagreement a held station counts a further
fault and keeps the gap, and a station not held enters FAULT-HOLD, whose emptying seals an attached context again (R116, R117, R166; a
deadline that has come reads as 0, log 22). -/
def Obligations.ContextReadAnswers : Prop :=
  ∀ (s : State) (r : Request) (rest : List Request) (p : PortId) (b : Nat) (bs : List Nat) (c : ContextId),
    Serves s .contextRead r rest p b bs → byteAt r.payload 3 = 1 → byteAt r.payload 4 = byte c.val →
    let x := s.context c
    let flag (f : Bool) : Byte := if f then 1 else 0
    let ahead (t : Time) : Nat := (t - s.now).toNat
    let result (agrees : Byte) : List Byte :=
      [byte x.condition.code, x.owner.elim 0 (fun n => byte n.val), flag x.pinned, agrees, flag x.synced] ++ be16 x.next.toNat ++
        [x.epoch, byte x.depth, byte x.heldCells.length] ++
        ((x.slots.findIdx? Option.isSome).elim [255, 3] (fun k =>
          [byte k, (x.slots.getD k none).elim 3 (fun h => byte (laneCode h.lane))])) ++
        be16 (x.deadline.elim 0 (fun t => if 0 < ahead t ∧ ahead t < 2147483648 then min (ahead t) 65535 else 0)) ++
        be16 x.hold ++ be16 (min x.raw 65535) ++
        [flag x.skew, byte x.age, flag x.arrived, flag x.lastRelease.isSome] ++
        be16 (x.lastRelease.elim 0 (fun t => min (s.now - t).toNat 65535)) ++ be16 x.worstGap
    (x.checkAgrees = true → exec .contextRead s =
      .next (answered r rest p b bs .ok (result 1) (s.setContext c { x with worstGap := 0 }))) ∧
    (x.checkAgrees = false → s.mga.held = true → (s.source srcFault).flag = true → exec .contextRead s =
      .next (answered r rest p b bs .ok (result 0)
        ((s.setMga { s.mga with furtherFaults := min (s.mga.furtherFaults + 1) 255 }).repeatFlag srcFault))) ∧
    (x.checkAgrees = false → s.mga.held = false → ∃ t, exec .contextRead s = .next t ∧ t.mga.held = true ∧
      t.mga.faultCause = some .contextCheck ∧ t.mga.faultIndex = c.val ∧ MediaGone t ∧ t.mga.requests = rest ∧
      (t.context c).worstGap = x.worstGap ∧ (x.condition = .attached → (t.context c).checkAgrees = true))

/-- LANE READ answers OK with the 54 bytes of R90 and clears the lane's event, its level kept; nothing else of the part changes. While
no probe has been seen or sent, those bytes are the model's free values, and a reading at 65,535 ms stays there (R90, R71; log 7, 15
and 22). -/
def Obligations.LaneReadAnswers : Prop :=
  ∀ (s : State) (r : Request) (rest : List Request) (p : PortId) (b : Nat) (bs : List Nat) (l : Lane),
    Serves s .laneRead r rest p b bs → byteAt r.payload 3 = 1 → byteAt r.payload 4 = byte (laneCode l) →
    let x := s.rx l
    let y := s.tx l
    let z := s.lrx.peer
    let own := srcLaneState l
    let flag (f : Bool) : Byte := if f then 1 else 0
    let estimate (e : Option Nat) : List Byte := e.elim [0, 0, 0] (fun n => [1] ++ be16 n)
    let result : List Byte :=
      [byte x.state.code, flag (s.pins.loss.get l), byte x.goodHeaders, byte x.badHeaders] ++ be16 x.crcFailures ++
        [flag x.headerFailure, flag x.judging, byte x.erroredRun, byte x.cleanRun] ++ estimate x.delay ++ estimate x.lastSample ++
        x.echo.elim [0, 0] (fun e => [1, e.number]) ++
        x.lastSeen.elim ([0, Config.openByte s.openCount] ++ be16 (Config.openWord s.openCount).toNat) (fun e =>
          [1, e.number] ++ be16 (if e.old then 65535 else min ((s.now - e.received).toNat / 1000) 65535)) ++
        [flag z.stale] ++ be16 z.age ++
        [byte z.rx.a.code, byte z.rx.b.code, byte z.rx.c.code, byte z.base.code, flag z.strike, z.epoch,
          z.arrival.elim 3 (fun m => byte (laneCode m))] ++
        [byte y.view.code, flag (s.txfault l), byte y.control.length] ++ be16 (s.classQueue l 0).length ++
        be16 (s.classQueue l 1).length ++ be16 (s.classQueue l 2).length ++ be16 (s.classQueue l 3).length ++
        [flag y.probeDue] ++ y.lastProbe.elim [0, Config.openByte (s.openCount + 1)] (fun k => [1, k]) ++ be32 y.load ++
        be16 y.unpoliced ++ [flag y.overcommitted, flag (s.source own).flag]
    exec .laneRead s = .next (answered r rest p b bs .ok result
      (({ s with openCount := s.openCount + 2 }).setSource own
        { level := (s.source own).level, flag := false, repeats := 0, detail := .none }))

/-- COUNTER READ by its three checks in their order: BAD_ARGUMENT, HELD when a clear is asked of a held station, and otherwise the values
and overflow flags of the range together, each set to 0 within the same event when a clear is asked, every other counter as it stands
(R146). COUNTER CLEAR by its three checks in their order: BAD_ARGUMENT, HELD with no counter cleared, and otherwise every counter of every
object of the range set to 0 with its overflow flag cleared, their number answered (R147). -/
def Obligations.CounterRequests : Prop :=
  ∀ (s : State) (r : Request) (rest : List Request) (p : PortId) (b : Nat) (bs : List Nat),
    (Serves s .counterRead r rest p b bs →
      let kindCode := (byteAt r.payload 4).toNat
      let index := (byteAt r.payload 5).toNat
      let first := (byteAt r.payload 6).toNat
      let count := (byteAt r.payload 7).toNat
      let clear := (byteAt r.payload 8).toNat
      (byteAt r.payload 3 ≠ 5 ∨ 3 < kindCode → Silent s srcMgmtError →
        exec .counterRead s = .next (answered r rest p b bs .badArgument [] (flagged srcMgmtError s))) ∧
      (∀ kind : ObjectKind, byteAt r.payload 3 = 5 → kind.code = kindCode →
        let bad := (objectsOf kind).1 ≤ index ∨ count = 0 ∨ 25 < count ∨ (objectsOf kind).2 < first + count ∨ 1 < clear
        (bad → Silent s srcMgmtError →
          exec .counterRead s = .next (answered r rest p b bs .badArgument [] (flagged srcMgmtError s))) ∧
        (¬ bad → clear = 1 → s.mga.held = true → Silent s srcMgmtError →
          exec .counterRead s = .next (answered r rest p b bs .held [] (flagged srcMgmtError s))) ∧
        (¬ bad → (clear = 0 ∨ s.mga.held = false) →
          ∃ u : State, u = { s with cnt := u.cnt } ∧
            (∀ ref, u.counter ref =
              if clear = 1 ∧ ref.kind = kind ∧ ref.index = index ∧ first ≤ ref.id ∧ ref.id < first + count
              then { value := 0, overflow := false } else s.counter ref) ∧
            exec .counterRead s = .next (answered r rest p b bs .ok
              ([byte kindCode, byte index, byte first, byte count] ++
                ((List.range count).map (fun k => be32 (counterNamed s kind index (first + k)).value.toNat)).flatten ++
                be32 ((List.range count).map (fun k =>
                  if (counterNamed s kind index (first + k)).overflow then 2 ^ k else 0)).sum) u)))) ∧
    (Serves s .counterClear r rest p b bs →
      let kindCode := (byteAt r.payload 4).toNat
      let first := (byteAt r.payload 5).toNat
      let last := (byteAt r.payload 6).toNat
      (byteAt r.payload 3 ≠ 3 ∨ 3 < kindCode → Silent s srcMgmtError →
        exec .counterClear s = .next (answered r rest p b bs .badArgument [] (flagged srcMgmtError s))) ∧
      (∀ kind : ObjectKind, byteAt r.payload 3 = 3 → kind.code = kindCode →
        ((last < first ∨ (objectsOf kind).1 ≤ last) → Silent s srcMgmtError →
          exec .counterClear s = .next (answered r rest p b bs .badArgument [] (flagged srcMgmtError s))) ∧
        (first ≤ last → last < (objectsOf kind).1 → s.mga.held = true → Silent s srcMgmtError →
          exec .counterClear s = .next (answered r rest p b bs .held [] (flagged srcMgmtError s))) ∧
        (first ≤ last → last < (objectsOf kind).1 → s.mga.held = false →
          ∃ u : State, u = { s with cnt := u.cnt } ∧
            (∀ ref, u.counter ref =
              if ref.kind = kind ∧ first ≤ ref.index ∧ ref.index ≤ last
              then { value := 0, overflow := false } else s.counter ref) ∧
            exec .counterClear s = .next (answered r rest p b bs .ok (be16 ((last + 1 - first) * (objectsOf kind).2)) u))))

/-! ### Requests of the Posture Controller -/

/-- POSTURE SET sets the base posture and derives the effective one; the base posture already held changes nothing; a code above 2 is
BAD_ARGUMENT. STRIKE TEST restarts the timer at 1,000 times the strike hold and puts the station in STRIKE, leaving the last counted
pulse time and STRIKES as they stand (R121, R125, R129). -/
def Obligations.PostureRequests : Prop :=
  ∀ (s : State) (r : Request) (rest : List Request) (p : PortId) (b : Nat) (bs : List Nat),
    (Serves s .postureSet r rest p b bs → (byteAt r.payload 3 ≠ 1 ∨ 2 < (byteAt r.payload 4).toNat) → Silent s srcMgmtError →
      exec .postureSet s = .next (answered r rest p b bs .badArgument [] (flagged srcMgmtError s))) ∧
    (Serves s .postureSet r rest p b bs → s.mga.held = false → byteAt r.payload 3 = 1 →
      ∀ base : BasePosture, (byteAt r.payload 4).toNat = base.code →
        let effective : Posture :=
          if s.psc.localStrike || s.psc.peerStrike then .strike else (base.higher s.psc.peerBase).posture
        (s.psc.base = base → PostureDerived s →
          exec .postureSet s = .next (answered r rest p b bs .ok [byte base.code, byte effective.code] s)) ∧
        (TableAgrees s → Silent s srcPosture → Silent s srcOvercommit →
          let v := s.setPsc { s.psc with base := base, effective := effective }
          ∃ u, exec .postureSet s = .next (answered r rest p b bs .ok [byte base.code, byte effective.code] u) ∧
            OnlyTable v u ∧ u.stb = s.stb)) ∧
    (Serves s .strikeTest r rest p b bs → s.mga.held = false → byteAt r.payload 3 = 0 → TableAgrees s → Silent s srcStrike →
      Silent s srcPosture → Silent s srcOvercommit →
      let timer := 1000 * s.mga.settings.strikeHold
      let v := s.setPsc { s.psc with timer := timer, localStrike := true, effective := .strike }
      ∃ u, exec .strikeTest s = .next (answered r rest p b bs .ok ([3] ++ be32 timer) u) ∧ OnlyTable v u ∧ u.stb = s.stb ∧
        (u.source srcStrike).flag = true)

/-! ### Requests of the Event Unit -/

/-- EVENT READ answers OK with the 87 bytes of R153 and changes nothing; EVENT CLEAR clears flag, repeat count and detail of each named
source but FAULT and the three lane states, keeps the floor and every level, and answers the pending set (R153). -/
def Obligations.EventReadAndClear : Prop :=
  ∀ (s : State) (r : Request) (rest : List Request) (p : PortId) (b : Nat) (bs : List Nat),
    let pendingSet (t : State) : Nat := ((List.finRange 23).map (fun i => if (t.source i).flag then 2 ^ i.val else 0)).sum
    let set := (byteAt r.payload 4).toNat * 65536 + (byteAt r.payload 5).toNat * 256 + (byteAt r.payload 6).toNat
    (Serves s .eventRead r rest p b bs →
      (byteAt r.payload 3 ≠ 0 → Silent s srcMgmtError →
        exec .eventRead s = .next (answered r rest p b bs .badArgument [] (flagged srcMgmtError s))) ∧
      (byteAt r.payload 3 = 0 → exec .eventRead s = .next (answered r rest p b bs .ok
        ([byte s.evu.floor] ++ be24 (pendingSet s) ++
          ((List.finRange 23).map (fun i => [byte (s.source i).level] ++ be16 (s.source i).repeats)).flatten ++
          s.detailBytes) s))) ∧
    (Serves s .eventClear r rest p b bs →
      (byteAt r.payload 3 ≠ 3 ∨ set.testBit 23 = true → Silent s srcMgmtError →
        exec .eventClear s = .next (answered r rest p b bs .badArgument [] (flagged srcMgmtError s))) ∧
      (byteAt r.payload 3 = 3 → set.testBit 23 = false → s.mga.held = true → Silent s srcMgmtError →
        exec .eventClear s = .next (answered r rest p b bs .held [] (flagged srcMgmtError s))) ∧
      (byteAt r.payload 3 = 3 → set.testBit 23 = false → s.mga.held = false →
        ∃ u : State, u = { s with evu := u.evu } ∧ u.evu.floor = s.evu.floor ∧ u.evu.channels = s.evu.channels ∧
          (∀ i : Source, u.source i =
            if set.testBit i.val = true ∧ 3 < i.val then
              { level := (s.source i).level, flag := false, repeats := 0, detail := .none }
            else s.source i) ∧
          exec .eventClear s = .next (answered r rest p b bs .ok (be24 (pendingSet u)) u)))

/-- FLOOR SET and EVENT LEVELS with no pending source left above the floor: the clamped floor, or every named level with 7 clamped to 6
and FAULT kept at 7, and the answer says what was clamped and the floor. A value above 6, a source above 22, a level above 7 and bad
lengths are decided by R154; in every case each pending source but FAULT stays within the floor (R154). A FLOOR SET below a pending
source: the floor test raises the floor to that level and sends one NOTICE through the controller port, ahead of the response, with the 20
bytes of R152, and NOTICES counts it; an EVENT LEVELS that raises a pending source above the floor ends in the same test and the same
NOTICE, with every named level written (R151, R152, R154). -/
def Obligations.FloorAndLevels : Prop :=
  (∀ (s : State) (r : Request) (rest : List Request) (p : PortId) (b : Nat) (bs : List Nat),
    (Serves s .floorSet r rest p b bs →
      let v := (byteAt r.payload 4).toNat
      (byteAt r.payload 3 ≠ 1 → Silent s srcMgmtError →
        exec .floorSet s = .next (answered r rest p b bs .badArgument [] (flagged srcMgmtError s))) ∧
      (byteAt r.payload 3 = 1 → s.mga.held = false → (∀ i, i ≠ srcFault → (s.source i).flag = true → (s.source i).level ≤ min v 6) →
        exec .floorSet s =
          .next (answered r rest p b bs .ok [if 6 < v then 1 else 0, byte (min v 6)] (s.setFloor (min v 6)))) ∧
      (byteAt r.payload 3 = 1 → s.mga.held = false →
        ∃ t, exec .floorSet s = .next t ∧ FloorCovers t ∧ min v 6 ≤ t.evu.floor ∧ t.lrx = s.lrx ∧ t.psc = s.psc)) ∧
    (Serves s .eventLevels r rest p b bs →
      let length := (byteAt r.payload 3).toNat
      let pairs := bytePairs ((r.payload.drop 4).take length)
      let good := length % 2 = 0 ∧ 1 ≤ length / 2 ∧ length / 2 ≤ 23 ∧ (∀ x ∈ pairs, x.1 ≤ 22 ∧ x.2 ≤ 7) ∧ (pairs.map Prod.fst).Nodup
      let level (i : Source) : Nat :=
        if i = srcFault then (s.source i).level else ((pairs.lookup i.val).map (fun v => min v 6)).getD (s.source i).level
      (¬ good → Silent s srcMgmtError →
        exec .eventLevels s = .next (answered r rest p b bs .badArgument [] (flagged srcMgmtError s))) ∧
      (good → s.mga.held = false → (∀ i, i ≠ srcFault → (s.source i).flag = true → level i ≤ s.evu.floor) →
        ∃ (u : State) (clamped : Bool), u = { s with evu := u.evu } ∧ u.evu.floor = s.evu.floor ∧
          u.evu.channels = s.evu.channels ∧ (∀ i, u.source i = { s.source i with level := level i }) ∧
          (clamped = true ↔ ∃ x ∈ pairs, x.1 ≠ 0 ∧ x.2 = 7) ∧
          exec .eventLevels s = .next (answered r rest p b bs .ok [if clamped then 1 else 0, byte s.evu.floor] u)) ∧
      (good → s.mga.held = false →
        ∃ t, exec .eventLevels s = .next t ∧ FloorCovers t ∧ s.evu.floor ≤ t.evu.floor ∧ t.lrx = s.lrx ∧ t.psc = s.psc) ∧
      (∀ (b2 : Nat) (cs : List Nat) (i : Source), good → s.mga.held = false → bs = b2 :: cs → b ≠ b2 → s.bfm.freeCount ≠ 513 →
        1 < s.bfm.freeCount → (s.egress p).length < 511 → Calm s [.station StationCounter.notices.id] →
        i ≠ srcFault → (s.source srcFault).flag = false → (s.source i).flag = true → s.evu.floor < level i →
        (∀ j, j ≠ i → (s.source j).flag = true → level j < level i ∨ (level j = level i ∧ i < j)) →
        ∃ (t : State) (clamped : Bool), exec .eventLevels s = .next t ∧ t.evu.floor = level i ∧
          (∀ j, t.source j = { s.source j with level := level j }) ∧ (clamped = true ↔ ∃ x ∈ pairs, x.1 ≠ 0 ∧ x.2 = 7) ∧
          t.egress p = s.egress p ++ [.control b2, .control b] ∧ t.bfm.free = cs ∧ t.bfm.freeCount = s.bfm.freeCount - 2 ∧
          (t.buffer b2).cell =
            { kind := .notice, addr := stationsByte controllerAddress (stationAddress s.mga.station), cls := 0, frameEnd := false,
              demoted := false, seq := 0,
              payload := [byte i.val, byte (level i)] ++
                be24 ((List.finRange 23).map (fun j => if (s.source j).flag then 2 ^ j.val else 0)).sum ++
                [byte (level i)] ++ s.detailBytes } ∧
          (t.buffer b).cell.payload =
            be16 (nat16At r.payload 0) ++ [byteAt r.payload 2, 0, 2, if clamped then 1 else 0, byte (level i)] ∧
          t.cnt = (bump (.station StationCounter.notices.id) s).cnt ∧ t.mga.requests = rest))) ∧
  (∀ (s : State) (r : Request) (rest : List Request) (p : PortId) (b b2 : Nat) (bs : List Nat) (i : Source),
    Serves s .floorSet r rest p b (b2 :: bs) → s.mga.held = false → byteAt r.payload 3 = 1 → b ≠ b2 →
    s.bfm.freeCount ≠ 513 → 1 < s.bfm.freeCount → (s.egress p).length < 511 →
    Calm s [.station StationCounter.notices.id] → i ≠ srcFault → (s.source srcFault).flag = false → (s.source i).flag = true →
    (byteAt r.payload 4).toNat < (s.source i).level → (s.source i).level ≤ 6 →
    (∀ j, j ≠ i → (s.source j).flag = true →
      (s.source j).level < (s.source i).level ∨ ((s.source j).level = (s.source i).level ∧ i < j)) →
    ∃ t, exec .floorSet s = .next t ∧ t.evu.floor = (s.source i).level ∧ t.evu.sources = s.evu.sources ∧
      t.egress p = s.egress p ++ [.control b2, .control b] ∧ t.bfm.free = bs ∧ t.bfm.freeCount = s.bfm.freeCount - 2 ∧
      (t.buffer b2).cell =
        { kind := .notice, addr := stationsByte controllerAddress (stationAddress s.mga.station), cls := 0, frameEnd := false,
          demoted := false, seq := 0,
          payload := [byte i.val, byte (s.source i).level] ++
            be24 ((List.finRange 23).map (fun j => if (s.source j).flag then 2 ^ j.val else 0)).sum ++
            [byte (s.source i).level] ++ s.detailBytes } ∧
      (t.buffer b).cell.payload = be16 (nat16At r.payload 0) ++ [byteAt r.payload 2, 0, 2, 0, byte (s.source i).level] ∧
      t.cnt = (bump (.station StationCounter.notices.id) s).cnt ∧ t.mga.requests = rest)

/-- EXPORT SET writes all fields of a channel together, its block clamped to at least 1 and at most the smaller of 26 and the kind's
total, its count 0 taken as 65536, its pending firing dropped and its firing number 0; EXPORT READ answers the 12 bytes and changes
nothing; bad arguments are refused, and then a held station answers HELD (R155). -/
def Obligations.ExportSetAndRead : Prop :=
  ∀ (s : State) (r : Request) (rest : List Request) (p : PortId) (b : Nat) (bs : List Nat) (ch : ChannelId),
    let arg (i : Nat) : Nat := (byteAt r.payload (4 + i)).toNat
    (Serves s .exportSet r rest p b bs →
      ((byteAt r.payload 3 ≠ 9 ∨ 3 < arg 0 ∨ arg 1 = 0 ∨ (22 < arg 1 ∧ arg 1 < 254) ∨ 3 < arg 2 ∨ 1 < arg 6) →
        Silent s srcMgmtError →
        exec .exportSet s = .next (answered r rest p b bs .badArgument [] (flagged srcMgmtError s))) ∧
      (∀ (kind : ObjectKind) (bound : Option Binding), byteAt r.payload 3 = 9 → arg 0 = ch.val → kind.code = arg 2 → arg 6 ≤ 1 →
        ((arg 1 = 255 ∧ bound = none) ∨ (arg 1 = 254 ∧ bound = some .manual) ∨
          ∃ i : Source, i ≠ srcFault ∧ arg 1 = i.val ∧ bound = some (.source i)) →
        let total := match kind with | .stream => 4096 | .lane => 42 | .port => 64 | .station => 6
        let items := max 1 (min (arg 5) (min 26 total))
        (total ≤ arg 3 * 256 + arg 4 → Silent s srcMgmtError →
          exec .exportSet s = .next (answered r rest p b bs .badArgument [] (flagged srcMgmtError s))) ∧
        (arg 3 * 256 + arg 4 < total → s.mga.held = true → Silent s srcMgmtError →
          exec .exportSet s = .next (answered r rest p b bs .held [] (flagged srcMgmtError s))) ∧
        (arg 3 * 256 + arg 4 < total → s.mga.held = false →
          exec .exportSet s = .next (answered r rest p b bs .ok [if items = arg 5 then 0 else 1]
            (s.setChannel ch { bound := bound, kind := kind, first := arg 3 * 256 + arg 4, items := items, walk := arg 6 == 1,
                               remaining := if arg 7 * 256 + arg 8 = 0 then 65536 else arg 7 * 256 + arg 8, firing := false,
                               number := 0 }))))) ∧
    (Serves s .exportRead r rest p b bs →
      ((byteAt r.payload 3 ≠ 1 ∨ 3 < arg 0) → Silent s srcMgmtError →
        exec .exportRead s = .next (answered r rest p b bs .badArgument [] (flagged srcMgmtError s))) ∧
      (byteAt r.payload 3 = 1 → arg 0 = ch.val →
        let x := s.channel ch
        let source : Nat := match x.bound with | none => 255 | some .manual => 254 | some (.source i) => i.val
        exec .exportRead s = .next (answered r rest p b bs .ok
          ([byte source, byte x.kind.code] ++ be16 x.first ++ [byte x.items, if x.walk then 1 else 0] ++ be24 x.remaining ++
            [if x.firing then 1 else 0] ++ be16 x.number.toNat) s)))

/-- EXPORT START of a channel bound to MANUAL is a firing: merged into a pending one it counts EXPORT_OVERRUN; with no second buffer to
be had it waits; otherwise the EXPORT cell joins the controller port ahead of the response. A channel not bound to MANUAL discards the
request (R156, R157). -/
def Obligations.ExportStartFires : Prop :=
  ∀ (s : State) (r : Request) (rest : List Request) (p : PortId) (b : Nat) (bs : List Nat) (ch : ChannelId),
    Serves s .exportStart r rest p b bs → s.mga.held = false → byteAt r.payload 3 = 1 → byteAt r.payload 4 = byte ch.val →
    let x := s.channel ch
    (x.bound ≠ some .manual → exec .exportStart s = .next (answered r rest p b bs .ok [0] s)) ∧
    (x.bound = some .manual → x.firing = true → Calm s [.station StationCounter.exportOverrun.id] →
      exec .exportStart s = .next (answered r rest p b bs .ok [1] (bump (.station StationCounter.exportOverrun.id) s))) ∧
    (x.bound = some .manual → x.firing = false → s.bfm.freeCount = 1 →
      exec .exportStart s = .next (answered r rest p b bs .ok [1] (s.setChannel ch { x with firing := true }))) ∧
    (∀ b2 cs, x.bound = some .manual → x.firing = false → bs = b2 :: cs → b ≠ b2 → 2 ≤ x.remaining → s.bfm.freeCount ≠ 513 →
      1 < s.bfm.freeCount → (s.egress p).length < 511 →
      ∃ t, exec .exportStart s = .next t ∧ t.egress p = s.egress p ++ [.control b2, .control b] ∧ t.bfm.free = cs ∧
        t.channel ch =
          { x with number := x.number + 1, remaining := x.remaining - 1,
                   first := if x.walk then (x.first + x.items) % x.kind.total else x.first } ∧
        (t.buffer b2).cell.payload =
          [byte ch.val] ++ be16 (x.number + 1).toNat ++ [byte x.kind.code] ++ be16 x.first ++ [byte x.items] ++
            ((s.blockOf x).map (fun y => be32 y.value.toNat)).flatten ++ be32 (overflowBits (s.blockOf x)) ∧
        t.cnt = s.cnt ∧ t.evu.sources = s.evu.sources ∧ t.mga.requests = rest)

/-! ### Requests of the station -/

/-- STATION READ answers OK with the 55 bytes of R164 and changes nothing (the free count is read with the response's buffer already
allocated, log 21). STATION WRITE writes every named setting together, brought into its range, and says whether one was clamped; the
strike timer keeps its value (R164, R165, R126). That the response of the write already takes the controller port that is written is the
model's reading, not a rule's (DEDUCED, log 21). -/
def Obligations.StationRequests : Prop :=
  ∀ (s : State) (r : Request) (rest : List Request) (p : PortId) (b : Nat) (bs : List Nat),
    (Serves s .stationRead r rest p b bs →
      (byteAt r.payload 3 ≠ 0 → Silent s srcMgmtError →
        exec .stationRead s = .next (answered r rest p b bs .badArgument [] (flagged srcMgmtError s))) ∧
      (byteAt r.payload 3 = 0 →
        let m := s.mga
        let x := m.settings
        exec .stationRead s = .next (answered r rest p b bs .ok
          ([byte m.station.val, x.controllerPort.elim 255 (fun q => byte q.val)] ++ be16 x.strikeHold ++ be16 x.guards.clear ++
            be16 x.guards.watch ++ be16 x.guards.warning ++ be16 x.guards.strike ++
            [byte x.erroredThreshold, byte x.impairCount, byte x.recoverNormal, byte x.recoverStorm] ++ be16 x.drainTimeout ++
            [byte s.psc.base.code, byte s.psc.effective.code, byte s.evu.floor, s.lck.epoch, if m.held then 1 else 0,
              m.faultCause.elim 0 (fun c => byte c.code)] ++ be16 m.faultIndex ++ [byte m.furtherFaults] ++ be32 s.psc.timer ++
            [byte s.psc.peerBase.code, if s.psc.peerStrike then 1 else 0] ++ be16 (s.bfm.freeCount - 1) ++
            [if m.drain.isSome then 1 else 0, m.drain.elim 0 (fun d => byte d.stream.val), byte (rest.length + 1),
              byte ((List.finRange 8).map (fun q => if s.present q then 2 ^ q.val else 0)).sum] ++
            ((List.finRange 8).map (fun q => be16 (s.egress q).length)).flatten) s))) ∧
    (Serves s .stationWrite r rest p b bs →
      let length := (byteAt r.payload 3).toNat
      let items := threeByteItems ((r.payload.drop 4).take length)
      let value (code : Nat) : Option Nat := items.lookup code
      let good := length % 3 = 0 ∧ 1 ≤ length / 3 ∧ length / 3 ≤ 11 ∧ (∀ x ∈ items, 1 ≤ x.1 ∧ x.1 ≤ 11) ∧
        (items.map Prod.fst).Nodup ∧ (∀ v, value 1 = some v → v < 8 ∨ v = 255)
      let within (code lo hi old : Nat) : Nat := ((value code).map (fun v => max lo (min v hi))).getD old
      let o := s.mga.settings
      (¬ good → Silent s srcMgmtError →
        exec .stationWrite s = .next (answered r rest p b bs .badArgument [] (flagged srcMgmtError s))) ∧
      (good → s.mga.held = false → ∃ (x : Settings) (clamped : Bool),
        (∃ u, exec .stationWrite s = .next u ∧ u.mga = { s.mga with settings := x, requests := rest, serviceDue := true }) ∧
        (∀ q, Reaches (s.setMga { s.mga with settings := x }) q → exec .stationWrite s =
          .next (answered r rest q b bs .ok [if clamped then 1 else 0] (s.setMga { s.mga with settings := x }))) ∧
        x.controllerPort.elim 255 (fun q => q.val) = (value 1).getD (o.controllerPort.elim 255 (fun q => q.val)) ∧
        x.strikeHold = within 2 1 600 o.strikeHold ∧ x.guards.clear = within 3 0 20000 o.guards.clear ∧
        x.guards.watch = within 4 0 20000 o.guards.watch ∧ x.guards.warning = within 5 0 20000 o.guards.warning ∧
        x.guards.strike = within 6 0 20000 o.guards.strike ∧ x.erroredThreshold = within 7 1 255 o.erroredThreshold ∧
        x.impairCount = within 8 1 15 o.impairCount ∧ x.recoverNormal = within 9 1 255 o.recoverNormal ∧
        x.recoverStorm = within 10 1 255 o.recoverStorm ∧ x.drainTimeout = within 11 1 1000 o.drainTimeout ∧
        (clamped = true ↔ (∃ v, value 2 = some v ∧ (v < 1 ∨ 600 < v)) ∨
          (∃ code ∈ [3, 4, 5, 6], ∃ v, value code = some v ∧ 20000 < v) ∨
          (∃ code ∈ [7, 9, 10], ∃ v, value code = some v ∧ (v < 1 ∨ 255 < v)) ∨
          (∃ v, value 8 = some v ∧ (v < 1 ∨ 15 < v)) ∨ (∃ v, value 11 = some v ∧ (v < 1 ∨ 1000 < v)))))

/-! ### The warm restart -/

/-- RESTART with no arguments: the epoch advances, the request is recorded, every request behind it and a pending drain are dropped, and
every FIFO, queue and window is empty, nothing counted and the service's buffer back on the free list; with arguments it is
BAD_ARGUMENT (R168, R29, R16). That views, last probes, lane receivers and posture keep their values and the queued counts go to 0 at the
start, the rest at the completion, is the model's deduction (log 26). -/
def Obligations.RestartBegins : Prop :=
  ∀ (s : State) (r : Request) (rest : List Request) (p : PortId) (b : Nat) (bs : List Nat), Serves s .restart r rest p b bs →
    (byteAt r.payload 3 ≠ 0 → Silent s srcMgmtError →
      exec .restart s = .next (answered r rest p b bs .badArgument [] (flagged srcMgmtError s))) ∧
    (byteAt r.payload 3 = 0 → ∃ t, exec .restart s = .next t ∧
      t.lck = { s.lck with epoch := s.lck.epoch + 1 } ∧
      t.mga = { s.mga with
        requests := [], drain := none
        restart := .inProgress { tag := BitVec.ofNat 16 (nat16At r.payload 0), command := byteAt r.payload 2, source := r.source } } ∧
      t.bfm.free = bs ++ [b] ∧ t.bfm.freeCount = s.bfm.freeCount ∧
      (∀ q, t.ingress q = [] ∧ t.egress q = []) ∧
      (∀ l, (t.tx l).control = [] ∧ (∀ k, t.classQueue l k = []) ∧ (t.tx l).view = (s.tx l).view ∧
        (t.tx l).lastProbe = (s.tx l).lastProbe) ∧
      (∀ c, (s.context c).condition = .attached →
        (t.context c).heldCells = [] ∧ (t.context c).condition = .attached ∧ (t.context c).owner = (s.context c).owner ∧
        (t.context c).next = (s.context c).next) ∧
      (∀ n, t.run n = { s.run n with queued := 0 }) ∧
      (∀ n, t.entry n = if (∃ d, s.mga.drain = some d ∧ d.stream = n) then { s.entry n with state := .suspended } else s.entry n) ∧
      t.cnt = s.cnt ∧ t.evu = s.evu ∧ t.lrx = s.lrx ∧ t.psc = s.psc ∧ t.pins = s.pins ∧ t.out = s.out)

/-- While a warm restart is in progress only its completion, a change of a pin's level, the views that follow TXFAULT and FILL act: no other
tick, probe, interval, strike, drain, age or service step changes anything, no cell is taken, accepted, examined, released or handed
over, no export attempt and no RESTART_RESPONSE is made, LOSS_OF_SIGNAL, SIGNAL_RESTORED and PRESENT only have their input follow, and a
slot carries FILL (R168, R53, R92, R133). That a search byte, an acceptance and the pins act so while the FIFOs are empty is the model's
reading (logs 3 and 26). -/
def Obligations.RestartFreezes : Prop :=
  ∀ (s : State), s.restarting = true →
    (∀ c ∈ [Instr.tick1ms, .peerReportStale, .strikeTimerExpiry, .tick250ms, .tick1s, .strikePulse, .restartResponse],
      exec c s = .next s) ∧
    (∀ code ≤ 22, exec (serviceStep code) s = .next s) ∧
    (s.mga.drain = none → exec .drainTimeout s = .next s ∧ exec .drainCompletion s = .next s) ∧
    (∀ l, exec (.erroredIntervalClose l) s = .next s ∧ exec (.probeDue l) s = .next s ∧
      (∀ x, exec (.huntByte l x) s = .next s) ∧
      (∀ cell : List Byte, cell.length = 128 → exec (.laneCellReceive l cell) s = .next s) ∧
      exec (.lossOfSignal l) s = .next (s.setPins { s.pins with loss := s.pins.loss.set l true }) ∧
      exec (.signalRestored l) s = .next (s.setPins { s.pins with loss := s.pins.loss.set l false }) ∧
      (Calm s [.lane l LaneCounter.txFill.id] →
        exec (.laneSlot l) s = .next (bump (.lane l LaneCounter.txFill.id) (s.setLaneOut l (linkCell
          { kind := .fill, addr := stationsByte (peerAddress s.mga.station) (stationAddress s.mga.station), cls := 0,
            frameEnd := false, demoted := false, seq := 0, payload := [] } l s.lck.epoch))))) ∧
    (∀ q, exec (.egressHandover q) s = .next s ∧ exec (.ingressAcceptance q) s = .next s ∧
      (∀ cell : List Byte, cell.length = 124 → exec (.portCellTake q cell) s = .next s) ∧
      exec (.presentNegated q) s = .next (s.setPins { s.pins with present := s.pins.present.put q false }) ∧
      exec (.presentAsserted q) s = .next (s.setPins { s.pins with present := s.pins.present.put q true })) ∧
    (∀ c, exec (.contextAgeExpiry c) s = .next s ∧ ((s.context c).heldCells = [] → exec (.releaseExpiry c) s = .next s)) ∧
    (∀ ch, exec (.exportAttempt ch) s = .next s)

/-- RESTART_COMPLETION leaves each block at its warm-restart values: the pool full, entries, counters, levels and settings kept,
buckets full, lanes at their inputs with every view UNUSABLE, each context as the table of R119 gives it, flags clear, channels unbound,
not held with the fault record kept, and the response waiting (R168, R14, R36, R73, R92, R119, R133, R149, R158, R169). That its
recomputation of committed load raises no TABLE_CHECK, a disagreeing entry or not, is the model's (log 17). -/
def Obligations.RestartCompletes : Prop :=
  ∀ (s : State) (ticket : RestartTicket), s.mga.restart = .inProgress ticket →
    ∃ t, exec .restartCompletion s = .next t ∧
      t.mga = { s.mga with held := false, restart := .waiting ticket } ∧
      t.bfm.free = List.range 8192 ∧ t.bfm.freeCount = 8192 ∧ (∀ b, (t.buffer b).refs = 0) ∧
      t.stb.entries = s.stb.entries ∧
      (∀ n, t.run n = { s.run n with
        sendSeq := 0, level := 16 * (s.entry n).burst, queued := 0, lastValid := false
        context := if (∃ c, (s.run n).context = some c ∧ (s.context c).pinned = true) then (s.run n).context else none }) ∧
      (∀ l, t.tx l = { view := .unusable, control := [], classes := Vector.replicate 4 [], probeDue := false, lastProbe := none,
                       load := 0, unpoliced := 0, overcommitted := false }) ∧
      (∀ l, t.rx l = { state := if s.pins.loss.get l then .down else .hunt, goodHeaders := 0, badHeaders := 0, crcFailures := 0,
                       headerFailure := false, judging := false, erroredRun := 0, cleanRun := 0, echo := none, lastSample := none,
                       delay := none, lastSeen := (s.rx l).lastSeen, huntWindow := [], huntWait := 0 }) ∧
      t.lrx.peer = { s.lrx.peer with age := 300, stale := true } ∧
      (∀ c,
        let x := s.context c
        let cleared : Context :=
          { condition := .free, owner := none, pinned := false, synced := false, next := 0, epoch := 0, depth := 0, slots := [],
            hold := 0, raw := 0, skew := false, lastRelease := none, age := 0, arrived := false, worstGap := 0, checkAgrees := true }
        (x.condition = .free → t.context c = cleared) ∧
        (x.condition = .reserved →
          t.context c = { cleared with condition := .reserved, owner := x.owner, pinned := x.pinned }) ∧
        (x.condition = .attached → x.pinned = false → t.context c = cleared) ∧
        (x.condition = .attached → x.pinned = true → t.context c =
          { condition := .attached, owner := x.owner, pinned := true, synced := false, next := x.next, epoch := x.epoch,
            depth := x.depth, slots := List.replicate x.slots.length none, hold := x.hold, raw := x.raw, skew := x.skew,
            lastRelease := none, age := 0, arrived := false, worstGap := 0, checkAgrees := true })) ∧
      t.psc = { base := s.psc.base, timer := 0, localStrike := false, lastPulse := none, peerBase := .clear, peerStrike := false,
                effective := s.psc.base.posture } ∧
      t.evu.floor = 0 ∧
      (∀ i, t.source i = { level := (s.source i).level, flag := false, repeats := 0, detail := .none }) ∧
      (∀ ch, t.channel ch = { s.channel ch with bound := none, firing := false }) ∧
      t.cnt = s.cnt ∧ t.pins = s.pins ∧ t.lck = s.lck ∧ t.tin = s.tin ∧ t.dlv = s.dlv ∧ t.out = s.out

/-- RESTART_RESPONSE with the way to the controller and a buffer open sends the response with the new epoch and makes the restart state
idle; with the controller port full or no buffer free, or with no response waiting, it changes nothing (R168, R137). -/
def Obligations.RestartResponds : Prop :=
  ∀ (s : State), ((∀ ticket, s.mga.restart ≠ .waiting ticket) → exec .restartResponse s = .next s) ∧
    ∀ ticket, s.mga.restart = .waiting ticket → ticket.source = controllerAddress →
      (s.routeReady = false ∨ s.bfm.freeCount = 0 → exec .restartResponse s = .next s) ∧
      (∀ p b bs, Reaches s p → Grants s 0 b bs →
        exec .restartResponse s = .next (((granted b bs 1
          { kind := .mgmtRsp, addr := stationsByte controllerAddress (stationAddress s.mga.station), cls := 0, frameEnd := false,
            demoted := false, seq := 0, payload := be16 ticket.tag.toNat ++ [ticket.command, 0, 1, s.lck.epoch] } s).setEgress p
          (s.egress p ++ [.control b])).setMga { s.mga with restart := .idle, serviceDue := true }))

/-! ### What every step keeps -/

/-- The state after power-on meets every invariant below. -/
def Obligations.ResetSound : Prop :=
  QueuesWithin State.reset ∧ FloorCovers State.reset ∧ BucketsWithin State.reset ∧ PostureDerived State.reset ∧
    ViewsDerived State.reset ∧ PoolCanonical State.reset

/-- No queue ever holds more than its capacity, whatever the step, from every state within the capacities (R37, R59, R61, R134, R161);
and the buffers keep their canonical form, so that equal pools are equal data (the model's own form of R6 and R9). -/
def Obligations.EveryStepKeepsStores : Prop :=
  (∀ s t : State, QueuesWithin s → step s = .next t → QueuesWithin t) ∧
  (∀ s t : State, PoolCanonical s → step s = .next t → PoolCanonical t)

/-- After every step, every pending source other than FAULT has a level not above the floor (R154); and the level of every bucket stays
between 0 and 16 times the burst (R48). -/
def Obligations.EveryStepKeepsLevels : Prop :=
  (∀ s t : State, FloorCovers s → step s = .next t → FloorCovers t) ∧
  (∀ s t : State, BucketsWithin s → step s = .next t → BucketsWithin t)

/-- Posture and views follow their inputs at once: no step leaves the effective posture or a transmit view other than R129 and R55 derive
it (R55, R56, R129, R130). -/
def Obligations.EveryStepKeepsDerived : Prop :=
  (∀ s t : State, PostureDerived s → step s = .next t → PostureDerived t) ∧
  (∀ s t : State, ViewsDerived s → step s = .next t → ViewsDerived t)
end

