-- ==== Sys2Proof/Laws/State.lean ====
section
/-! SUPPORT. One lemma for each field and each update of the state, so that no proof unfolds a record update; a read after a
write in each home. -/

namespace Sys2Proof.Machine

namespace PerLane

theorem get_set {α : Type} (p : PerLane α) (l m : Lane) (x : α) : (p.set l x).get m = if m = l then x else p.get m := by
  cases l <;> cases m <;> rfl

@[simp] theorem get_set_self {α : Type} (p : PerLane α) (l : Lane) (x : α) : (p.set l x).get l = x := by
  cases l <;> rfl

theorem get_set_ne {α : Type} (p : PerLane α) {l m : Lane} (x : α) (h : m ≠ l) : (p.set l x).get m = p.get m := by
  simp [get_set, h]

end PerLane

namespace State

@[simp] theorem setPins_pins (s : State) (x : Pins) : (s.setPins x).pins = x := rfl
@[simp] theorem setPins_lck (s : State) (x : Pins) : (s.setPins x).lck = s.lck := rfl
@[simp] theorem setPins_bfm (s : State) (x : Pins) : (s.setPins x).bfm = s.bfm := rfl
@[simp] theorem setPins_stb (s : State) (x : Pins) : (s.setPins x).stb = s.stb := rfl
@[simp] theorem setPins_tin (s : State) (x : Pins) : (s.setPins x).tin = s.tin := rfl
@[simp] theorem setPins_ltx (s : State) (x : Pins) : (s.setPins x).ltx = s.ltx := rfl
@[simp] theorem setPins_lrx (s : State) (x : Pins) : (s.setPins x).lrx = s.lrx := rfl
@[simp] theorem setPins_mrg (s : State) (x : Pins) : (s.setPins x).mrg = s.mrg := rfl
@[simp] theorem setPins_psc (s : State) (x : Pins) : (s.setPins x).psc = s.psc := rfl
@[simp] theorem setPins_dlv (s : State) (x : Pins) : (s.setPins x).dlv = s.dlv := rfl
@[simp] theorem setPins_cnt (s : State) (x : Pins) : (s.setPins x).cnt = s.cnt := rfl
@[simp] theorem setPins_evu (s : State) (x : Pins) : (s.setPins x).evu = s.evu := rfl
@[simp] theorem setPins_mga (s : State) (x : Pins) : (s.setPins x).mga = s.mga := rfl
@[simp] theorem setPins_out (s : State) (x : Pins) : (s.setPins x).out = s.out := rfl
@[simp] theorem setPins_openCount (s : State) (x : Pins) : (s.setPins x).openCount = s.openCount := rfl
@[simp] theorem setPins_pending (s : State) (x : Pins) : (s.setPins x).pending = s.pending := rfl
@[simp] theorem setPins_entry (s : State) (x : Pins) (m : StreamId) : (s.setPins x).entry m = s.entry m := rfl
@[simp] theorem setPins_run (s : State) (x : Pins) (m : StreamId) : (s.setPins x).run m = s.run m := rfl
@[simp] theorem setPins_tx (s : State) (x : Pins) (k' : Lane) : (s.setPins x).tx k' = s.tx k' := rfl
@[simp] theorem setPins_rx (s : State) (x : Pins) (k' : Lane) : (s.setPins x).rx k' = s.rx k' := rfl
@[simp] theorem setPins_context (s : State) (x : Pins) (d : ContextId) : (s.setPins x).context d = s.context d := rfl
@[simp] theorem setPins_egress (s : State) (x : Pins) (o : PortId) : (s.setPins x).egress o = s.egress o := rfl
@[simp] theorem setPins_ingress (s : State) (x : Pins) (o : PortId) : (s.setPins x).ingress o = s.ingress o := rfl
@[simp] theorem setPins_source (s : State) (x : Pins) (j : Source) : (s.setPins x).source j = s.source j := rfl
@[simp] theorem setPins_channel (s : State) (x : Pins) (d : ChannelId) : (s.setPins x).channel d = s.channel d := rfl
@[simp] theorem setPins_now (s : State) (x : Pins) : (s.setPins x).now = s.now := rfl
@[simp] theorem setPins_buffer (s : State) (x : Pins) (a : Nat) : (s.setPins x).buffer a = s.buffer a := rfl
@[simp] theorem setPins_counter (s : State) (x : Pins) (q : CounterRef) : (s.setPins x).counter q = s.counter q := rfl
@[simp] theorem setPins_classQueue (s : State) (x : Pins) (k' : Lane) (h : Fin 4) : (s.setPins x).classQueue k' h = s.classQueue k' h := rfl
@[simp] theorem setPins_view (s : State) (x : Pins) (k' : Lane) : (s.setPins x).view k' = s.view k' := rfl
@[simp] theorem setPins_restarting (s : State) (x : Pins) : (s.setPins x).restarting = s.restarting := rfl

@[simp] theorem setLck_pins (s : State) (x : LinkClock) : (s.setLck x).pins = s.pins := rfl
@[simp] theorem setLck_lck (s : State) (x : LinkClock) : (s.setLck x).lck = x := rfl
@[simp] theorem setLck_bfm (s : State) (x : LinkClock) : (s.setLck x).bfm = s.bfm := rfl
@[simp] theorem setLck_stb (s : State) (x : LinkClock) : (s.setLck x).stb = s.stb := rfl
@[simp] theorem setLck_tin (s : State) (x : LinkClock) : (s.setLck x).tin = s.tin := rfl
@[simp] theorem setLck_ltx (s : State) (x : LinkClock) : (s.setLck x).ltx = s.ltx := rfl
@[simp] theorem setLck_lrx (s : State) (x : LinkClock) : (s.setLck x).lrx = s.lrx := rfl
@[simp] theorem setLck_mrg (s : State) (x : LinkClock) : (s.setLck x).mrg = s.mrg := rfl
@[simp] theorem setLck_psc (s : State) (x : LinkClock) : (s.setLck x).psc = s.psc := rfl
@[simp] theorem setLck_dlv (s : State) (x : LinkClock) : (s.setLck x).dlv = s.dlv := rfl
@[simp] theorem setLck_cnt (s : State) (x : LinkClock) : (s.setLck x).cnt = s.cnt := rfl
@[simp] theorem setLck_evu (s : State) (x : LinkClock) : (s.setLck x).evu = s.evu := rfl
@[simp] theorem setLck_mga (s : State) (x : LinkClock) : (s.setLck x).mga = s.mga := rfl
@[simp] theorem setLck_out (s : State) (x : LinkClock) : (s.setLck x).out = s.out := rfl
@[simp] theorem setLck_openCount (s : State) (x : LinkClock) : (s.setLck x).openCount = s.openCount := rfl
@[simp] theorem setLck_pending (s : State) (x : LinkClock) : (s.setLck x).pending = s.pending := rfl
@[simp] theorem setLck_entry (s : State) (x : LinkClock) (m : StreamId) : (s.setLck x).entry m = s.entry m := rfl
@[simp] theorem setLck_run (s : State) (x : LinkClock) (m : StreamId) : (s.setLck x).run m = s.run m := rfl
@[simp] theorem setLck_tx (s : State) (x : LinkClock) (k' : Lane) : (s.setLck x).tx k' = s.tx k' := rfl
@[simp] theorem setLck_rx (s : State) (x : LinkClock) (k' : Lane) : (s.setLck x).rx k' = s.rx k' := rfl
@[simp] theorem setLck_context (s : State) (x : LinkClock) (d : ContextId) : (s.setLck x).context d = s.context d := rfl
@[simp] theorem setLck_egress (s : State) (x : LinkClock) (o : PortId) : (s.setLck x).egress o = s.egress o := rfl
@[simp] theorem setLck_ingress (s : State) (x : LinkClock) (o : PortId) : (s.setLck x).ingress o = s.ingress o := rfl
@[simp] theorem setLck_present (s : State) (x : LinkClock) (o : PortId) : (s.setLck x).present o = s.present o := rfl
@[simp] theorem setLck_source (s : State) (x : LinkClock) (j : Source) : (s.setLck x).source j = s.source j := rfl
@[simp] theorem setLck_channel (s : State) (x : LinkClock) (d : ChannelId) : (s.setLck x).channel d = s.channel d := rfl
@[simp] theorem setLck_buffer (s : State) (x : LinkClock) (a : Nat) : (s.setLck x).buffer a = s.buffer a := rfl
@[simp] theorem setLck_counter (s : State) (x : LinkClock) (q : CounterRef) : (s.setLck x).counter q = s.counter q := rfl
@[simp] theorem setLck_classQueue (s : State) (x : LinkClock) (k' : Lane) (h : Fin 4) : (s.setLck x).classQueue k' h = s.classQueue k' h := rfl
@[simp] theorem setLck_view (s : State) (x : LinkClock) (k' : Lane) : (s.setLck x).view k' = s.view k' := rfl
@[simp] theorem setLck_restarting (s : State) (x : LinkClock) : (s.setLck x).restarting = s.restarting := rfl

@[simp] theorem setBfm_pins (s : State) (x : BufferManager) : (s.setBfm x).pins = s.pins := rfl
@[simp] theorem setBfm_lck (s : State) (x : BufferManager) : (s.setBfm x).lck = s.lck := rfl
@[simp] theorem setBfm_bfm (s : State) (x : BufferManager) : (s.setBfm x).bfm = x := rfl
@[simp] theorem setBfm_stb (s : State) (x : BufferManager) : (s.setBfm x).stb = s.stb := rfl
@[simp] theorem setBfm_tin (s : State) (x : BufferManager) : (s.setBfm x).tin = s.tin := rfl
@[simp] theorem setBfm_ltx (s : State) (x : BufferManager) : (s.setBfm x).ltx = s.ltx := rfl
@[simp] theorem setBfm_lrx (s : State) (x : BufferManager) : (s.setBfm x).lrx = s.lrx := rfl
@[simp] theorem setBfm_mrg (s : State) (x : BufferManager) : (s.setBfm x).mrg = s.mrg := rfl
@[simp] theorem setBfm_psc (s : State) (x : BufferManager) : (s.setBfm x).psc = s.psc := rfl
@[simp] theorem setBfm_dlv (s : State) (x : BufferManager) : (s.setBfm x).dlv = s.dlv := rfl
@[simp] theorem setBfm_cnt (s : State) (x : BufferManager) : (s.setBfm x).cnt = s.cnt := rfl
@[simp] theorem setBfm_evu (s : State) (x : BufferManager) : (s.setBfm x).evu = s.evu := rfl
@[simp] theorem setBfm_mga (s : State) (x : BufferManager) : (s.setBfm x).mga = s.mga := rfl
@[simp] theorem setBfm_out (s : State) (x : BufferManager) : (s.setBfm x).out = s.out := rfl
@[simp] theorem setBfm_openCount (s : State) (x : BufferManager) : (s.setBfm x).openCount = s.openCount := rfl
@[simp] theorem setBfm_pending (s : State) (x : BufferManager) : (s.setBfm x).pending = s.pending := rfl
@[simp] theorem setBfm_entry (s : State) (x : BufferManager) (m : StreamId) : (s.setBfm x).entry m = s.entry m := rfl
@[simp] theorem setBfm_run (s : State) (x : BufferManager) (m : StreamId) : (s.setBfm x).run m = s.run m := rfl
@[simp] theorem setBfm_tx (s : State) (x : BufferManager) (k' : Lane) : (s.setBfm x).tx k' = s.tx k' := rfl
@[simp] theorem setBfm_rx (s : State) (x : BufferManager) (k' : Lane) : (s.setBfm x).rx k' = s.rx k' := rfl
@[simp] theorem setBfm_context (s : State) (x : BufferManager) (d : ContextId) : (s.setBfm x).context d = s.context d := rfl
@[simp] theorem setBfm_egress (s : State) (x : BufferManager) (o : PortId) : (s.setBfm x).egress o = s.egress o := rfl
@[simp] theorem setBfm_ingress (s : State) (x : BufferManager) (o : PortId) : (s.setBfm x).ingress o = s.ingress o := rfl
@[simp] theorem setBfm_present (s : State) (x : BufferManager) (o : PortId) : (s.setBfm x).present o = s.present o := rfl
@[simp] theorem setBfm_source (s : State) (x : BufferManager) (j : Source) : (s.setBfm x).source j = s.source j := rfl
@[simp] theorem setBfm_channel (s : State) (x : BufferManager) (d : ChannelId) : (s.setBfm x).channel d = s.channel d := rfl
@[simp] theorem setBfm_now (s : State) (x : BufferManager) : (s.setBfm x).now = s.now := rfl
@[simp] theorem setBfm_counter (s : State) (x : BufferManager) (q : CounterRef) : (s.setBfm x).counter q = s.counter q := rfl
@[simp] theorem setBfm_classQueue (s : State) (x : BufferManager) (k' : Lane) (h : Fin 4) : (s.setBfm x).classQueue k' h = s.classQueue k' h := rfl
@[simp] theorem setBfm_view (s : State) (x : BufferManager) (k' : Lane) : (s.setBfm x).view k' = s.view k' := rfl
@[simp] theorem setBfm_restarting (s : State) (x : BufferManager) : (s.setBfm x).restarting = s.restarting := rfl

@[simp] theorem setEntry_pins (s : State) (n : StreamId) (x : StreamEntry) : (s.setEntry n x).pins = s.pins := rfl
@[simp] theorem setEntry_lck (s : State) (n : StreamId) (x : StreamEntry) : (s.setEntry n x).lck = s.lck := rfl
@[simp] theorem setEntry_bfm (s : State) (n : StreamId) (x : StreamEntry) : (s.setEntry n x).bfm = s.bfm := rfl
@[simp] theorem setEntry_tin (s : State) (n : StreamId) (x : StreamEntry) : (s.setEntry n x).tin = s.tin := rfl
@[simp] theorem setEntry_ltx (s : State) (n : StreamId) (x : StreamEntry) : (s.setEntry n x).ltx = s.ltx := rfl
@[simp] theorem setEntry_lrx (s : State) (n : StreamId) (x : StreamEntry) : (s.setEntry n x).lrx = s.lrx := rfl
@[simp] theorem setEntry_mrg (s : State) (n : StreamId) (x : StreamEntry) : (s.setEntry n x).mrg = s.mrg := rfl
@[simp] theorem setEntry_psc (s : State) (n : StreamId) (x : StreamEntry) : (s.setEntry n x).psc = s.psc := rfl
@[simp] theorem setEntry_dlv (s : State) (n : StreamId) (x : StreamEntry) : (s.setEntry n x).dlv = s.dlv := rfl
@[simp] theorem setEntry_cnt (s : State) (n : StreamId) (x : StreamEntry) : (s.setEntry n x).cnt = s.cnt := rfl
@[simp] theorem setEntry_evu (s : State) (n : StreamId) (x : StreamEntry) : (s.setEntry n x).evu = s.evu := rfl
@[simp] theorem setEntry_mga (s : State) (n : StreamId) (x : StreamEntry) : (s.setEntry n x).mga = s.mga := rfl
@[simp] theorem setEntry_out (s : State) (n : StreamId) (x : StreamEntry) : (s.setEntry n x).out = s.out := rfl
@[simp] theorem setEntry_openCount (s : State) (n : StreamId) (x : StreamEntry) : (s.setEntry n x).openCount = s.openCount := rfl
@[simp] theorem setEntry_pending (s : State) (n : StreamId) (x : StreamEntry) : (s.setEntry n x).pending = s.pending := rfl
@[simp] theorem setEntry_tx (s : State) (n : StreamId) (x : StreamEntry) (k' : Lane) : (s.setEntry n x).tx k' = s.tx k' := rfl
@[simp] theorem setEntry_rx (s : State) (n : StreamId) (x : StreamEntry) (k' : Lane) : (s.setEntry n x).rx k' = s.rx k' := rfl
@[simp] theorem setEntry_context (s : State) (n : StreamId) (x : StreamEntry) (d : ContextId) : (s.setEntry n x).context d = s.context d := rfl
@[simp] theorem setEntry_egress (s : State) (n : StreamId) (x : StreamEntry) (o : PortId) : (s.setEntry n x).egress o = s.egress o := rfl
@[simp] theorem setEntry_ingress (s : State) (n : StreamId) (x : StreamEntry) (o : PortId) : (s.setEntry n x).ingress o = s.ingress o := rfl
@[simp] theorem setEntry_present (s : State) (n : StreamId) (x : StreamEntry) (o : PortId) : (s.setEntry n x).present o = s.present o := rfl
@[simp] theorem setEntry_source (s : State) (n : StreamId) (x : StreamEntry) (j : Source) : (s.setEntry n x).source j = s.source j := rfl
@[simp] theorem setEntry_channel (s : State) (n : StreamId) (x : StreamEntry) (d : ChannelId) : (s.setEntry n x).channel d = s.channel d := rfl
@[simp] theorem setEntry_now (s : State) (n : StreamId) (x : StreamEntry) : (s.setEntry n x).now = s.now := rfl
@[simp] theorem setEntry_buffer (s : State) (n : StreamId) (x : StreamEntry) (a : Nat) : (s.setEntry n x).buffer a = s.buffer a := rfl
@[simp] theorem setEntry_counter (s : State) (n : StreamId) (x : StreamEntry) (q : CounterRef) : (s.setEntry n x).counter q = s.counter q := rfl
@[simp] theorem setEntry_classQueue (s : State) (n : StreamId) (x : StreamEntry) (k' : Lane) (h : Fin 4) : (s.setEntry n x).classQueue k' h = s.classQueue k' h := rfl
@[simp] theorem setEntry_view (s : State) (n : StreamId) (x : StreamEntry) (k' : Lane) : (s.setEntry n x).view k' = s.view k' := rfl
@[simp] theorem setEntry_restarting (s : State) (n : StreamId) (x : StreamEntry) : (s.setEntry n x).restarting = s.restarting := rfl

@[simp] theorem setRun_pins (s : State) (n : StreamId) (x : RunRecord) : (s.setRun n x).pins = s.pins := rfl
@[simp] theorem setRun_lck (s : State) (n : StreamId) (x : RunRecord) : (s.setRun n x).lck = s.lck := rfl
@[simp] theorem setRun_bfm (s : State) (n : StreamId) (x : RunRecord) : (s.setRun n x).bfm = s.bfm := rfl
@[simp] theorem setRun_tin (s : State) (n : StreamId) (x : RunRecord) : (s.setRun n x).tin = s.tin := rfl
@[simp] theorem setRun_ltx (s : State) (n : StreamId) (x : RunRecord) : (s.setRun n x).ltx = s.ltx := rfl
@[simp] theorem setRun_lrx (s : State) (n : StreamId) (x : RunRecord) : (s.setRun n x).lrx = s.lrx := rfl
@[simp] theorem setRun_mrg (s : State) (n : StreamId) (x : RunRecord) : (s.setRun n x).mrg = s.mrg := rfl
@[simp] theorem setRun_psc (s : State) (n : StreamId) (x : RunRecord) : (s.setRun n x).psc = s.psc := rfl
@[simp] theorem setRun_dlv (s : State) (n : StreamId) (x : RunRecord) : (s.setRun n x).dlv = s.dlv := rfl
@[simp] theorem setRun_cnt (s : State) (n : StreamId) (x : RunRecord) : (s.setRun n x).cnt = s.cnt := rfl
@[simp] theorem setRun_evu (s : State) (n : StreamId) (x : RunRecord) : (s.setRun n x).evu = s.evu := rfl
@[simp] theorem setRun_mga (s : State) (n : StreamId) (x : RunRecord) : (s.setRun n x).mga = s.mga := rfl
@[simp] theorem setRun_out (s : State) (n : StreamId) (x : RunRecord) : (s.setRun n x).out = s.out := rfl
@[simp] theorem setRun_openCount (s : State) (n : StreamId) (x : RunRecord) : (s.setRun n x).openCount = s.openCount := rfl
@[simp] theorem setRun_pending (s : State) (n : StreamId) (x : RunRecord) : (s.setRun n x).pending = s.pending := rfl
@[simp] theorem setRun_tx (s : State) (n : StreamId) (x : RunRecord) (k' : Lane) : (s.setRun n x).tx k' = s.tx k' := rfl
@[simp] theorem setRun_rx (s : State) (n : StreamId) (x : RunRecord) (k' : Lane) : (s.setRun n x).rx k' = s.rx k' := rfl
@[simp] theorem setRun_context (s : State) (n : StreamId) (x : RunRecord) (d : ContextId) : (s.setRun n x).context d = s.context d := rfl
@[simp] theorem setRun_egress (s : State) (n : StreamId) (x : RunRecord) (o : PortId) : (s.setRun n x).egress o = s.egress o := rfl
@[simp] theorem setRun_ingress (s : State) (n : StreamId) (x : RunRecord) (o : PortId) : (s.setRun n x).ingress o = s.ingress o := rfl
@[simp] theorem setRun_present (s : State) (n : StreamId) (x : RunRecord) (o : PortId) : (s.setRun n x).present o = s.present o := rfl
@[simp] theorem setRun_source (s : State) (n : StreamId) (x : RunRecord) (j : Source) : (s.setRun n x).source j = s.source j := rfl
@[simp] theorem setRun_channel (s : State) (n : StreamId) (x : RunRecord) (d : ChannelId) : (s.setRun n x).channel d = s.channel d := rfl
@[simp] theorem setRun_now (s : State) (n : StreamId) (x : RunRecord) : (s.setRun n x).now = s.now := rfl
@[simp] theorem setRun_buffer (s : State) (n : StreamId) (x : RunRecord) (a : Nat) : (s.setRun n x).buffer a = s.buffer a := rfl
@[simp] theorem setRun_counter (s : State) (n : StreamId) (x : RunRecord) (q : CounterRef) : (s.setRun n x).counter q = s.counter q := rfl
@[simp] theorem setRun_classQueue (s : State) (n : StreamId) (x : RunRecord) (k' : Lane) (h : Fin 4) : (s.setRun n x).classQueue k' h = s.classQueue k' h := rfl
@[simp] theorem setRun_view (s : State) (n : StreamId) (x : RunRecord) (k' : Lane) : (s.setRun n x).view k' = s.view k' := rfl
@[simp] theorem setRun_restarting (s : State) (n : StreamId) (x : RunRecord) : (s.setRun n x).restarting = s.restarting := rfl

@[simp] theorem setIngress_pins (s : State) (p : PortId) (x : List (List Byte)) : (s.setIngress p x).pins = s.pins := rfl
@[simp] theorem setIngress_lck (s : State) (p : PortId) (x : List (List Byte)) : (s.setIngress p x).lck = s.lck := rfl
@[simp] theorem setIngress_bfm (s : State) (p : PortId) (x : List (List Byte)) : (s.setIngress p x).bfm = s.bfm := rfl
@[simp] theorem setIngress_stb (s : State) (p : PortId) (x : List (List Byte)) : (s.setIngress p x).stb = s.stb := rfl
@[simp] theorem setIngress_ltx (s : State) (p : PortId) (x : List (List Byte)) : (s.setIngress p x).ltx = s.ltx := rfl
@[simp] theorem setIngress_lrx (s : State) (p : PortId) (x : List (List Byte)) : (s.setIngress p x).lrx = s.lrx := rfl
@[simp] theorem setIngress_mrg (s : State) (p : PortId) (x : List (List Byte)) : (s.setIngress p x).mrg = s.mrg := rfl
@[simp] theorem setIngress_psc (s : State) (p : PortId) (x : List (List Byte)) : (s.setIngress p x).psc = s.psc := rfl
@[simp] theorem setIngress_dlv (s : State) (p : PortId) (x : List (List Byte)) : (s.setIngress p x).dlv = s.dlv := rfl
@[simp] theorem setIngress_cnt (s : State) (p : PortId) (x : List (List Byte)) : (s.setIngress p x).cnt = s.cnt := rfl
@[simp] theorem setIngress_evu (s : State) (p : PortId) (x : List (List Byte)) : (s.setIngress p x).evu = s.evu := rfl
@[simp] theorem setIngress_mga (s : State) (p : PortId) (x : List (List Byte)) : (s.setIngress p x).mga = s.mga := rfl
@[simp] theorem setIngress_out (s : State) (p : PortId) (x : List (List Byte)) : (s.setIngress p x).out = s.out := rfl
@[simp] theorem setIngress_openCount (s : State) (p : PortId) (x : List (List Byte)) : (s.setIngress p x).openCount = s.openCount := rfl
@[simp] theorem setIngress_pending (s : State) (p : PortId) (x : List (List Byte)) : (s.setIngress p x).pending = s.pending := rfl
@[simp] theorem setIngress_entry (s : State) (p : PortId) (x : List (List Byte)) (m : StreamId) : (s.setIngress p x).entry m = s.entry m := rfl
@[simp] theorem setIngress_run (s : State) (p : PortId) (x : List (List Byte)) (m : StreamId) : (s.setIngress p x).run m = s.run m := rfl
@[simp] theorem setIngress_tx (s : State) (p : PortId) (x : List (List Byte)) (k' : Lane) : (s.setIngress p x).tx k' = s.tx k' := rfl
@[simp] theorem setIngress_rx (s : State) (p : PortId) (x : List (List Byte)) (k' : Lane) : (s.setIngress p x).rx k' = s.rx k' := rfl
@[simp] theorem setIngress_context (s : State) (p : PortId) (x : List (List Byte)) (d : ContextId) : (s.setIngress p x).context d = s.context d := rfl
@[simp] theorem setIngress_egress (s : State) (p : PortId) (x : List (List Byte)) (o : PortId) : (s.setIngress p x).egress o = s.egress o := rfl
@[simp] theorem setIngress_present (s : State) (p : PortId) (x : List (List Byte)) (o : PortId) : (s.setIngress p x).present o = s.present o := rfl
@[simp] theorem setIngress_source (s : State) (p : PortId) (x : List (List Byte)) (j : Source) : (s.setIngress p x).source j = s.source j := rfl
@[simp] theorem setIngress_channel (s : State) (p : PortId) (x : List (List Byte)) (d : ChannelId) : (s.setIngress p x).channel d = s.channel d := rfl
@[simp] theorem setIngress_now (s : State) (p : PortId) (x : List (List Byte)) : (s.setIngress p x).now = s.now := rfl
@[simp] theorem setIngress_buffer (s : State) (p : PortId) (x : List (List Byte)) (a : Nat) : (s.setIngress p x).buffer a = s.buffer a := rfl
@[simp] theorem setIngress_counter (s : State) (p : PortId) (x : List (List Byte)) (q : CounterRef) : (s.setIngress p x).counter q = s.counter q := rfl
@[simp] theorem setIngress_classQueue (s : State) (p : PortId) (x : List (List Byte)) (k' : Lane) (h : Fin 4) : (s.setIngress p x).classQueue k' h = s.classQueue k' h := rfl
@[simp] theorem setIngress_view (s : State) (p : PortId) (x : List (List Byte)) (k' : Lane) : (s.setIngress p x).view k' = s.view k' := rfl
@[simp] theorem setIngress_restarting (s : State) (p : PortId) (x : List (List Byte)) : (s.setIngress p x).restarting = s.restarting := rfl

@[simp] theorem setTx_pins (s : State) (l : Lane) (x : LaneTx) : (s.setTx l x).pins = s.pins := rfl
@[simp] theorem setTx_lck (s : State) (l : Lane) (x : LaneTx) : (s.setTx l x).lck = s.lck := rfl
@[simp] theorem setTx_bfm (s : State) (l : Lane) (x : LaneTx) : (s.setTx l x).bfm = s.bfm := rfl
@[simp] theorem setTx_stb (s : State) (l : Lane) (x : LaneTx) : (s.setTx l x).stb = s.stb := rfl
@[simp] theorem setTx_tin (s : State) (l : Lane) (x : LaneTx) : (s.setTx l x).tin = s.tin := rfl
@[simp] theorem setTx_lrx (s : State) (l : Lane) (x : LaneTx) : (s.setTx l x).lrx = s.lrx := rfl
@[simp] theorem setTx_mrg (s : State) (l : Lane) (x : LaneTx) : (s.setTx l x).mrg = s.mrg := rfl
@[simp] theorem setTx_psc (s : State) (l : Lane) (x : LaneTx) : (s.setTx l x).psc = s.psc := rfl
@[simp] theorem setTx_dlv (s : State) (l : Lane) (x : LaneTx) : (s.setTx l x).dlv = s.dlv := rfl
@[simp] theorem setTx_cnt (s : State) (l : Lane) (x : LaneTx) : (s.setTx l x).cnt = s.cnt := rfl
@[simp] theorem setTx_evu (s : State) (l : Lane) (x : LaneTx) : (s.setTx l x).evu = s.evu := rfl
@[simp] theorem setTx_mga (s : State) (l : Lane) (x : LaneTx) : (s.setTx l x).mga = s.mga := rfl
@[simp] theorem setTx_out (s : State) (l : Lane) (x : LaneTx) : (s.setTx l x).out = s.out := rfl
@[simp] theorem setTx_openCount (s : State) (l : Lane) (x : LaneTx) : (s.setTx l x).openCount = s.openCount := rfl
@[simp] theorem setTx_pending (s : State) (l : Lane) (x : LaneTx) : (s.setTx l x).pending = s.pending := rfl
@[simp] theorem setTx_entry (s : State) (l : Lane) (x : LaneTx) (m : StreamId) : (s.setTx l x).entry m = s.entry m := rfl
@[simp] theorem setTx_run (s : State) (l : Lane) (x : LaneTx) (m : StreamId) : (s.setTx l x).run m = s.run m := rfl
@[simp] theorem setTx_rx (s : State) (l : Lane) (x : LaneTx) (k' : Lane) : (s.setTx l x).rx k' = s.rx k' := rfl
@[simp] theorem setTx_context (s : State) (l : Lane) (x : LaneTx) (d : ContextId) : (s.setTx l x).context d = s.context d := rfl
@[simp] theorem setTx_egress (s : State) (l : Lane) (x : LaneTx) (o : PortId) : (s.setTx l x).egress o = s.egress o := rfl
@[simp] theorem setTx_ingress (s : State) (l : Lane) (x : LaneTx) (o : PortId) : (s.setTx l x).ingress o = s.ingress o := rfl
@[simp] theorem setTx_present (s : State) (l : Lane) (x : LaneTx) (o : PortId) : (s.setTx l x).present o = s.present o := rfl
@[simp] theorem setTx_source (s : State) (l : Lane) (x : LaneTx) (j : Source) : (s.setTx l x).source j = s.source j := rfl
@[simp] theorem setTx_channel (s : State) (l : Lane) (x : LaneTx) (d : ChannelId) : (s.setTx l x).channel d = s.channel d := rfl
@[simp] theorem setTx_now (s : State) (l : Lane) (x : LaneTx) : (s.setTx l x).now = s.now := rfl
@[simp] theorem setTx_buffer (s : State) (l : Lane) (x : LaneTx) (a : Nat) : (s.setTx l x).buffer a = s.buffer a := rfl
@[simp] theorem setTx_counter (s : State) (l : Lane) (x : LaneTx) (q : CounterRef) : (s.setTx l x).counter q = s.counter q := rfl
@[simp] theorem setTx_restarting (s : State) (l : Lane) (x : LaneTx) : (s.setTx l x).restarting = s.restarting := rfl

@[simp] theorem setRx_pins (s : State) (l : Lane) (x : LaneRx) : (s.setRx l x).pins = s.pins := rfl
@[simp] theorem setRx_lck (s : State) (l : Lane) (x : LaneRx) : (s.setRx l x).lck = s.lck := rfl
@[simp] theorem setRx_bfm (s : State) (l : Lane) (x : LaneRx) : (s.setRx l x).bfm = s.bfm := rfl
@[simp] theorem setRx_stb (s : State) (l : Lane) (x : LaneRx) : (s.setRx l x).stb = s.stb := rfl
@[simp] theorem setRx_tin (s : State) (l : Lane) (x : LaneRx) : (s.setRx l x).tin = s.tin := rfl
@[simp] theorem setRx_ltx (s : State) (l : Lane) (x : LaneRx) : (s.setRx l x).ltx = s.ltx := rfl
@[simp] theorem setRx_mrg (s : State) (l : Lane) (x : LaneRx) : (s.setRx l x).mrg = s.mrg := rfl
@[simp] theorem setRx_psc (s : State) (l : Lane) (x : LaneRx) : (s.setRx l x).psc = s.psc := rfl
@[simp] theorem setRx_dlv (s : State) (l : Lane) (x : LaneRx) : (s.setRx l x).dlv = s.dlv := rfl
@[simp] theorem setRx_cnt (s : State) (l : Lane) (x : LaneRx) : (s.setRx l x).cnt = s.cnt := rfl
@[simp] theorem setRx_evu (s : State) (l : Lane) (x : LaneRx) : (s.setRx l x).evu = s.evu := rfl
@[simp] theorem setRx_mga (s : State) (l : Lane) (x : LaneRx) : (s.setRx l x).mga = s.mga := rfl
@[simp] theorem setRx_out (s : State) (l : Lane) (x : LaneRx) : (s.setRx l x).out = s.out := rfl
@[simp] theorem setRx_openCount (s : State) (l : Lane) (x : LaneRx) : (s.setRx l x).openCount = s.openCount := rfl
@[simp] theorem setRx_pending (s : State) (l : Lane) (x : LaneRx) : (s.setRx l x).pending = s.pending := rfl
@[simp] theorem setRx_entry (s : State) (l : Lane) (x : LaneRx) (m : StreamId) : (s.setRx l x).entry m = s.entry m := rfl
@[simp] theorem setRx_run (s : State) (l : Lane) (x : LaneRx) (m : StreamId) : (s.setRx l x).run m = s.run m := rfl
@[simp] theorem setRx_tx (s : State) (l : Lane) (x : LaneRx) (k' : Lane) : (s.setRx l x).tx k' = s.tx k' := rfl
@[simp] theorem setRx_context (s : State) (l : Lane) (x : LaneRx) (d : ContextId) : (s.setRx l x).context d = s.context d := rfl
@[simp] theorem setRx_egress (s : State) (l : Lane) (x : LaneRx) (o : PortId) : (s.setRx l x).egress o = s.egress o := rfl
@[simp] theorem setRx_ingress (s : State) (l : Lane) (x : LaneRx) (o : PortId) : (s.setRx l x).ingress o = s.ingress o := rfl
@[simp] theorem setRx_present (s : State) (l : Lane) (x : LaneRx) (o : PortId) : (s.setRx l x).present o = s.present o := rfl
@[simp] theorem setRx_source (s : State) (l : Lane) (x : LaneRx) (j : Source) : (s.setRx l x).source j = s.source j := rfl
@[simp] theorem setRx_channel (s : State) (l : Lane) (x : LaneRx) (d : ChannelId) : (s.setRx l x).channel d = s.channel d := rfl
@[simp] theorem setRx_now (s : State) (l : Lane) (x : LaneRx) : (s.setRx l x).now = s.now := rfl
@[simp] theorem setRx_buffer (s : State) (l : Lane) (x : LaneRx) (a : Nat) : (s.setRx l x).buffer a = s.buffer a := rfl
@[simp] theorem setRx_counter (s : State) (l : Lane) (x : LaneRx) (q : CounterRef) : (s.setRx l x).counter q = s.counter q := rfl
@[simp] theorem setRx_classQueue (s : State) (l : Lane) (x : LaneRx) (k' : Lane) (h : Fin 4) : (s.setRx l x).classQueue k' h = s.classQueue k' h := rfl
@[simp] theorem setRx_view (s : State) (l : Lane) (x : LaneRx) (k' : Lane) : (s.setRx l x).view k' = s.view k' := rfl
@[simp] theorem setRx_restarting (s : State) (l : Lane) (x : LaneRx) : (s.setRx l x).restarting = s.restarting := rfl

@[simp] theorem setPeer_pins (s : State) (x : PeerReport) : (s.setPeer x).pins = s.pins := rfl
@[simp] theorem setPeer_lck (s : State) (x : PeerReport) : (s.setPeer x).lck = s.lck := rfl
@[simp] theorem setPeer_bfm (s : State) (x : PeerReport) : (s.setPeer x).bfm = s.bfm := rfl
@[simp] theorem setPeer_stb (s : State) (x : PeerReport) : (s.setPeer x).stb = s.stb := rfl
@[simp] theorem setPeer_tin (s : State) (x : PeerReport) : (s.setPeer x).tin = s.tin := rfl
@[simp] theorem setPeer_ltx (s : State) (x : PeerReport) : (s.setPeer x).ltx = s.ltx := rfl
@[simp] theorem setPeer_mrg (s : State) (x : PeerReport) : (s.setPeer x).mrg = s.mrg := rfl
@[simp] theorem setPeer_psc (s : State) (x : PeerReport) : (s.setPeer x).psc = s.psc := rfl
@[simp] theorem setPeer_dlv (s : State) (x : PeerReport) : (s.setPeer x).dlv = s.dlv := rfl
@[simp] theorem setPeer_cnt (s : State) (x : PeerReport) : (s.setPeer x).cnt = s.cnt := rfl
@[simp] theorem setPeer_evu (s : State) (x : PeerReport) : (s.setPeer x).evu = s.evu := rfl
@[simp] theorem setPeer_mga (s : State) (x : PeerReport) : (s.setPeer x).mga = s.mga := rfl
@[simp] theorem setPeer_out (s : State) (x : PeerReport) : (s.setPeer x).out = s.out := rfl
@[simp] theorem setPeer_openCount (s : State) (x : PeerReport) : (s.setPeer x).openCount = s.openCount := rfl
@[simp] theorem setPeer_pending (s : State) (x : PeerReport) : (s.setPeer x).pending = s.pending := rfl
@[simp] theorem setPeer_entry (s : State) (x : PeerReport) (m : StreamId) : (s.setPeer x).entry m = s.entry m := rfl
@[simp] theorem setPeer_run (s : State) (x : PeerReport) (m : StreamId) : (s.setPeer x).run m = s.run m := rfl
@[simp] theorem setPeer_tx (s : State) (x : PeerReport) (k' : Lane) : (s.setPeer x).tx k' = s.tx k' := rfl
@[simp] theorem setPeer_context (s : State) (x : PeerReport) (d : ContextId) : (s.setPeer x).context d = s.context d := rfl
@[simp] theorem setPeer_egress (s : State) (x : PeerReport) (o : PortId) : (s.setPeer x).egress o = s.egress o := rfl
@[simp] theorem setPeer_ingress (s : State) (x : PeerReport) (o : PortId) : (s.setPeer x).ingress o = s.ingress o := rfl
@[simp] theorem setPeer_present (s : State) (x : PeerReport) (o : PortId) : (s.setPeer x).present o = s.present o := rfl
@[simp] theorem setPeer_source (s : State) (x : PeerReport) (j : Source) : (s.setPeer x).source j = s.source j := rfl
@[simp] theorem setPeer_channel (s : State) (x : PeerReport) (d : ChannelId) : (s.setPeer x).channel d = s.channel d := rfl
@[simp] theorem setPeer_now (s : State) (x : PeerReport) : (s.setPeer x).now = s.now := rfl
@[simp] theorem setPeer_buffer (s : State) (x : PeerReport) (a : Nat) : (s.setPeer x).buffer a = s.buffer a := rfl
@[simp] theorem setPeer_counter (s : State) (x : PeerReport) (q : CounterRef) : (s.setPeer x).counter q = s.counter q := rfl
@[simp] theorem setPeer_classQueue (s : State) (x : PeerReport) (k' : Lane) (h : Fin 4) : (s.setPeer x).classQueue k' h = s.classQueue k' h := rfl
@[simp] theorem setPeer_view (s : State) (x : PeerReport) (k' : Lane) : (s.setPeer x).view k' = s.view k' := rfl
@[simp] theorem setPeer_restarting (s : State) (x : PeerReport) : (s.setPeer x).restarting = s.restarting := rfl

@[simp] theorem setContext_pins (s : State) (c : ContextId) (x : Context) : (s.setContext c x).pins = s.pins := rfl
@[simp] theorem setContext_lck (s : State) (c : ContextId) (x : Context) : (s.setContext c x).lck = s.lck := rfl
@[simp] theorem setContext_bfm (s : State) (c : ContextId) (x : Context) : (s.setContext c x).bfm = s.bfm := rfl
@[simp] theorem setContext_stb (s : State) (c : ContextId) (x : Context) : (s.setContext c x).stb = s.stb := rfl
@[simp] theorem setContext_tin (s : State) (c : ContextId) (x : Context) : (s.setContext c x).tin = s.tin := rfl
@[simp] theorem setContext_ltx (s : State) (c : ContextId) (x : Context) : (s.setContext c x).ltx = s.ltx := rfl
@[simp] theorem setContext_lrx (s : State) (c : ContextId) (x : Context) : (s.setContext c x).lrx = s.lrx := rfl
@[simp] theorem setContext_psc (s : State) (c : ContextId) (x : Context) : (s.setContext c x).psc = s.psc := rfl
@[simp] theorem setContext_dlv (s : State) (c : ContextId) (x : Context) : (s.setContext c x).dlv = s.dlv := rfl
@[simp] theorem setContext_cnt (s : State) (c : ContextId) (x : Context) : (s.setContext c x).cnt = s.cnt := rfl
@[simp] theorem setContext_evu (s : State) (c : ContextId) (x : Context) : (s.setContext c x).evu = s.evu := rfl
@[simp] theorem setContext_mga (s : State) (c : ContextId) (x : Context) : (s.setContext c x).mga = s.mga := rfl
@[simp] theorem setContext_out (s : State) (c : ContextId) (x : Context) : (s.setContext c x).out = s.out := rfl
@[simp] theorem setContext_openCount (s : State) (c : ContextId) (x : Context) : (s.setContext c x).openCount = s.openCount := rfl
@[simp] theorem setContext_pending (s : State) (c : ContextId) (x : Context) : (s.setContext c x).pending = s.pending := rfl
@[simp] theorem setContext_entry (s : State) (c : ContextId) (x : Context) (m : StreamId) : (s.setContext c x).entry m = s.entry m := rfl
@[simp] theorem setContext_run (s : State) (c : ContextId) (x : Context) (m : StreamId) : (s.setContext c x).run m = s.run m := rfl
@[simp] theorem setContext_tx (s : State) (c : ContextId) (x : Context) (k' : Lane) : (s.setContext c x).tx k' = s.tx k' := rfl
@[simp] theorem setContext_rx (s : State) (c : ContextId) (x : Context) (k' : Lane) : (s.setContext c x).rx k' = s.rx k' := rfl
@[simp] theorem setContext_egress (s : State) (c : ContextId) (x : Context) (o : PortId) : (s.setContext c x).egress o = s.egress o := rfl
@[simp] theorem setContext_ingress (s : State) (c : ContextId) (x : Context) (o : PortId) : (s.setContext c x).ingress o = s.ingress o := rfl
@[simp] theorem setContext_present (s : State) (c : ContextId) (x : Context) (o : PortId) : (s.setContext c x).present o = s.present o := rfl
@[simp] theorem setContext_source (s : State) (c : ContextId) (x : Context) (j : Source) : (s.setContext c x).source j = s.source j := rfl
@[simp] theorem setContext_channel (s : State) (c : ContextId) (x : Context) (d : ChannelId) : (s.setContext c x).channel d = s.channel d := rfl
@[simp] theorem setContext_now (s : State) (c : ContextId) (x : Context) : (s.setContext c x).now = s.now := rfl
@[simp] theorem setContext_buffer (s : State) (c : ContextId) (x : Context) (a : Nat) : (s.setContext c x).buffer a = s.buffer a := rfl
@[simp] theorem setContext_counter (s : State) (c : ContextId) (x : Context) (q : CounterRef) : (s.setContext c x).counter q = s.counter q := rfl
@[simp] theorem setContext_classQueue (s : State) (c : ContextId) (x : Context) (k' : Lane) (h : Fin 4) : (s.setContext c x).classQueue k' h = s.classQueue k' h := rfl
@[simp] theorem setContext_view (s : State) (c : ContextId) (x : Context) (k' : Lane) : (s.setContext c x).view k' = s.view k' := rfl
@[simp] theorem setContext_restarting (s : State) (c : ContextId) (x : Context) : (s.setContext c x).restarting = s.restarting := rfl

@[simp] theorem setPsc_pins (s : State) (x : PostureController) : (s.setPsc x).pins = s.pins := rfl
@[simp] theorem setPsc_lck (s : State) (x : PostureController) : (s.setPsc x).lck = s.lck := rfl
@[simp] theorem setPsc_bfm (s : State) (x : PostureController) : (s.setPsc x).bfm = s.bfm := rfl
@[simp] theorem setPsc_stb (s : State) (x : PostureController) : (s.setPsc x).stb = s.stb := rfl
@[simp] theorem setPsc_tin (s : State) (x : PostureController) : (s.setPsc x).tin = s.tin := rfl
@[simp] theorem setPsc_ltx (s : State) (x : PostureController) : (s.setPsc x).ltx = s.ltx := rfl
@[simp] theorem setPsc_lrx (s : State) (x : PostureController) : (s.setPsc x).lrx = s.lrx := rfl
@[simp] theorem setPsc_mrg (s : State) (x : PostureController) : (s.setPsc x).mrg = s.mrg := rfl
@[simp] theorem setPsc_psc (s : State) (x : PostureController) : (s.setPsc x).psc = x := rfl
@[simp] theorem setPsc_dlv (s : State) (x : PostureController) : (s.setPsc x).dlv = s.dlv := rfl
@[simp] theorem setPsc_cnt (s : State) (x : PostureController) : (s.setPsc x).cnt = s.cnt := rfl
@[simp] theorem setPsc_evu (s : State) (x : PostureController) : (s.setPsc x).evu = s.evu := rfl
@[simp] theorem setPsc_mga (s : State) (x : PostureController) : (s.setPsc x).mga = s.mga := rfl
@[simp] theorem setPsc_out (s : State) (x : PostureController) : (s.setPsc x).out = s.out := rfl
@[simp] theorem setPsc_openCount (s : State) (x : PostureController) : (s.setPsc x).openCount = s.openCount := rfl
@[simp] theorem setPsc_pending (s : State) (x : PostureController) : (s.setPsc x).pending = s.pending := rfl
@[simp] theorem setPsc_entry (s : State) (x : PostureController) (m : StreamId) : (s.setPsc x).entry m = s.entry m := rfl
@[simp] theorem setPsc_run (s : State) (x : PostureController) (m : StreamId) : (s.setPsc x).run m = s.run m := rfl
@[simp] theorem setPsc_tx (s : State) (x : PostureController) (k' : Lane) : (s.setPsc x).tx k' = s.tx k' := rfl
@[simp] theorem setPsc_rx (s : State) (x : PostureController) (k' : Lane) : (s.setPsc x).rx k' = s.rx k' := rfl
@[simp] theorem setPsc_context (s : State) (x : PostureController) (d : ContextId) : (s.setPsc x).context d = s.context d := rfl
@[simp] theorem setPsc_egress (s : State) (x : PostureController) (o : PortId) : (s.setPsc x).egress o = s.egress o := rfl
@[simp] theorem setPsc_ingress (s : State) (x : PostureController) (o : PortId) : (s.setPsc x).ingress o = s.ingress o := rfl
@[simp] theorem setPsc_present (s : State) (x : PostureController) (o : PortId) : (s.setPsc x).present o = s.present o := rfl
@[simp] theorem setPsc_source (s : State) (x : PostureController) (j : Source) : (s.setPsc x).source j = s.source j := rfl
@[simp] theorem setPsc_channel (s : State) (x : PostureController) (d : ChannelId) : (s.setPsc x).channel d = s.channel d := rfl
@[simp] theorem setPsc_now (s : State) (x : PostureController) : (s.setPsc x).now = s.now := rfl
@[simp] theorem setPsc_buffer (s : State) (x : PostureController) (a : Nat) : (s.setPsc x).buffer a = s.buffer a := rfl
@[simp] theorem setPsc_counter (s : State) (x : PostureController) (q : CounterRef) : (s.setPsc x).counter q = s.counter q := rfl
@[simp] theorem setPsc_classQueue (s : State) (x : PostureController) (k' : Lane) (h : Fin 4) : (s.setPsc x).classQueue k' h = s.classQueue k' h := rfl
@[simp] theorem setPsc_view (s : State) (x : PostureController) (k' : Lane) : (s.setPsc x).view k' = s.view k' := rfl
@[simp] theorem setPsc_restarting (s : State) (x : PostureController) : (s.setPsc x).restarting = s.restarting := rfl

@[simp] theorem setEgress_pins (s : State) (p : PortId) (x : List EgressEntry) : (s.setEgress p x).pins = s.pins := rfl
@[simp] theorem setEgress_lck (s : State) (p : PortId) (x : List EgressEntry) : (s.setEgress p x).lck = s.lck := rfl
@[simp] theorem setEgress_bfm (s : State) (p : PortId) (x : List EgressEntry) : (s.setEgress p x).bfm = s.bfm := rfl
@[simp] theorem setEgress_stb (s : State) (p : PortId) (x : List EgressEntry) : (s.setEgress p x).stb = s.stb := rfl
@[simp] theorem setEgress_tin (s : State) (p : PortId) (x : List EgressEntry) : (s.setEgress p x).tin = s.tin := rfl
@[simp] theorem setEgress_ltx (s : State) (p : PortId) (x : List EgressEntry) : (s.setEgress p x).ltx = s.ltx := rfl
@[simp] theorem setEgress_lrx (s : State) (p : PortId) (x : List EgressEntry) : (s.setEgress p x).lrx = s.lrx := rfl
@[simp] theorem setEgress_mrg (s : State) (p : PortId) (x : List EgressEntry) : (s.setEgress p x).mrg = s.mrg := rfl
@[simp] theorem setEgress_psc (s : State) (p : PortId) (x : List EgressEntry) : (s.setEgress p x).psc = s.psc := rfl
@[simp] theorem setEgress_cnt (s : State) (p : PortId) (x : List EgressEntry) : (s.setEgress p x).cnt = s.cnt := rfl
@[simp] theorem setEgress_evu (s : State) (p : PortId) (x : List EgressEntry) : (s.setEgress p x).evu = s.evu := rfl
@[simp] theorem setEgress_mga (s : State) (p : PortId) (x : List EgressEntry) : (s.setEgress p x).mga = s.mga := rfl
@[simp] theorem setEgress_out (s : State) (p : PortId) (x : List EgressEntry) : (s.setEgress p x).out = s.out := rfl
@[simp] theorem setEgress_openCount (s : State) (p : PortId) (x : List EgressEntry) : (s.setEgress p x).openCount = s.openCount := rfl
@[simp] theorem setEgress_pending (s : State) (p : PortId) (x : List EgressEntry) : (s.setEgress p x).pending = s.pending := rfl
@[simp] theorem setEgress_entry (s : State) (p : PortId) (x : List EgressEntry) (m : StreamId) : (s.setEgress p x).entry m = s.entry m := rfl
@[simp] theorem setEgress_run (s : State) (p : PortId) (x : List EgressEntry) (m : StreamId) : (s.setEgress p x).run m = s.run m := rfl
@[simp] theorem setEgress_tx (s : State) (p : PortId) (x : List EgressEntry) (k' : Lane) : (s.setEgress p x).tx k' = s.tx k' := rfl
@[simp] theorem setEgress_rx (s : State) (p : PortId) (x : List EgressEntry) (k' : Lane) : (s.setEgress p x).rx k' = s.rx k' := rfl
@[simp] theorem setEgress_context (s : State) (p : PortId) (x : List EgressEntry) (d : ContextId) : (s.setEgress p x).context d = s.context d := rfl
@[simp] theorem setEgress_ingress (s : State) (p : PortId) (x : List EgressEntry) (o : PortId) : (s.setEgress p x).ingress o = s.ingress o := rfl
@[simp] theorem setEgress_present (s : State) (p : PortId) (x : List EgressEntry) (o : PortId) : (s.setEgress p x).present o = s.present o := rfl
@[simp] theorem setEgress_source (s : State) (p : PortId) (x : List EgressEntry) (j : Source) : (s.setEgress p x).source j = s.source j := rfl
@[simp] theorem setEgress_channel (s : State) (p : PortId) (x : List EgressEntry) (d : ChannelId) : (s.setEgress p x).channel d = s.channel d := rfl
@[simp] theorem setEgress_now (s : State) (p : PortId) (x : List EgressEntry) : (s.setEgress p x).now = s.now := rfl
@[simp] theorem setEgress_buffer (s : State) (p : PortId) (x : List EgressEntry) (a : Nat) : (s.setEgress p x).buffer a = s.buffer a := rfl
@[simp] theorem setEgress_counter (s : State) (p : PortId) (x : List EgressEntry) (q : CounterRef) : (s.setEgress p x).counter q = s.counter q := rfl
@[simp] theorem setEgress_classQueue (s : State) (p : PortId) (x : List EgressEntry) (k' : Lane) (h : Fin 4) : (s.setEgress p x).classQueue k' h = s.classQueue k' h := rfl
@[simp] theorem setEgress_view (s : State) (p : PortId) (x : List EgressEntry) (k' : Lane) : (s.setEgress p x).view k' = s.view k' := rfl
@[simp] theorem setEgress_restarting (s : State) (p : PortId) (x : List EgressEntry) : (s.setEgress p x).restarting = s.restarting := rfl

@[simp] theorem setCnt_pins (s : State) (x : CounterBlock) : (s.setCnt x).pins = s.pins := rfl
@[simp] theorem setCnt_lck (s : State) (x : CounterBlock) : (s.setCnt x).lck = s.lck := rfl
@[simp] theorem setCnt_bfm (s : State) (x : CounterBlock) : (s.setCnt x).bfm = s.bfm := rfl
@[simp] theorem setCnt_stb (s : State) (x : CounterBlock) : (s.setCnt x).stb = s.stb := rfl
@[simp] theorem setCnt_tin (s : State) (x : CounterBlock) : (s.setCnt x).tin = s.tin := rfl
@[simp] theorem setCnt_ltx (s : State) (x : CounterBlock) : (s.setCnt x).ltx = s.ltx := rfl
@[simp] theorem setCnt_lrx (s : State) (x : CounterBlock) : (s.setCnt x).lrx = s.lrx := rfl
@[simp] theorem setCnt_mrg (s : State) (x : CounterBlock) : (s.setCnt x).mrg = s.mrg := rfl
@[simp] theorem setCnt_psc (s : State) (x : CounterBlock) : (s.setCnt x).psc = s.psc := rfl
@[simp] theorem setCnt_dlv (s : State) (x : CounterBlock) : (s.setCnt x).dlv = s.dlv := rfl
@[simp] theorem setCnt_cnt (s : State) (x : CounterBlock) : (s.setCnt x).cnt = x := rfl
@[simp] theorem setCnt_evu (s : State) (x : CounterBlock) : (s.setCnt x).evu = s.evu := rfl
@[simp] theorem setCnt_mga (s : State) (x : CounterBlock) : (s.setCnt x).mga = s.mga := rfl
@[simp] theorem setCnt_out (s : State) (x : CounterBlock) : (s.setCnt x).out = s.out := rfl
@[simp] theorem setCnt_openCount (s : State) (x : CounterBlock) : (s.setCnt x).openCount = s.openCount := rfl
@[simp] theorem setCnt_pending (s : State) (x : CounterBlock) : (s.setCnt x).pending = s.pending := rfl
@[simp] theorem setCnt_entry (s : State) (x : CounterBlock) (m : StreamId) : (s.setCnt x).entry m = s.entry m := rfl
@[simp] theorem setCnt_run (s : State) (x : CounterBlock) (m : StreamId) : (s.setCnt x).run m = s.run m := rfl
@[simp] theorem setCnt_tx (s : State) (x : CounterBlock) (k' : Lane) : (s.setCnt x).tx k' = s.tx k' := rfl
@[simp] theorem setCnt_rx (s : State) (x : CounterBlock) (k' : Lane) : (s.setCnt x).rx k' = s.rx k' := rfl
@[simp] theorem setCnt_context (s : State) (x : CounterBlock) (d : ContextId) : (s.setCnt x).context d = s.context d := rfl
@[simp] theorem setCnt_egress (s : State) (x : CounterBlock) (o : PortId) : (s.setCnt x).egress o = s.egress o := rfl
@[simp] theorem setCnt_ingress (s : State) (x : CounterBlock) (o : PortId) : (s.setCnt x).ingress o = s.ingress o := rfl
@[simp] theorem setCnt_present (s : State) (x : CounterBlock) (o : PortId) : (s.setCnt x).present o = s.present o := rfl
@[simp] theorem setCnt_source (s : State) (x : CounterBlock) (j : Source) : (s.setCnt x).source j = s.source j := rfl
@[simp] theorem setCnt_channel (s : State) (x : CounterBlock) (d : ChannelId) : (s.setCnt x).channel d = s.channel d := rfl
@[simp] theorem setCnt_now (s : State) (x : CounterBlock) : (s.setCnt x).now = s.now := rfl
@[simp] theorem setCnt_buffer (s : State) (x : CounterBlock) (a : Nat) : (s.setCnt x).buffer a = s.buffer a := rfl
@[simp] theorem setCnt_classQueue (s : State) (x : CounterBlock) (k' : Lane) (h : Fin 4) : (s.setCnt x).classQueue k' h = s.classQueue k' h := rfl
@[simp] theorem setCnt_view (s : State) (x : CounterBlock) (k' : Lane) : (s.setCnt x).view k' = s.view k' := rfl
@[simp] theorem setCnt_restarting (s : State) (x : CounterBlock) : (s.setCnt x).restarting = s.restarting := rfl

@[simp] theorem setSource_pins (s : State) (i : Source) (x : SourceRecord) : (s.setSource i x).pins = s.pins := rfl
@[simp] theorem setSource_lck (s : State) (i : Source) (x : SourceRecord) : (s.setSource i x).lck = s.lck := rfl
@[simp] theorem setSource_bfm (s : State) (i : Source) (x : SourceRecord) : (s.setSource i x).bfm = s.bfm := rfl
@[simp] theorem setSource_stb (s : State) (i : Source) (x : SourceRecord) : (s.setSource i x).stb = s.stb := rfl
@[simp] theorem setSource_tin (s : State) (i : Source) (x : SourceRecord) : (s.setSource i x).tin = s.tin := rfl
@[simp] theorem setSource_ltx (s : State) (i : Source) (x : SourceRecord) : (s.setSource i x).ltx = s.ltx := rfl
@[simp] theorem setSource_lrx (s : State) (i : Source) (x : SourceRecord) : (s.setSource i x).lrx = s.lrx := rfl
@[simp] theorem setSource_mrg (s : State) (i : Source) (x : SourceRecord) : (s.setSource i x).mrg = s.mrg := rfl
@[simp] theorem setSource_psc (s : State) (i : Source) (x : SourceRecord) : (s.setSource i x).psc = s.psc := rfl
@[simp] theorem setSource_dlv (s : State) (i : Source) (x : SourceRecord) : (s.setSource i x).dlv = s.dlv := rfl
@[simp] theorem setSource_cnt (s : State) (i : Source) (x : SourceRecord) : (s.setSource i x).cnt = s.cnt := rfl
@[simp] theorem setSource_mga (s : State) (i : Source) (x : SourceRecord) : (s.setSource i x).mga = s.mga := rfl
@[simp] theorem setSource_out (s : State) (i : Source) (x : SourceRecord) : (s.setSource i x).out = s.out := rfl
@[simp] theorem setSource_openCount (s : State) (i : Source) (x : SourceRecord) : (s.setSource i x).openCount = s.openCount := rfl
@[simp] theorem setSource_pending (s : State) (i : Source) (x : SourceRecord) : (s.setSource i x).pending = s.pending := rfl
@[simp] theorem setSource_entry (s : State) (i : Source) (x : SourceRecord) (m : StreamId) : (s.setSource i x).entry m = s.entry m := rfl
@[simp] theorem setSource_run (s : State) (i : Source) (x : SourceRecord) (m : StreamId) : (s.setSource i x).run m = s.run m := rfl
@[simp] theorem setSource_tx (s : State) (i : Source) (x : SourceRecord) (k' : Lane) : (s.setSource i x).tx k' = s.tx k' := rfl
@[simp] theorem setSource_rx (s : State) (i : Source) (x : SourceRecord) (k' : Lane) : (s.setSource i x).rx k' = s.rx k' := rfl
@[simp] theorem setSource_context (s : State) (i : Source) (x : SourceRecord) (d : ContextId) : (s.setSource i x).context d = s.context d := rfl
@[simp] theorem setSource_egress (s : State) (i : Source) (x : SourceRecord) (o : PortId) : (s.setSource i x).egress o = s.egress o := rfl
@[simp] theorem setSource_ingress (s : State) (i : Source) (x : SourceRecord) (o : PortId) : (s.setSource i x).ingress o = s.ingress o := rfl
@[simp] theorem setSource_present (s : State) (i : Source) (x : SourceRecord) (o : PortId) : (s.setSource i x).present o = s.present o := rfl
@[simp] theorem setSource_now (s : State) (i : Source) (x : SourceRecord) : (s.setSource i x).now = s.now := rfl
@[simp] theorem setSource_buffer (s : State) (i : Source) (x : SourceRecord) (a : Nat) : (s.setSource i x).buffer a = s.buffer a := rfl
@[simp] theorem setSource_counter (s : State) (i : Source) (x : SourceRecord) (q : CounterRef) : (s.setSource i x).counter q = s.counter q := rfl
@[simp] theorem setSource_classQueue (s : State) (i : Source) (x : SourceRecord) (k' : Lane) (h : Fin 4) : (s.setSource i x).classQueue k' h = s.classQueue k' h := rfl
@[simp] theorem setSource_view (s : State) (i : Source) (x : SourceRecord) (k' : Lane) : (s.setSource i x).view k' = s.view k' := rfl
@[simp] theorem setSource_restarting (s : State) (i : Source) (x : SourceRecord) : (s.setSource i x).restarting = s.restarting := rfl

@[simp] theorem setFloor_pins (s : State) (f : Nat) : (s.setFloor f).pins = s.pins := rfl
@[simp] theorem setFloor_lck (s : State) (f : Nat) : (s.setFloor f).lck = s.lck := rfl
@[simp] theorem setFloor_bfm (s : State) (f : Nat) : (s.setFloor f).bfm = s.bfm := rfl
@[simp] theorem setFloor_stb (s : State) (f : Nat) : (s.setFloor f).stb = s.stb := rfl
@[simp] theorem setFloor_tin (s : State) (f : Nat) : (s.setFloor f).tin = s.tin := rfl
@[simp] theorem setFloor_ltx (s : State) (f : Nat) : (s.setFloor f).ltx = s.ltx := rfl
@[simp] theorem setFloor_lrx (s : State) (f : Nat) : (s.setFloor f).lrx = s.lrx := rfl
@[simp] theorem setFloor_mrg (s : State) (f : Nat) : (s.setFloor f).mrg = s.mrg := rfl
@[simp] theorem setFloor_psc (s : State) (f : Nat) : (s.setFloor f).psc = s.psc := rfl
@[simp] theorem setFloor_dlv (s : State) (f : Nat) : (s.setFloor f).dlv = s.dlv := rfl
@[simp] theorem setFloor_cnt (s : State) (f : Nat) : (s.setFloor f).cnt = s.cnt := rfl
@[simp] theorem setFloor_mga (s : State) (f : Nat) : (s.setFloor f).mga = s.mga := rfl
@[simp] theorem setFloor_out (s : State) (f : Nat) : (s.setFloor f).out = s.out := rfl
@[simp] theorem setFloor_openCount (s : State) (f : Nat) : (s.setFloor f).openCount = s.openCount := rfl
@[simp] theorem setFloor_pending (s : State) (f : Nat) : (s.setFloor f).pending = s.pending := rfl
@[simp] theorem setFloor_entry (s : State) (f : Nat) (m : StreamId) : (s.setFloor f).entry m = s.entry m := rfl
@[simp] theorem setFloor_run (s : State) (f : Nat) (m : StreamId) : (s.setFloor f).run m = s.run m := rfl
@[simp] theorem setFloor_tx (s : State) (f : Nat) (k' : Lane) : (s.setFloor f).tx k' = s.tx k' := rfl
@[simp] theorem setFloor_rx (s : State) (f : Nat) (k' : Lane) : (s.setFloor f).rx k' = s.rx k' := rfl
@[simp] theorem setFloor_context (s : State) (f : Nat) (d : ContextId) : (s.setFloor f).context d = s.context d := rfl
@[simp] theorem setFloor_egress (s : State) (f : Nat) (o : PortId) : (s.setFloor f).egress o = s.egress o := rfl
@[simp] theorem setFloor_ingress (s : State) (f : Nat) (o : PortId) : (s.setFloor f).ingress o = s.ingress o := rfl
@[simp] theorem setFloor_present (s : State) (f : Nat) (o : PortId) : (s.setFloor f).present o = s.present o := rfl
@[simp] theorem setFloor_now (s : State) (f : Nat) : (s.setFloor f).now = s.now := rfl
@[simp] theorem setFloor_buffer (s : State) (f : Nat) (a : Nat) : (s.setFloor f).buffer a = s.buffer a := rfl
@[simp] theorem setFloor_counter (s : State) (f : Nat) (q : CounterRef) : (s.setFloor f).counter q = s.counter q := rfl
@[simp] theorem setFloor_classQueue (s : State) (f : Nat) (k' : Lane) (h : Fin 4) : (s.setFloor f).classQueue k' h = s.classQueue k' h := rfl
@[simp] theorem setFloor_view (s : State) (f : Nat) (k' : Lane) : (s.setFloor f).view k' = s.view k' := rfl
@[simp] theorem setFloor_restarting (s : State) (f : Nat) : (s.setFloor f).restarting = s.restarting := rfl

@[simp] theorem setChannel_pins (s : State) (ch : ChannelId) (x : Channel) : (s.setChannel ch x).pins = s.pins := rfl
@[simp] theorem setChannel_lck (s : State) (ch : ChannelId) (x : Channel) : (s.setChannel ch x).lck = s.lck := rfl
@[simp] theorem setChannel_bfm (s : State) (ch : ChannelId) (x : Channel) : (s.setChannel ch x).bfm = s.bfm := rfl
@[simp] theorem setChannel_stb (s : State) (ch : ChannelId) (x : Channel) : (s.setChannel ch x).stb = s.stb := rfl
@[simp] theorem setChannel_tin (s : State) (ch : ChannelId) (x : Channel) : (s.setChannel ch x).tin = s.tin := rfl
@[simp] theorem setChannel_ltx (s : State) (ch : ChannelId) (x : Channel) : (s.setChannel ch x).ltx = s.ltx := rfl
@[simp] theorem setChannel_lrx (s : State) (ch : ChannelId) (x : Channel) : (s.setChannel ch x).lrx = s.lrx := rfl
@[simp] theorem setChannel_mrg (s : State) (ch : ChannelId) (x : Channel) : (s.setChannel ch x).mrg = s.mrg := rfl
@[simp] theorem setChannel_psc (s : State) (ch : ChannelId) (x : Channel) : (s.setChannel ch x).psc = s.psc := rfl
@[simp] theorem setChannel_dlv (s : State) (ch : ChannelId) (x : Channel) : (s.setChannel ch x).dlv = s.dlv := rfl
@[simp] theorem setChannel_cnt (s : State) (ch : ChannelId) (x : Channel) : (s.setChannel ch x).cnt = s.cnt := rfl
@[simp] theorem setChannel_mga (s : State) (ch : ChannelId) (x : Channel) : (s.setChannel ch x).mga = s.mga := rfl
@[simp] theorem setChannel_out (s : State) (ch : ChannelId) (x : Channel) : (s.setChannel ch x).out = s.out := rfl
@[simp] theorem setChannel_openCount (s : State) (ch : ChannelId) (x : Channel) : (s.setChannel ch x).openCount = s.openCount := rfl
@[simp] theorem setChannel_pending (s : State) (ch : ChannelId) (x : Channel) : (s.setChannel ch x).pending = s.pending := rfl
@[simp] theorem setChannel_entry (s : State) (ch : ChannelId) (x : Channel) (m : StreamId) : (s.setChannel ch x).entry m = s.entry m := rfl
@[simp] theorem setChannel_run (s : State) (ch : ChannelId) (x : Channel) (m : StreamId) : (s.setChannel ch x).run m = s.run m := rfl
@[simp] theorem setChannel_tx (s : State) (ch : ChannelId) (x : Channel) (k' : Lane) : (s.setChannel ch x).tx k' = s.tx k' := rfl
@[simp] theorem setChannel_rx (s : State) (ch : ChannelId) (x : Channel) (k' : Lane) : (s.setChannel ch x).rx k' = s.rx k' := rfl
@[simp] theorem setChannel_context (s : State) (ch : ChannelId) (x : Channel) (d : ContextId) : (s.setChannel ch x).context d = s.context d := rfl
@[simp] theorem setChannel_egress (s : State) (ch : ChannelId) (x : Channel) (o : PortId) : (s.setChannel ch x).egress o = s.egress o := rfl
@[simp] theorem setChannel_ingress (s : State) (ch : ChannelId) (x : Channel) (o : PortId) : (s.setChannel ch x).ingress o = s.ingress o := rfl
@[simp] theorem setChannel_present (s : State) (ch : ChannelId) (x : Channel) (o : PortId) : (s.setChannel ch x).present o = s.present o := rfl
@[simp] theorem setChannel_now (s : State) (ch : ChannelId) (x : Channel) : (s.setChannel ch x).now = s.now := rfl
@[simp] theorem setChannel_buffer (s : State) (ch : ChannelId) (x : Channel) (a : Nat) : (s.setChannel ch x).buffer a = s.buffer a := rfl
@[simp] theorem setChannel_counter (s : State) (ch : ChannelId) (x : Channel) (q : CounterRef) : (s.setChannel ch x).counter q = s.counter q := rfl
@[simp] theorem setChannel_classQueue (s : State) (ch : ChannelId) (x : Channel) (k' : Lane) (h : Fin 4) : (s.setChannel ch x).classQueue k' h = s.classQueue k' h := rfl
@[simp] theorem setChannel_view (s : State) (ch : ChannelId) (x : Channel) (k' : Lane) : (s.setChannel ch x).view k' = s.view k' := rfl
@[simp] theorem setChannel_restarting (s : State) (ch : ChannelId) (x : Channel) : (s.setChannel ch x).restarting = s.restarting := rfl

@[simp] theorem setMga_pins (s : State) (x : ManagementAgent) : (s.setMga x).pins = s.pins := rfl
@[simp] theorem setMga_lck (s : State) (x : ManagementAgent) : (s.setMga x).lck = s.lck := rfl
@[simp] theorem setMga_bfm (s : State) (x : ManagementAgent) : (s.setMga x).bfm = s.bfm := rfl
@[simp] theorem setMga_stb (s : State) (x : ManagementAgent) : (s.setMga x).stb = s.stb := rfl
@[simp] theorem setMga_tin (s : State) (x : ManagementAgent) : (s.setMga x).tin = s.tin := rfl
@[simp] theorem setMga_ltx (s : State) (x : ManagementAgent) : (s.setMga x).ltx = s.ltx := rfl
@[simp] theorem setMga_lrx (s : State) (x : ManagementAgent) : (s.setMga x).lrx = s.lrx := rfl
@[simp] theorem setMga_mrg (s : State) (x : ManagementAgent) : (s.setMga x).mrg = s.mrg := rfl
@[simp] theorem setMga_psc (s : State) (x : ManagementAgent) : (s.setMga x).psc = s.psc := rfl
@[simp] theorem setMga_dlv (s : State) (x : ManagementAgent) : (s.setMga x).dlv = s.dlv := rfl
@[simp] theorem setMga_cnt (s : State) (x : ManagementAgent) : (s.setMga x).cnt = s.cnt := rfl
@[simp] theorem setMga_evu (s : State) (x : ManagementAgent) : (s.setMga x).evu = s.evu := rfl
@[simp] theorem setMga_mga (s : State) (x : ManagementAgent) : (s.setMga x).mga = x := rfl
@[simp] theorem setMga_out (s : State) (x : ManagementAgent) : (s.setMga x).out = s.out := rfl
@[simp] theorem setMga_openCount (s : State) (x : ManagementAgent) : (s.setMga x).openCount = s.openCount := rfl
@[simp] theorem setMga_pending (s : State) (x : ManagementAgent) : (s.setMga x).pending = s.pending := rfl
@[simp] theorem setMga_entry (s : State) (x : ManagementAgent) (m : StreamId) : (s.setMga x).entry m = s.entry m := rfl
@[simp] theorem setMga_run (s : State) (x : ManagementAgent) (m : StreamId) : (s.setMga x).run m = s.run m := rfl
@[simp] theorem setMga_tx (s : State) (x : ManagementAgent) (k' : Lane) : (s.setMga x).tx k' = s.tx k' := rfl
@[simp] theorem setMga_rx (s : State) (x : ManagementAgent) (k' : Lane) : (s.setMga x).rx k' = s.rx k' := rfl
@[simp] theorem setMga_context (s : State) (x : ManagementAgent) (d : ContextId) : (s.setMga x).context d = s.context d := rfl
@[simp] theorem setMga_egress (s : State) (x : ManagementAgent) (o : PortId) : (s.setMga x).egress o = s.egress o := rfl
@[simp] theorem setMga_ingress (s : State) (x : ManagementAgent) (o : PortId) : (s.setMga x).ingress o = s.ingress o := rfl
@[simp] theorem setMga_present (s : State) (x : ManagementAgent) (o : PortId) : (s.setMga x).present o = s.present o := rfl
@[simp] theorem setMga_source (s : State) (x : ManagementAgent) (j : Source) : (s.setMga x).source j = s.source j := rfl
@[simp] theorem setMga_channel (s : State) (x : ManagementAgent) (d : ChannelId) : (s.setMga x).channel d = s.channel d := rfl
@[simp] theorem setMga_now (s : State) (x : ManagementAgent) : (s.setMga x).now = s.now := rfl
@[simp] theorem setMga_buffer (s : State) (x : ManagementAgent) (a : Nat) : (s.setMga x).buffer a = s.buffer a := rfl
@[simp] theorem setMga_counter (s : State) (x : ManagementAgent) (q : CounterRef) : (s.setMga x).counter q = s.counter q := rfl
@[simp] theorem setMga_classQueue (s : State) (x : ManagementAgent) (k' : Lane) (h : Fin 4) : (s.setMga x).classQueue k' h = s.classQueue k' h := rfl
@[simp] theorem setMga_view (s : State) (x : ManagementAgent) (k' : Lane) : (s.setMga x).view k' = s.view k' := rfl

@[simp] theorem setLaneOut_pins (s : State) (l : Lane) (x : List Byte) : (s.setLaneOut l x).pins = s.pins := rfl
@[simp] theorem setLaneOut_lck (s : State) (l : Lane) (x : List Byte) : (s.setLaneOut l x).lck = s.lck := rfl
@[simp] theorem setLaneOut_bfm (s : State) (l : Lane) (x : List Byte) : (s.setLaneOut l x).bfm = s.bfm := rfl
@[simp] theorem setLaneOut_stb (s : State) (l : Lane) (x : List Byte) : (s.setLaneOut l x).stb = s.stb := rfl
@[simp] theorem setLaneOut_tin (s : State) (l : Lane) (x : List Byte) : (s.setLaneOut l x).tin = s.tin := rfl
@[simp] theorem setLaneOut_ltx (s : State) (l : Lane) (x : List Byte) : (s.setLaneOut l x).ltx = s.ltx := rfl
@[simp] theorem setLaneOut_lrx (s : State) (l : Lane) (x : List Byte) : (s.setLaneOut l x).lrx = s.lrx := rfl
@[simp] theorem setLaneOut_mrg (s : State) (l : Lane) (x : List Byte) : (s.setLaneOut l x).mrg = s.mrg := rfl
@[simp] theorem setLaneOut_psc (s : State) (l : Lane) (x : List Byte) : (s.setLaneOut l x).psc = s.psc := rfl
@[simp] theorem setLaneOut_dlv (s : State) (l : Lane) (x : List Byte) : (s.setLaneOut l x).dlv = s.dlv := rfl
@[simp] theorem setLaneOut_cnt (s : State) (l : Lane) (x : List Byte) : (s.setLaneOut l x).cnt = s.cnt := rfl
@[simp] theorem setLaneOut_evu (s : State) (l : Lane) (x : List Byte) : (s.setLaneOut l x).evu = s.evu := rfl
@[simp] theorem setLaneOut_mga (s : State) (l : Lane) (x : List Byte) : (s.setLaneOut l x).mga = s.mga := rfl
@[simp] theorem setLaneOut_openCount (s : State) (l : Lane) (x : List Byte) : (s.setLaneOut l x).openCount = s.openCount := rfl
@[simp] theorem setLaneOut_pending (s : State) (l : Lane) (x : List Byte) : (s.setLaneOut l x).pending = s.pending := rfl
@[simp] theorem setLaneOut_entry (s : State) (l : Lane) (x : List Byte) (m : StreamId) : (s.setLaneOut l x).entry m = s.entry m := rfl
@[simp] theorem setLaneOut_run (s : State) (l : Lane) (x : List Byte) (m : StreamId) : (s.setLaneOut l x).run m = s.run m := rfl
@[simp] theorem setLaneOut_tx (s : State) (l : Lane) (x : List Byte) (k' : Lane) : (s.setLaneOut l x).tx k' = s.tx k' := rfl
@[simp] theorem setLaneOut_rx (s : State) (l : Lane) (x : List Byte) (k' : Lane) : (s.setLaneOut l x).rx k' = s.rx k' := rfl
@[simp] theorem setLaneOut_context (s : State) (l : Lane) (x : List Byte) (d : ContextId) : (s.setLaneOut l x).context d = s.context d := rfl
@[simp] theorem setLaneOut_egress (s : State) (l : Lane) (x : List Byte) (o : PortId) : (s.setLaneOut l x).egress o = s.egress o := rfl
@[simp] theorem setLaneOut_ingress (s : State) (l : Lane) (x : List Byte) (o : PortId) : (s.setLaneOut l x).ingress o = s.ingress o := rfl
@[simp] theorem setLaneOut_present (s : State) (l : Lane) (x : List Byte) (o : PortId) : (s.setLaneOut l x).present o = s.present o := rfl
@[simp] theorem setLaneOut_source (s : State) (l : Lane) (x : List Byte) (j : Source) : (s.setLaneOut l x).source j = s.source j := rfl
@[simp] theorem setLaneOut_channel (s : State) (l : Lane) (x : List Byte) (d : ChannelId) : (s.setLaneOut l x).channel d = s.channel d := rfl
@[simp] theorem setLaneOut_now (s : State) (l : Lane) (x : List Byte) : (s.setLaneOut l x).now = s.now := rfl
@[simp] theorem setLaneOut_buffer (s : State) (l : Lane) (x : List Byte) (a : Nat) : (s.setLaneOut l x).buffer a = s.buffer a := rfl
@[simp] theorem setLaneOut_counter (s : State) (l : Lane) (x : List Byte) (q : CounterRef) : (s.setLaneOut l x).counter q = s.counter q := rfl
@[simp] theorem setLaneOut_classQueue (s : State) (l : Lane) (x : List Byte) (k' : Lane) (h : Fin 4) : (s.setLaneOut l x).classQueue k' h = s.classQueue k' h := rfl
@[simp] theorem setLaneOut_view (s : State) (l : Lane) (x : List Byte) (k' : Lane) : (s.setLaneOut l x).view k' = s.view k' := rfl
@[simp] theorem setLaneOut_restarting (s : State) (l : Lane) (x : List Byte) : (s.setLaneOut l x).restarting = s.restarting := rfl

@[simp] theorem setPortOut_pins (s : State) (p : PortId) (x : List Byte) : (s.setPortOut p x).pins = s.pins := rfl
@[simp] theorem setPortOut_lck (s : State) (p : PortId) (x : List Byte) : (s.setPortOut p x).lck = s.lck := rfl
@[simp] theorem setPortOut_bfm (s : State) (p : PortId) (x : List Byte) : (s.setPortOut p x).bfm = s.bfm := rfl
@[simp] theorem setPortOut_stb (s : State) (p : PortId) (x : List Byte) : (s.setPortOut p x).stb = s.stb := rfl
@[simp] theorem setPortOut_tin (s : State) (p : PortId) (x : List Byte) : (s.setPortOut p x).tin = s.tin := rfl
@[simp] theorem setPortOut_ltx (s : State) (p : PortId) (x : List Byte) : (s.setPortOut p x).ltx = s.ltx := rfl
@[simp] theorem setPortOut_lrx (s : State) (p : PortId) (x : List Byte) : (s.setPortOut p x).lrx = s.lrx := rfl
@[simp] theorem setPortOut_mrg (s : State) (p : PortId) (x : List Byte) : (s.setPortOut p x).mrg = s.mrg := rfl
@[simp] theorem setPortOut_psc (s : State) (p : PortId) (x : List Byte) : (s.setPortOut p x).psc = s.psc := rfl
@[simp] theorem setPortOut_dlv (s : State) (p : PortId) (x : List Byte) : (s.setPortOut p x).dlv = s.dlv := rfl
@[simp] theorem setPortOut_cnt (s : State) (p : PortId) (x : List Byte) : (s.setPortOut p x).cnt = s.cnt := rfl
@[simp] theorem setPortOut_evu (s : State) (p : PortId) (x : List Byte) : (s.setPortOut p x).evu = s.evu := rfl
@[simp] theorem setPortOut_mga (s : State) (p : PortId) (x : List Byte) : (s.setPortOut p x).mga = s.mga := rfl
@[simp] theorem setPortOut_openCount (s : State) (p : PortId) (x : List Byte) : (s.setPortOut p x).openCount = s.openCount := rfl
@[simp] theorem setPortOut_pending (s : State) (p : PortId) (x : List Byte) : (s.setPortOut p x).pending = s.pending := rfl
@[simp] theorem setPortOut_entry (s : State) (p : PortId) (x : List Byte) (m : StreamId) : (s.setPortOut p x).entry m = s.entry m := rfl
@[simp] theorem setPortOut_run (s : State) (p : PortId) (x : List Byte) (m : StreamId) : (s.setPortOut p x).run m = s.run m := rfl
@[simp] theorem setPortOut_tx (s : State) (p : PortId) (x : List Byte) (k' : Lane) : (s.setPortOut p x).tx k' = s.tx k' := rfl
@[simp] theorem setPortOut_rx (s : State) (p : PortId) (x : List Byte) (k' : Lane) : (s.setPortOut p x).rx k' = s.rx k' := rfl
@[simp] theorem setPortOut_context (s : State) (p : PortId) (x : List Byte) (d : ContextId) : (s.setPortOut p x).context d = s.context d := rfl
@[simp] theorem setPortOut_egress (s : State) (p : PortId) (x : List Byte) (o : PortId) : (s.setPortOut p x).egress o = s.egress o := rfl
@[simp] theorem setPortOut_ingress (s : State) (p : PortId) (x : List Byte) (o : PortId) : (s.setPortOut p x).ingress o = s.ingress o := rfl
@[simp] theorem setPortOut_present (s : State) (p : PortId) (x : List Byte) (o : PortId) : (s.setPortOut p x).present o = s.present o := rfl
@[simp] theorem setPortOut_source (s : State) (p : PortId) (x : List Byte) (j : Source) : (s.setPortOut p x).source j = s.source j := rfl
@[simp] theorem setPortOut_channel (s : State) (p : PortId) (x : List Byte) (d : ChannelId) : (s.setPortOut p x).channel d = s.channel d := rfl
@[simp] theorem setPortOut_now (s : State) (p : PortId) (x : List Byte) : (s.setPortOut p x).now = s.now := rfl
@[simp] theorem setPortOut_buffer (s : State) (p : PortId) (x : List Byte) (a : Nat) : (s.setPortOut p x).buffer a = s.buffer a := rfl
@[simp] theorem setPortOut_counter (s : State) (p : PortId) (x : List Byte) (q : CounterRef) : (s.setPortOut p x).counter q = s.counter q := rfl
@[simp] theorem setPortOut_classQueue (s : State) (p : PortId) (x : List Byte) (k' : Lane) (h : Fin 4) : (s.setPortOut p x).classQueue k' h = s.classQueue k' h := rfl
@[simp] theorem setPortOut_view (s : State) (p : PortId) (x : List Byte) (k' : Lane) : (s.setPortOut p x).view k' = s.view k' := rfl
@[simp] theorem setPortOut_restarting (s : State) (p : PortId) (x : List Byte) : (s.setPortOut p x).restarting = s.restarting := rfl

@[simp] theorem setBuffer_pins (s : State) (b : Nat) (x : Buffer) : (s.setBuffer b x).pins = s.pins := rfl
@[simp] theorem setBuffer_lck (s : State) (b : Nat) (x : Buffer) : (s.setBuffer b x).lck = s.lck := rfl
@[simp] theorem setBuffer_stb (s : State) (b : Nat) (x : Buffer) : (s.setBuffer b x).stb = s.stb := rfl
@[simp] theorem setBuffer_tin (s : State) (b : Nat) (x : Buffer) : (s.setBuffer b x).tin = s.tin := rfl
@[simp] theorem setBuffer_ltx (s : State) (b : Nat) (x : Buffer) : (s.setBuffer b x).ltx = s.ltx := rfl
@[simp] theorem setBuffer_lrx (s : State) (b : Nat) (x : Buffer) : (s.setBuffer b x).lrx = s.lrx := rfl
@[simp] theorem setBuffer_mrg (s : State) (b : Nat) (x : Buffer) : (s.setBuffer b x).mrg = s.mrg := rfl
@[simp] theorem setBuffer_psc (s : State) (b : Nat) (x : Buffer) : (s.setBuffer b x).psc = s.psc := rfl
@[simp] theorem setBuffer_dlv (s : State) (b : Nat) (x : Buffer) : (s.setBuffer b x).dlv = s.dlv := rfl
@[simp] theorem setBuffer_cnt (s : State) (b : Nat) (x : Buffer) : (s.setBuffer b x).cnt = s.cnt := rfl
@[simp] theorem setBuffer_evu (s : State) (b : Nat) (x : Buffer) : (s.setBuffer b x).evu = s.evu := rfl
@[simp] theorem setBuffer_mga (s : State) (b : Nat) (x : Buffer) : (s.setBuffer b x).mga = s.mga := rfl
@[simp] theorem setBuffer_out (s : State) (b : Nat) (x : Buffer) : (s.setBuffer b x).out = s.out := rfl
@[simp] theorem setBuffer_openCount (s : State) (b : Nat) (x : Buffer) : (s.setBuffer b x).openCount = s.openCount := rfl
@[simp] theorem setBuffer_pending (s : State) (b : Nat) (x : Buffer) : (s.setBuffer b x).pending = s.pending := rfl
@[simp] theorem setBuffer_entry (s : State) (b : Nat) (x : Buffer) (m : StreamId) : (s.setBuffer b x).entry m = s.entry m := rfl
@[simp] theorem setBuffer_run (s : State) (b : Nat) (x : Buffer) (m : StreamId) : (s.setBuffer b x).run m = s.run m := rfl
@[simp] theorem setBuffer_tx (s : State) (b : Nat) (x : Buffer) (k' : Lane) : (s.setBuffer b x).tx k' = s.tx k' := rfl
@[simp] theorem setBuffer_rx (s : State) (b : Nat) (x : Buffer) (k' : Lane) : (s.setBuffer b x).rx k' = s.rx k' := rfl
@[simp] theorem setBuffer_context (s : State) (b : Nat) (x : Buffer) (d : ContextId) : (s.setBuffer b x).context d = s.context d := rfl
@[simp] theorem setBuffer_egress (s : State) (b : Nat) (x : Buffer) (o : PortId) : (s.setBuffer b x).egress o = s.egress o := rfl
@[simp] theorem setBuffer_ingress (s : State) (b : Nat) (x : Buffer) (o : PortId) : (s.setBuffer b x).ingress o = s.ingress o := rfl
@[simp] theorem setBuffer_present (s : State) (b : Nat) (x : Buffer) (o : PortId) : (s.setBuffer b x).present o = s.present o := rfl
@[simp] theorem setBuffer_source (s : State) (b : Nat) (x : Buffer) (j : Source) : (s.setBuffer b x).source j = s.source j := rfl
@[simp] theorem setBuffer_channel (s : State) (b : Nat) (x : Buffer) (d : ChannelId) : (s.setBuffer b x).channel d = s.channel d := rfl
@[simp] theorem setBuffer_now (s : State) (b : Nat) (x : Buffer) : (s.setBuffer b x).now = s.now := rfl
@[simp] theorem setBuffer_counter (s : State) (b : Nat) (x : Buffer) (q : CounterRef) : (s.setBuffer b x).counter q = s.counter q := rfl
@[simp] theorem setBuffer_classQueue (s : State) (b : Nat) (x : Buffer) (k' : Lane) (h : Fin 4) : (s.setBuffer b x).classQueue k' h = s.classQueue k' h := rfl
@[simp] theorem setBuffer_view (s : State) (b : Nat) (x : Buffer) (k' : Lane) : (s.setBuffer b x).view k' = s.view k' := rfl
@[simp] theorem setBuffer_restarting (s : State) (b : Nat) (x : Buffer) : (s.setBuffer b x).restarting = s.restarting := rfl

@[simp] theorem storeCell_pins (s : State) (b : Nat) (x : Cell) : (s.storeCell b x).pins = s.pins := rfl
@[simp] theorem storeCell_lck (s : State) (b : Nat) (x : Cell) : (s.storeCell b x).lck = s.lck := rfl
@[simp] theorem storeCell_stb (s : State) (b : Nat) (x : Cell) : (s.storeCell b x).stb = s.stb := rfl
@[simp] theorem storeCell_tin (s : State) (b : Nat) (x : Cell) : (s.storeCell b x).tin = s.tin := rfl
@[simp] theorem storeCell_ltx (s : State) (b : Nat) (x : Cell) : (s.storeCell b x).ltx = s.ltx := rfl
@[simp] theorem storeCell_lrx (s : State) (b : Nat) (x : Cell) : (s.storeCell b x).lrx = s.lrx := rfl
@[simp] theorem storeCell_mrg (s : State) (b : Nat) (x : Cell) : (s.storeCell b x).mrg = s.mrg := rfl
@[simp] theorem storeCell_psc (s : State) (b : Nat) (x : Cell) : (s.storeCell b x).psc = s.psc := rfl
@[simp] theorem storeCell_dlv (s : State) (b : Nat) (x : Cell) : (s.storeCell b x).dlv = s.dlv := rfl
@[simp] theorem storeCell_cnt (s : State) (b : Nat) (x : Cell) : (s.storeCell b x).cnt = s.cnt := rfl
@[simp] theorem storeCell_evu (s : State) (b : Nat) (x : Cell) : (s.storeCell b x).evu = s.evu := rfl
@[simp] theorem storeCell_mga (s : State) (b : Nat) (x : Cell) : (s.storeCell b x).mga = s.mga := rfl
@[simp] theorem storeCell_out (s : State) (b : Nat) (x : Cell) : (s.storeCell b x).out = s.out := rfl
@[simp] theorem storeCell_openCount (s : State) (b : Nat) (x : Cell) : (s.storeCell b x).openCount = s.openCount := rfl
@[simp] theorem storeCell_pending (s : State) (b : Nat) (x : Cell) : (s.storeCell b x).pending = s.pending := rfl
@[simp] theorem storeCell_entry (s : State) (b : Nat) (x : Cell) (m : StreamId) : (s.storeCell b x).entry m = s.entry m := rfl
@[simp] theorem storeCell_run (s : State) (b : Nat) (x : Cell) (m : StreamId) : (s.storeCell b x).run m = s.run m := rfl
@[simp] theorem storeCell_tx (s : State) (b : Nat) (x : Cell) (k' : Lane) : (s.storeCell b x).tx k' = s.tx k' := rfl
@[simp] theorem storeCell_rx (s : State) (b : Nat) (x : Cell) (k' : Lane) : (s.storeCell b x).rx k' = s.rx k' := rfl
@[simp] theorem storeCell_context (s : State) (b : Nat) (x : Cell) (d : ContextId) : (s.storeCell b x).context d = s.context d := rfl
@[simp] theorem storeCell_egress (s : State) (b : Nat) (x : Cell) (o : PortId) : (s.storeCell b x).egress o = s.egress o := rfl
@[simp] theorem storeCell_ingress (s : State) (b : Nat) (x : Cell) (o : PortId) : (s.storeCell b x).ingress o = s.ingress o := rfl
@[simp] theorem storeCell_present (s : State) (b : Nat) (x : Cell) (o : PortId) : (s.storeCell b x).present o = s.present o := rfl
@[simp] theorem storeCell_source (s : State) (b : Nat) (x : Cell) (j : Source) : (s.storeCell b x).source j = s.source j := rfl
@[simp] theorem storeCell_channel (s : State) (b : Nat) (x : Cell) (d : ChannelId) : (s.storeCell b x).channel d = s.channel d := rfl
@[simp] theorem storeCell_now (s : State) (b : Nat) (x : Cell) : (s.storeCell b x).now = s.now := rfl
@[simp] theorem storeCell_counter (s : State) (b : Nat) (x : Cell) (q : CounterRef) : (s.storeCell b x).counter q = s.counter q := rfl
@[simp] theorem storeCell_classQueue (s : State) (b : Nat) (x : Cell) (k' : Lane) (h : Fin 4) : (s.storeCell b x).classQueue k' h = s.classQueue k' h := rfl
@[simp] theorem storeCell_view (s : State) (b : Nat) (x : Cell) (k' : Lane) : (s.storeCell b x).view k' = s.view k' := rfl
@[simp] theorem storeCell_restarting (s : State) (b : Nat) (x : Cell) : (s.storeCell b x).restarting = s.restarting := rfl

@[simp] theorem setControl_pins (s : State) (l : Lane) (x : List Nat) : (s.setControl l x).pins = s.pins := rfl
@[simp] theorem setControl_lck (s : State) (l : Lane) (x : List Nat) : (s.setControl l x).lck = s.lck := rfl
@[simp] theorem setControl_bfm (s : State) (l : Lane) (x : List Nat) : (s.setControl l x).bfm = s.bfm := rfl
@[simp] theorem setControl_stb (s : State) (l : Lane) (x : List Nat) : (s.setControl l x).stb = s.stb := rfl
@[simp] theorem setControl_tin (s : State) (l : Lane) (x : List Nat) : (s.setControl l x).tin = s.tin := rfl
@[simp] theorem setControl_lrx (s : State) (l : Lane) (x : List Nat) : (s.setControl l x).lrx = s.lrx := rfl
@[simp] theorem setControl_mrg (s : State) (l : Lane) (x : List Nat) : (s.setControl l x).mrg = s.mrg := rfl
@[simp] theorem setControl_psc (s : State) (l : Lane) (x : List Nat) : (s.setControl l x).psc = s.psc := rfl
@[simp] theorem setControl_dlv (s : State) (l : Lane) (x : List Nat) : (s.setControl l x).dlv = s.dlv := rfl
@[simp] theorem setControl_cnt (s : State) (l : Lane) (x : List Nat) : (s.setControl l x).cnt = s.cnt := rfl
@[simp] theorem setControl_evu (s : State) (l : Lane) (x : List Nat) : (s.setControl l x).evu = s.evu := rfl
@[simp] theorem setControl_mga (s : State) (l : Lane) (x : List Nat) : (s.setControl l x).mga = s.mga := rfl
@[simp] theorem setControl_out (s : State) (l : Lane) (x : List Nat) : (s.setControl l x).out = s.out := rfl
@[simp] theorem setControl_openCount (s : State) (l : Lane) (x : List Nat) : (s.setControl l x).openCount = s.openCount := rfl
@[simp] theorem setControl_pending (s : State) (l : Lane) (x : List Nat) : (s.setControl l x).pending = s.pending := rfl
@[simp] theorem setControl_entry (s : State) (l : Lane) (x : List Nat) (m : StreamId) : (s.setControl l x).entry m = s.entry m := rfl
@[simp] theorem setControl_run (s : State) (l : Lane) (x : List Nat) (m : StreamId) : (s.setControl l x).run m = s.run m := rfl
@[simp] theorem setControl_rx (s : State) (l : Lane) (x : List Nat) (k' : Lane) : (s.setControl l x).rx k' = s.rx k' := rfl
@[simp] theorem setControl_context (s : State) (l : Lane) (x : List Nat) (d : ContextId) : (s.setControl l x).context d = s.context d := rfl
@[simp] theorem setControl_egress (s : State) (l : Lane) (x : List Nat) (o : PortId) : (s.setControl l x).egress o = s.egress o := rfl
@[simp] theorem setControl_ingress (s : State) (l : Lane) (x : List Nat) (o : PortId) : (s.setControl l x).ingress o = s.ingress o := rfl
@[simp] theorem setControl_present (s : State) (l : Lane) (x : List Nat) (o : PortId) : (s.setControl l x).present o = s.present o := rfl
@[simp] theorem setControl_source (s : State) (l : Lane) (x : List Nat) (j : Source) : (s.setControl l x).source j = s.source j := rfl
@[simp] theorem setControl_channel (s : State) (l : Lane) (x : List Nat) (d : ChannelId) : (s.setControl l x).channel d = s.channel d := rfl
@[simp] theorem setControl_now (s : State) (l : Lane) (x : List Nat) : (s.setControl l x).now = s.now := rfl
@[simp] theorem setControl_buffer (s : State) (l : Lane) (x : List Nat) (a : Nat) : (s.setControl l x).buffer a = s.buffer a := rfl
@[simp] theorem setControl_counter (s : State) (l : Lane) (x : List Nat) (q : CounterRef) : (s.setControl l x).counter q = s.counter q := rfl
@[simp] theorem setControl_restarting (s : State) (l : Lane) (x : List Nat) : (s.setControl l x).restarting = s.restarting := rfl

@[simp] theorem setClassQueue_pins (s : State) (l : Lane) (k : Fin 4) (x : List QueueEntry) : (s.setClassQueue l k x).pins = s.pins := rfl
@[simp] theorem setClassQueue_lck (s : State) (l : Lane) (k : Fin 4) (x : List QueueEntry) : (s.setClassQueue l k x).lck = s.lck := rfl
@[simp] theorem setClassQueue_bfm (s : State) (l : Lane) (k : Fin 4) (x : List QueueEntry) : (s.setClassQueue l k x).bfm = s.bfm := rfl
@[simp] theorem setClassQueue_stb (s : State) (l : Lane) (k : Fin 4) (x : List QueueEntry) : (s.setClassQueue l k x).stb = s.stb := rfl
@[simp] theorem setClassQueue_tin (s : State) (l : Lane) (k : Fin 4) (x : List QueueEntry) : (s.setClassQueue l k x).tin = s.tin := rfl
@[simp] theorem setClassQueue_lrx (s : State) (l : Lane) (k : Fin 4) (x : List QueueEntry) : (s.setClassQueue l k x).lrx = s.lrx := rfl
@[simp] theorem setClassQueue_mrg (s : State) (l : Lane) (k : Fin 4) (x : List QueueEntry) : (s.setClassQueue l k x).mrg = s.mrg := rfl
@[simp] theorem setClassQueue_psc (s : State) (l : Lane) (k : Fin 4) (x : List QueueEntry) : (s.setClassQueue l k x).psc = s.psc := rfl
@[simp] theorem setClassQueue_dlv (s : State) (l : Lane) (k : Fin 4) (x : List QueueEntry) : (s.setClassQueue l k x).dlv = s.dlv := rfl
@[simp] theorem setClassQueue_cnt (s : State) (l : Lane) (k : Fin 4) (x : List QueueEntry) : (s.setClassQueue l k x).cnt = s.cnt := rfl
@[simp] theorem setClassQueue_evu (s : State) (l : Lane) (k : Fin 4) (x : List QueueEntry) : (s.setClassQueue l k x).evu = s.evu := rfl
@[simp] theorem setClassQueue_mga (s : State) (l : Lane) (k : Fin 4) (x : List QueueEntry) : (s.setClassQueue l k x).mga = s.mga := rfl
@[simp] theorem setClassQueue_out (s : State) (l : Lane) (k : Fin 4) (x : List QueueEntry) : (s.setClassQueue l k x).out = s.out := rfl
@[simp] theorem setClassQueue_openCount (s : State) (l : Lane) (k : Fin 4) (x : List QueueEntry) : (s.setClassQueue l k x).openCount = s.openCount := rfl
@[simp] theorem setClassQueue_pending (s : State) (l : Lane) (k : Fin 4) (x : List QueueEntry) : (s.setClassQueue l k x).pending = s.pending := rfl
@[simp] theorem setClassQueue_entry (s : State) (l : Lane) (k : Fin 4) (x : List QueueEntry) (m : StreamId) : (s.setClassQueue l k x).entry m = s.entry m := rfl
@[simp] theorem setClassQueue_run (s : State) (l : Lane) (k : Fin 4) (x : List QueueEntry) (m : StreamId) : (s.setClassQueue l k x).run m = s.run m := rfl
@[simp] theorem setClassQueue_rx (s : State) (l : Lane) (k : Fin 4) (x : List QueueEntry) (k' : Lane) : (s.setClassQueue l k x).rx k' = s.rx k' := rfl
@[simp] theorem setClassQueue_context (s : State) (l : Lane) (k : Fin 4) (x : List QueueEntry) (d : ContextId) : (s.setClassQueue l k x).context d = s.context d := rfl
@[simp] theorem setClassQueue_egress (s : State) (l : Lane) (k : Fin 4) (x : List QueueEntry) (o : PortId) : (s.setClassQueue l k x).egress o = s.egress o := rfl
@[simp] theorem setClassQueue_ingress (s : State) (l : Lane) (k : Fin 4) (x : List QueueEntry) (o : PortId) : (s.setClassQueue l k x).ingress o = s.ingress o := rfl
@[simp] theorem setClassQueue_present (s : State) (l : Lane) (k : Fin 4) (x : List QueueEntry) (o : PortId) : (s.setClassQueue l k x).present o = s.present o := rfl
@[simp] theorem setClassQueue_source (s : State) (l : Lane) (k : Fin 4) (x : List QueueEntry) (j : Source) : (s.setClassQueue l k x).source j = s.source j := rfl
@[simp] theorem setClassQueue_channel (s : State) (l : Lane) (k : Fin 4) (x : List QueueEntry) (d : ChannelId) : (s.setClassQueue l k x).channel d = s.channel d := rfl
@[simp] theorem setClassQueue_now (s : State) (l : Lane) (k : Fin 4) (x : List QueueEntry) : (s.setClassQueue l k x).now = s.now := rfl
@[simp] theorem setClassQueue_buffer (s : State) (l : Lane) (k : Fin 4) (x : List QueueEntry) (a : Nat) : (s.setClassQueue l k x).buffer a = s.buffer a := rfl
@[simp] theorem setClassQueue_counter (s : State) (l : Lane) (k : Fin 4) (x : List QueueEntry) (q : CounterRef) : (s.setClassQueue l k x).counter q = s.counter q := rfl
@[simp] theorem setClassQueue_restarting (s : State) (l : Lane) (k : Fin 4) (x : List QueueEntry) : (s.setClassQueue l k x).restarting = s.restarting := rfl

@[simp] theorem addQueued_pins (s : State) (n : StreamId) : (s.addQueued n).pins = s.pins := rfl
@[simp] theorem addQueued_lck (s : State) (n : StreamId) : (s.addQueued n).lck = s.lck := rfl
@[simp] theorem addQueued_bfm (s : State) (n : StreamId) : (s.addQueued n).bfm = s.bfm := rfl
@[simp] theorem addQueued_tin (s : State) (n : StreamId) : (s.addQueued n).tin = s.tin := rfl
@[simp] theorem addQueued_ltx (s : State) (n : StreamId) : (s.addQueued n).ltx = s.ltx := rfl
@[simp] theorem addQueued_lrx (s : State) (n : StreamId) : (s.addQueued n).lrx = s.lrx := rfl
@[simp] theorem addQueued_mrg (s : State) (n : StreamId) : (s.addQueued n).mrg = s.mrg := rfl
@[simp] theorem addQueued_psc (s : State) (n : StreamId) : (s.addQueued n).psc = s.psc := rfl
@[simp] theorem addQueued_dlv (s : State) (n : StreamId) : (s.addQueued n).dlv = s.dlv := rfl
@[simp] theorem addQueued_cnt (s : State) (n : StreamId) : (s.addQueued n).cnt = s.cnt := rfl
@[simp] theorem addQueued_evu (s : State) (n : StreamId) : (s.addQueued n).evu = s.evu := rfl
@[simp] theorem addQueued_mga (s : State) (n : StreamId) : (s.addQueued n).mga = s.mga := rfl
@[simp] theorem addQueued_out (s : State) (n : StreamId) : (s.addQueued n).out = s.out := rfl
@[simp] theorem addQueued_openCount (s : State) (n : StreamId) : (s.addQueued n).openCount = s.openCount := rfl
@[simp] theorem addQueued_pending (s : State) (n : StreamId) : (s.addQueued n).pending = s.pending := rfl
@[simp] theorem addQueued_tx (s : State) (n : StreamId) (k' : Lane) : (s.addQueued n).tx k' = s.tx k' := rfl
@[simp] theorem addQueued_rx (s : State) (n : StreamId) (k' : Lane) : (s.addQueued n).rx k' = s.rx k' := rfl
@[simp] theorem addQueued_context (s : State) (n : StreamId) (d : ContextId) : (s.addQueued n).context d = s.context d := rfl
@[simp] theorem addQueued_egress (s : State) (n : StreamId) (o : PortId) : (s.addQueued n).egress o = s.egress o := rfl
@[simp] theorem addQueued_ingress (s : State) (n : StreamId) (o : PortId) : (s.addQueued n).ingress o = s.ingress o := rfl
@[simp] theorem addQueued_present (s : State) (n : StreamId) (o : PortId) : (s.addQueued n).present o = s.present o := rfl
@[simp] theorem addQueued_source (s : State) (n : StreamId) (j : Source) : (s.addQueued n).source j = s.source j := rfl
@[simp] theorem addQueued_channel (s : State) (n : StreamId) (d : ChannelId) : (s.addQueued n).channel d = s.channel d := rfl
@[simp] theorem addQueued_now (s : State) (n : StreamId) : (s.addQueued n).now = s.now := rfl
@[simp] theorem addQueued_buffer (s : State) (n : StreamId) (a : Nat) : (s.addQueued n).buffer a = s.buffer a := rfl
@[simp] theorem addQueued_counter (s : State) (n : StreamId) (q : CounterRef) : (s.addQueued n).counter q = s.counter q := rfl
@[simp] theorem addQueued_classQueue (s : State) (n : StreamId) (k' : Lane) (h : Fin 4) : (s.addQueued n).classQueue k' h = s.classQueue k' h := rfl
@[simp] theorem addQueued_view (s : State) (n : StreamId) (k' : Lane) : (s.addQueued n).view k' = s.view k' := rfl
@[simp] theorem addQueued_restarting (s : State) (n : StreamId) : (s.addQueued n).restarting = s.restarting := rfl

@[simp] theorem subQueued_pins (s : State) (n : StreamId) : (s.subQueued n).pins = s.pins := rfl
@[simp] theorem subQueued_lck (s : State) (n : StreamId) : (s.subQueued n).lck = s.lck := rfl
@[simp] theorem subQueued_bfm (s : State) (n : StreamId) : (s.subQueued n).bfm = s.bfm := rfl
@[simp] theorem subQueued_tin (s : State) (n : StreamId) : (s.subQueued n).tin = s.tin := rfl
@[simp] theorem subQueued_ltx (s : State) (n : StreamId) : (s.subQueued n).ltx = s.ltx := rfl
@[simp] theorem subQueued_lrx (s : State) (n : StreamId) : (s.subQueued n).lrx = s.lrx := rfl
@[simp] theorem subQueued_mrg (s : State) (n : StreamId) : (s.subQueued n).mrg = s.mrg := rfl
@[simp] theorem subQueued_psc (s : State) (n : StreamId) : (s.subQueued n).psc = s.psc := rfl
@[simp] theorem subQueued_dlv (s : State) (n : StreamId) : (s.subQueued n).dlv = s.dlv := rfl
@[simp] theorem subQueued_cnt (s : State) (n : StreamId) : (s.subQueued n).cnt = s.cnt := rfl
@[simp] theorem subQueued_evu (s : State) (n : StreamId) : (s.subQueued n).evu = s.evu := rfl
@[simp] theorem subQueued_mga (s : State) (n : StreamId) : (s.subQueued n).mga = s.mga := rfl
@[simp] theorem subQueued_out (s : State) (n : StreamId) : (s.subQueued n).out = s.out := rfl
@[simp] theorem subQueued_openCount (s : State) (n : StreamId) : (s.subQueued n).openCount = s.openCount := rfl
@[simp] theorem subQueued_pending (s : State) (n : StreamId) : (s.subQueued n).pending = s.pending := rfl
@[simp] theorem subQueued_tx (s : State) (n : StreamId) (k' : Lane) : (s.subQueued n).tx k' = s.tx k' := rfl
@[simp] theorem subQueued_rx (s : State) (n : StreamId) (k' : Lane) : (s.subQueued n).rx k' = s.rx k' := rfl
@[simp] theorem subQueued_context (s : State) (n : StreamId) (d : ContextId) : (s.subQueued n).context d = s.context d := rfl
@[simp] theorem subQueued_egress (s : State) (n : StreamId) (o : PortId) : (s.subQueued n).egress o = s.egress o := rfl
@[simp] theorem subQueued_ingress (s : State) (n : StreamId) (o : PortId) : (s.subQueued n).ingress o = s.ingress o := rfl
@[simp] theorem subQueued_present (s : State) (n : StreamId) (o : PortId) : (s.subQueued n).present o = s.present o := rfl
@[simp] theorem subQueued_source (s : State) (n : StreamId) (j : Source) : (s.subQueued n).source j = s.source j := rfl
@[simp] theorem subQueued_channel (s : State) (n : StreamId) (d : ChannelId) : (s.subQueued n).channel d = s.channel d := rfl
@[simp] theorem subQueued_now (s : State) (n : StreamId) : (s.subQueued n).now = s.now := rfl
@[simp] theorem subQueued_buffer (s : State) (n : StreamId) (a : Nat) : (s.subQueued n).buffer a = s.buffer a := rfl
@[simp] theorem subQueued_counter (s : State) (n : StreamId) (q : CounterRef) : (s.subQueued n).counter q = s.counter q := rfl
@[simp] theorem subQueued_classQueue (s : State) (n : StreamId) (k' : Lane) (h : Fin 4) : (s.subQueued n).classQueue k' h = s.classQueue k' h := rfl
@[simp] theorem subQueued_view (s : State) (n : StreamId) (k' : Lane) : (s.subQueued n).view k' = s.view k' := rfl
@[simp] theorem subQueued_restarting (s : State) (n : StreamId) : (s.subQueued n).restarting = s.restarting := rfl

@[simp] theorem setLoad_pins (s : State) (l : Lane) (x : Nat × Nat) : (s.setLoad l x).pins = s.pins := rfl
@[simp] theorem setLoad_lck (s : State) (l : Lane) (x : Nat × Nat) : (s.setLoad l x).lck = s.lck := rfl
@[simp] theorem setLoad_bfm (s : State) (l : Lane) (x : Nat × Nat) : (s.setLoad l x).bfm = s.bfm := rfl
@[simp] theorem setLoad_stb (s : State) (l : Lane) (x : Nat × Nat) : (s.setLoad l x).stb = s.stb := rfl
@[simp] theorem setLoad_tin (s : State) (l : Lane) (x : Nat × Nat) : (s.setLoad l x).tin = s.tin := rfl
@[simp] theorem setLoad_lrx (s : State) (l : Lane) (x : Nat × Nat) : (s.setLoad l x).lrx = s.lrx := rfl
@[simp] theorem setLoad_mrg (s : State) (l : Lane) (x : Nat × Nat) : (s.setLoad l x).mrg = s.mrg := rfl
@[simp] theorem setLoad_psc (s : State) (l : Lane) (x : Nat × Nat) : (s.setLoad l x).psc = s.psc := rfl
@[simp] theorem setLoad_dlv (s : State) (l : Lane) (x : Nat × Nat) : (s.setLoad l x).dlv = s.dlv := rfl
@[simp] theorem setLoad_cnt (s : State) (l : Lane) (x : Nat × Nat) : (s.setLoad l x).cnt = s.cnt := rfl
@[simp] theorem setLoad_evu (s : State) (l : Lane) (x : Nat × Nat) : (s.setLoad l x).evu = s.evu := rfl
@[simp] theorem setLoad_mga (s : State) (l : Lane) (x : Nat × Nat) : (s.setLoad l x).mga = s.mga := rfl
@[simp] theorem setLoad_out (s : State) (l : Lane) (x : Nat × Nat) : (s.setLoad l x).out = s.out := rfl
@[simp] theorem setLoad_openCount (s : State) (l : Lane) (x : Nat × Nat) : (s.setLoad l x).openCount = s.openCount := rfl
@[simp] theorem setLoad_pending (s : State) (l : Lane) (x : Nat × Nat) : (s.setLoad l x).pending = s.pending := rfl
@[simp] theorem setLoad_entry (s : State) (l : Lane) (x : Nat × Nat) (m : StreamId) : (s.setLoad l x).entry m = s.entry m := rfl
@[simp] theorem setLoad_run (s : State) (l : Lane) (x : Nat × Nat) (m : StreamId) : (s.setLoad l x).run m = s.run m := rfl
@[simp] theorem setLoad_rx (s : State) (l : Lane) (x : Nat × Nat) (k' : Lane) : (s.setLoad l x).rx k' = s.rx k' := rfl
@[simp] theorem setLoad_context (s : State) (l : Lane) (x : Nat × Nat) (d : ContextId) : (s.setLoad l x).context d = s.context d := rfl
@[simp] theorem setLoad_egress (s : State) (l : Lane) (x : Nat × Nat) (o : PortId) : (s.setLoad l x).egress o = s.egress o := rfl
@[simp] theorem setLoad_ingress (s : State) (l : Lane) (x : Nat × Nat) (o : PortId) : (s.setLoad l x).ingress o = s.ingress o := rfl
@[simp] theorem setLoad_present (s : State) (l : Lane) (x : Nat × Nat) (o : PortId) : (s.setLoad l x).present o = s.present o := rfl
@[simp] theorem setLoad_source (s : State) (l : Lane) (x : Nat × Nat) (j : Source) : (s.setLoad l x).source j = s.source j := rfl
@[simp] theorem setLoad_channel (s : State) (l : Lane) (x : Nat × Nat) (d : ChannelId) : (s.setLoad l x).channel d = s.channel d := rfl
@[simp] theorem setLoad_now (s : State) (l : Lane) (x : Nat × Nat) : (s.setLoad l x).now = s.now := rfl
@[simp] theorem setLoad_buffer (s : State) (l : Lane) (x : Nat × Nat) (a : Nat) : (s.setLoad l x).buffer a = s.buffer a := rfl
@[simp] theorem setLoad_counter (s : State) (l : Lane) (x : Nat × Nat) (q : CounterRef) : (s.setLoad l x).counter q = s.counter q := rfl
@[simp] theorem setLoad_restarting (s : State) (l : Lane) (x : Nat × Nat) : (s.setLoad l x).restarting = s.restarting := rfl

@[simp] theorem setFlag_pins (s : State) (i : Source) (x : Detail) : (s.setFlag i x).pins = s.pins := rfl
@[simp] theorem setFlag_lck (s : State) (i : Source) (x : Detail) : (s.setFlag i x).lck = s.lck := rfl
@[simp] theorem setFlag_bfm (s : State) (i : Source) (x : Detail) : (s.setFlag i x).bfm = s.bfm := rfl
@[simp] theorem setFlag_stb (s : State) (i : Source) (x : Detail) : (s.setFlag i x).stb = s.stb := rfl
@[simp] theorem setFlag_tin (s : State) (i : Source) (x : Detail) : (s.setFlag i x).tin = s.tin := rfl
@[simp] theorem setFlag_ltx (s : State) (i : Source) (x : Detail) : (s.setFlag i x).ltx = s.ltx := rfl
@[simp] theorem setFlag_lrx (s : State) (i : Source) (x : Detail) : (s.setFlag i x).lrx = s.lrx := rfl
@[simp] theorem setFlag_mrg (s : State) (i : Source) (x : Detail) : (s.setFlag i x).mrg = s.mrg := rfl
@[simp] theorem setFlag_psc (s : State) (i : Source) (x : Detail) : (s.setFlag i x).psc = s.psc := rfl
@[simp] theorem setFlag_dlv (s : State) (i : Source) (x : Detail) : (s.setFlag i x).dlv = s.dlv := rfl
@[simp] theorem setFlag_cnt (s : State) (i : Source) (x : Detail) : (s.setFlag i x).cnt = s.cnt := rfl
@[simp] theorem setFlag_mga (s : State) (i : Source) (x : Detail) : (s.setFlag i x).mga = s.mga := rfl
@[simp] theorem setFlag_out (s : State) (i : Source) (x : Detail) : (s.setFlag i x).out = s.out := rfl
@[simp] theorem setFlag_openCount (s : State) (i : Source) (x : Detail) : (s.setFlag i x).openCount = s.openCount := rfl
@[simp] theorem setFlag_pending (s : State) (i : Source) (x : Detail) : (s.setFlag i x).pending = s.pending := rfl
@[simp] theorem setFlag_entry (s : State) (i : Source) (x : Detail) (m : StreamId) : (s.setFlag i x).entry m = s.entry m := rfl
@[simp] theorem setFlag_run (s : State) (i : Source) (x : Detail) (m : StreamId) : (s.setFlag i x).run m = s.run m := rfl
@[simp] theorem setFlag_tx (s : State) (i : Source) (x : Detail) (k' : Lane) : (s.setFlag i x).tx k' = s.tx k' := rfl
@[simp] theorem setFlag_rx (s : State) (i : Source) (x : Detail) (k' : Lane) : (s.setFlag i x).rx k' = s.rx k' := rfl
@[simp] theorem setFlag_context (s : State) (i : Source) (x : Detail) (d : ContextId) : (s.setFlag i x).context d = s.context d := rfl
@[simp] theorem setFlag_egress (s : State) (i : Source) (x : Detail) (o : PortId) : (s.setFlag i x).egress o = s.egress o := rfl
@[simp] theorem setFlag_ingress (s : State) (i : Source) (x : Detail) (o : PortId) : (s.setFlag i x).ingress o = s.ingress o := rfl
@[simp] theorem setFlag_present (s : State) (i : Source) (x : Detail) (o : PortId) : (s.setFlag i x).present o = s.present o := rfl
@[simp] theorem setFlag_now (s : State) (i : Source) (x : Detail) : (s.setFlag i x).now = s.now := rfl
@[simp] theorem setFlag_buffer (s : State) (i : Source) (x : Detail) (a : Nat) : (s.setFlag i x).buffer a = s.buffer a := rfl
@[simp] theorem setFlag_counter (s : State) (i : Source) (x : Detail) (q : CounterRef) : (s.setFlag i x).counter q = s.counter q := rfl
@[simp] theorem setFlag_classQueue (s : State) (i : Source) (x : Detail) (k' : Lane) (h : Fin 4) : (s.setFlag i x).classQueue k' h = s.classQueue k' h := rfl
@[simp] theorem setFlag_view (s : State) (i : Source) (x : Detail) (k' : Lane) : (s.setFlag i x).view k' = s.view k' := rfl
@[simp] theorem setFlag_restarting (s : State) (i : Source) (x : Detail) : (s.setFlag i x).restarting = s.restarting := rfl

@[simp] theorem repeatFlag_pins (s : State) (i : Source) : (s.repeatFlag i).pins = s.pins := rfl
@[simp] theorem repeatFlag_lck (s : State) (i : Source) : (s.repeatFlag i).lck = s.lck := rfl
@[simp] theorem repeatFlag_bfm (s : State) (i : Source) : (s.repeatFlag i).bfm = s.bfm := rfl
@[simp] theorem repeatFlag_stb (s : State) (i : Source) : (s.repeatFlag i).stb = s.stb := rfl
@[simp] theorem repeatFlag_tin (s : State) (i : Source) : (s.repeatFlag i).tin = s.tin := rfl
@[simp] theorem repeatFlag_ltx (s : State) (i : Source) : (s.repeatFlag i).ltx = s.ltx := rfl
@[simp] theorem repeatFlag_lrx (s : State) (i : Source) : (s.repeatFlag i).lrx = s.lrx := rfl
@[simp] theorem repeatFlag_mrg (s : State) (i : Source) : (s.repeatFlag i).mrg = s.mrg := rfl
@[simp] theorem repeatFlag_psc (s : State) (i : Source) : (s.repeatFlag i).psc = s.psc := rfl
@[simp] theorem repeatFlag_dlv (s : State) (i : Source) : (s.repeatFlag i).dlv = s.dlv := rfl
@[simp] theorem repeatFlag_cnt (s : State) (i : Source) : (s.repeatFlag i).cnt = s.cnt := rfl
@[simp] theorem repeatFlag_mga (s : State) (i : Source) : (s.repeatFlag i).mga = s.mga := rfl
@[simp] theorem repeatFlag_out (s : State) (i : Source) : (s.repeatFlag i).out = s.out := rfl
@[simp] theorem repeatFlag_openCount (s : State) (i : Source) : (s.repeatFlag i).openCount = s.openCount := rfl
@[simp] theorem repeatFlag_pending (s : State) (i : Source) : (s.repeatFlag i).pending = s.pending := rfl
@[simp] theorem repeatFlag_entry (s : State) (i : Source) (m : StreamId) : (s.repeatFlag i).entry m = s.entry m := rfl
@[simp] theorem repeatFlag_run (s : State) (i : Source) (m : StreamId) : (s.repeatFlag i).run m = s.run m := rfl
@[simp] theorem repeatFlag_tx (s : State) (i : Source) (k' : Lane) : (s.repeatFlag i).tx k' = s.tx k' := rfl
@[simp] theorem repeatFlag_rx (s : State) (i : Source) (k' : Lane) : (s.repeatFlag i).rx k' = s.rx k' := rfl
@[simp] theorem repeatFlag_context (s : State) (i : Source) (d : ContextId) : (s.repeatFlag i).context d = s.context d := rfl
@[simp] theorem repeatFlag_egress (s : State) (i : Source) (o : PortId) : (s.repeatFlag i).egress o = s.egress o := rfl
@[simp] theorem repeatFlag_ingress (s : State) (i : Source) (o : PortId) : (s.repeatFlag i).ingress o = s.ingress o := rfl
@[simp] theorem repeatFlag_present (s : State) (i : Source) (o : PortId) : (s.repeatFlag i).present o = s.present o := rfl
@[simp] theorem repeatFlag_now (s : State) (i : Source) : (s.repeatFlag i).now = s.now := rfl
@[simp] theorem repeatFlag_buffer (s : State) (i : Source) (a : Nat) : (s.repeatFlag i).buffer a = s.buffer a := rfl
@[simp] theorem repeatFlag_counter (s : State) (i : Source) (q : CounterRef) : (s.repeatFlag i).counter q = s.counter q := rfl
@[simp] theorem repeatFlag_classQueue (s : State) (i : Source) (k' : Lane) (h : Fin 4) : (s.repeatFlag i).classQueue k' h = s.classQueue k' h := rfl
@[simp] theorem repeatFlag_view (s : State) (i : Source) (k' : Lane) : (s.repeatFlag i).view k' = s.view k' := rfl
@[simp] theorem repeatFlag_restarting (s : State) (i : Source) : (s.repeatFlag i).restarting = s.restarting := rfl

@[simp] theorem setCounter_pins (s : State) (r : CounterRef) (x : Counter) : (s.setCounter r x).pins = s.pins := by cases r <;> rfl
@[simp] theorem setCounter_lck (s : State) (r : CounterRef) (x : Counter) : (s.setCounter r x).lck = s.lck := by cases r <;> rfl
@[simp] theorem setCounter_bfm (s : State) (r : CounterRef) (x : Counter) : (s.setCounter r x).bfm = s.bfm := by cases r <;> rfl
@[simp] theorem setCounter_stb (s : State) (r : CounterRef) (x : Counter) : (s.setCounter r x).stb = s.stb := by cases r <;> rfl
@[simp] theorem setCounter_tin (s : State) (r : CounterRef) (x : Counter) : (s.setCounter r x).tin = s.tin := by cases r <;> rfl
@[simp] theorem setCounter_ltx (s : State) (r : CounterRef) (x : Counter) : (s.setCounter r x).ltx = s.ltx := by cases r <;> rfl
@[simp] theorem setCounter_lrx (s : State) (r : CounterRef) (x : Counter) : (s.setCounter r x).lrx = s.lrx := by cases r <;> rfl
@[simp] theorem setCounter_mrg (s : State) (r : CounterRef) (x : Counter) : (s.setCounter r x).mrg = s.mrg := by cases r <;> rfl
@[simp] theorem setCounter_psc (s : State) (r : CounterRef) (x : Counter) : (s.setCounter r x).psc = s.psc := by cases r <;> rfl
@[simp] theorem setCounter_dlv (s : State) (r : CounterRef) (x : Counter) : (s.setCounter r x).dlv = s.dlv := by cases r <;> rfl
@[simp] theorem setCounter_evu (s : State) (r : CounterRef) (x : Counter) : (s.setCounter r x).evu = s.evu := by cases r <;> rfl
@[simp] theorem setCounter_mga (s : State) (r : CounterRef) (x : Counter) : (s.setCounter r x).mga = s.mga := by cases r <;> rfl
@[simp] theorem setCounter_out (s : State) (r : CounterRef) (x : Counter) : (s.setCounter r x).out = s.out := by cases r <;> rfl
@[simp] theorem setCounter_openCount (s : State) (r : CounterRef) (x : Counter) : (s.setCounter r x).openCount = s.openCount := by cases r <;> rfl
@[simp] theorem setCounter_pending (s : State) (r : CounterRef) (x : Counter) : (s.setCounter r x).pending = s.pending := by cases r <;> rfl
@[simp] theorem setCounter_entry (s : State) (r : CounterRef) (x : Counter) (m : StreamId) : (s.setCounter r x).entry m = s.entry m := by cases r <;> rfl
@[simp] theorem setCounter_run (s : State) (r : CounterRef) (x : Counter) (m : StreamId) : (s.setCounter r x).run m = s.run m := by cases r <;> rfl
@[simp] theorem setCounter_tx (s : State) (r : CounterRef) (x : Counter) (k' : Lane) : (s.setCounter r x).tx k' = s.tx k' := by cases r <;> rfl
@[simp] theorem setCounter_rx (s : State) (r : CounterRef) (x : Counter) (k' : Lane) : (s.setCounter r x).rx k' = s.rx k' := by cases r <;> rfl
@[simp] theorem setCounter_context (s : State) (r : CounterRef) (x : Counter) (d : ContextId) : (s.setCounter r x).context d = s.context d := by cases r <;> rfl
@[simp] theorem setCounter_egress (s : State) (r : CounterRef) (x : Counter) (o : PortId) : (s.setCounter r x).egress o = s.egress o := by cases r <;> rfl
@[simp] theorem setCounter_ingress (s : State) (r : CounterRef) (x : Counter) (o : PortId) : (s.setCounter r x).ingress o = s.ingress o := by cases r <;> rfl
@[simp] theorem setCounter_present (s : State) (r : CounterRef) (x : Counter) (o : PortId) : (s.setCounter r x).present o = s.present o := by cases r <;> rfl
@[simp] theorem setCounter_source (s : State) (r : CounterRef) (x : Counter) (j : Source) : (s.setCounter r x).source j = s.source j := by cases r <;> rfl
@[simp] theorem setCounter_channel (s : State) (r : CounterRef) (x : Counter) (d : ChannelId) : (s.setCounter r x).channel d = s.channel d := by cases r <;> rfl
@[simp] theorem setCounter_now (s : State) (r : CounterRef) (x : Counter) : (s.setCounter r x).now = s.now := by cases r <;> rfl
@[simp] theorem setCounter_buffer (s : State) (r : CounterRef) (x : Counter) (a : Nat) : (s.setCounter r x).buffer a = s.buffer a := by cases r <;> rfl
@[simp] theorem setCounter_classQueue (s : State) (r : CounterRef) (x : Counter) (k' : Lane) (h : Fin 4) : (s.setCounter r x).classQueue k' h = s.classQueue k' h := by cases r <;> rfl
@[simp] theorem setCounter_view (s : State) (r : CounterRef) (x : Counter) (k' : Lane) : (s.setCounter r x).view k' = s.view k' := by cases r <;> rfl
@[simp] theorem setCounter_restarting (s : State) (r : CounterRef) (x : Counter) : (s.setCounter r x).restarting = s.restarting := by cases r <;> rfl

@[simp] theorem withPending_pins (s : State) (x : List Instr) : (s.withPending x).pins = s.pins := rfl
@[simp] theorem withPending_lck (s : State) (x : List Instr) : (s.withPending x).lck = s.lck := rfl
@[simp] theorem withPending_bfm (s : State) (x : List Instr) : (s.withPending x).bfm = s.bfm := rfl
@[simp] theorem withPending_stb (s : State) (x : List Instr) : (s.withPending x).stb = s.stb := rfl
@[simp] theorem withPending_tin (s : State) (x : List Instr) : (s.withPending x).tin = s.tin := rfl
@[simp] theorem withPending_ltx (s : State) (x : List Instr) : (s.withPending x).ltx = s.ltx := rfl
@[simp] theorem withPending_lrx (s : State) (x : List Instr) : (s.withPending x).lrx = s.lrx := rfl
@[simp] theorem withPending_mrg (s : State) (x : List Instr) : (s.withPending x).mrg = s.mrg := rfl
@[simp] theorem withPending_psc (s : State) (x : List Instr) : (s.withPending x).psc = s.psc := rfl
@[simp] theorem withPending_dlv (s : State) (x : List Instr) : (s.withPending x).dlv = s.dlv := rfl
@[simp] theorem withPending_cnt (s : State) (x : List Instr) : (s.withPending x).cnt = s.cnt := rfl
@[simp] theorem withPending_evu (s : State) (x : List Instr) : (s.withPending x).evu = s.evu := rfl
@[simp] theorem withPending_mga (s : State) (x : List Instr) : (s.withPending x).mga = s.mga := rfl
@[simp] theorem withPending_out (s : State) (x : List Instr) : (s.withPending x).out = s.out := rfl
@[simp] theorem withPending_openCount (s : State) (x : List Instr) : (s.withPending x).openCount = s.openCount := rfl
@[simp] theorem withPending_pending (s : State) (x : List Instr) : (s.withPending x).pending = x := rfl
@[simp] theorem withPending_entry (s : State) (x : List Instr) (m : StreamId) : (s.withPending x).entry m = s.entry m := rfl
@[simp] theorem withPending_run (s : State) (x : List Instr) (m : StreamId) : (s.withPending x).run m = s.run m := rfl
@[simp] theorem withPending_tx (s : State) (x : List Instr) (k' : Lane) : (s.withPending x).tx k' = s.tx k' := rfl
@[simp] theorem withPending_rx (s : State) (x : List Instr) (k' : Lane) : (s.withPending x).rx k' = s.rx k' := rfl
@[simp] theorem withPending_context (s : State) (x : List Instr) (d : ContextId) : (s.withPending x).context d = s.context d := rfl
@[simp] theorem withPending_egress (s : State) (x : List Instr) (o : PortId) : (s.withPending x).egress o = s.egress o := rfl
@[simp] theorem withPending_ingress (s : State) (x : List Instr) (o : PortId) : (s.withPending x).ingress o = s.ingress o := rfl
@[simp] theorem withPending_present (s : State) (x : List Instr) (o : PortId) : (s.withPending x).present o = s.present o := rfl
@[simp] theorem withPending_source (s : State) (x : List Instr) (j : Source) : (s.withPending x).source j = s.source j := rfl
@[simp] theorem withPending_channel (s : State) (x : List Instr) (d : ChannelId) : (s.withPending x).channel d = s.channel d := rfl
@[simp] theorem withPending_now (s : State) (x : List Instr) : (s.withPending x).now = s.now := rfl
@[simp] theorem withPending_buffer (s : State) (x : List Instr) (a : Nat) : (s.withPending x).buffer a = s.buffer a := rfl
@[simp] theorem withPending_counter (s : State) (x : List Instr) (q : CounterRef) : (s.withPending x).counter q = s.counter q := rfl
@[simp] theorem withPending_classQueue (s : State) (x : List Instr) (k' : Lane) (h : Fin 4) : (s.withPending x).classQueue k' h = s.classQueue k' h := rfl
@[simp] theorem withPending_view (s : State) (x : List Instr) (k' : Lane) : (s.withPending x).view k' = s.view k' := rfl
@[simp] theorem withPending_restarting (s : State) (x : List Instr) : (s.withPending x).restarting = s.restarting := rfl

/-! ### A read after a write in the same home -/

theorem entry_setEntry (s : State) (n m : StreamId) (x : StreamEntry) :
    (s.setEntry n x).entry m = if m = n then x else s.entry m := Bank.look_put _ _ _ _
@[simp] theorem entry_setEntry_self (s : State) (n : StreamId) (x : StreamEntry) : (s.setEntry n x).entry n = x := by
  simp [entry_setEntry]
@[simp] theorem run_setEntry (s : State) (n m : StreamId) (x : StreamEntry) : (s.setEntry n x).run m = s.run m := rfl
theorem run_setRun (s : State) (n m : StreamId) (x : RunRecord) :
    (s.setRun n x).run m = if m = n then x else s.run m := Bank.look_put _ _ _ _
@[simp] theorem run_setRun_self (s : State) (n : StreamId) (x : RunRecord) : (s.setRun n x).run n = x := by
  simp [run_setRun]
@[simp] theorem entry_setRun (s : State) (n m : StreamId) (x : RunRecord) : (s.setRun n x).entry m = s.entry m := rfl
@[simp] theorem entry_addQueued (s : State) (n m : StreamId) : (s.addQueued n).entry m = s.entry m := rfl
@[simp] theorem entry_subQueued (s : State) (n m : StreamId) : (s.subQueued n).entry m = s.entry m := rfl
theorem run_addQueued (s : State) (n m : StreamId) :
    (s.addQueued n).run m = if m = n then { s.run n with queued := (s.run n).queued + 1 } else s.run m := run_setRun _ _ _ _
theorem run_subQueued (s : State) (n m : StreamId) :
    (s.subQueued n).run m = if m = n then { s.run n with queued := (s.run n).queued - 1 } else s.run m := run_setRun _ _ _ _
theorem context_setContext (s : State) (c d : ContextId) (x : Context) :
    (s.setContext c x).context d = if d = c then x else s.context d := Bank.look_put _ _ _ _
@[simp] theorem context_setContext_self (s : State) (c : ContextId) (x : Context) : (s.setContext c x).context c = x := by
  simp [context_setContext]
theorem egress_setEgress (s : State) (p o : PortId) (x : List EgressEntry) :
    (s.setEgress p x).egress o = if o = p then x else s.egress o := Bank.look_put _ _ _ _
@[simp] theorem egress_setEgress_self (s : State) (p : PortId) (x : List EgressEntry) : (s.setEgress p x).egress p = x := by
  simp [egress_setEgress]
theorem ingress_setIngress (s : State) (p o : PortId) (x : List (List Byte)) :
    (s.setIngress p x).ingress o = if o = p then x else s.ingress o := Bank.look_put _ _ _ _
@[simp] theorem ingress_setIngress_self (s : State) (p : PortId) (x : List (List Byte)) :
    (s.setIngress p x).ingress p = x := by
  simp [ingress_setIngress]
theorem source_setSource (s : State) (i j : Source) (x : SourceRecord) :
    (s.setSource i x).source j = if j = i then x else s.source j := Bank.look_put _ _ _ _
@[simp] theorem source_setSource_self (s : State) (i : Source) (x : SourceRecord) : (s.setSource i x).source i = x := by
  simp [source_setSource]
@[simp] theorem source_setFloor (s : State) (f : Nat) (i : Source) : (s.setFloor f).source i = s.source i := rfl
@[simp] theorem source_setChannel (s : State) (ch : ChannelId) (x : Channel) (i : Source) :
    (s.setChannel ch x).source i = s.source i := rfl
@[simp] theorem channel_setSource (s : State) (i : Source) (x : SourceRecord) (ch : ChannelId) :
    (s.setSource i x).channel ch = s.channel ch := rfl
@[simp] theorem channel_setFloor (s : State) (f : Nat) (ch : ChannelId) : (s.setFloor f).channel ch = s.channel ch := rfl
theorem channel_setChannel (s : State) (ch d : ChannelId) (x : Channel) :
    (s.setChannel ch x).channel d = if d = ch then x else s.channel d := Bank.look_put _ _ _ _
@[simp] theorem channel_setChannel_self (s : State) (ch : ChannelId) (x : Channel) : (s.setChannel ch x).channel ch = x := by
  simp [channel_setChannel]
@[simp] theorem floor_setSource (s : State) (i : Source) (x : SourceRecord) : (s.setSource i x).evu.floor = s.evu.floor := rfl
@[simp] theorem floor_setChannel (s : State) (ch : ChannelId) (x : Channel) : (s.setChannel ch x).evu.floor = s.evu.floor := rfl
@[simp] theorem floor_setFloor (s : State) (f : Nat) : (s.setFloor f).evu.floor = f := rfl
theorem tx_setTx (s : State) (l m : Lane) (x : LaneTx) : (s.setTx l x).tx m = if m = l then x else s.tx m :=
  PerLane.get_set _ _ _ _
@[simp] theorem tx_setTx_self (s : State) (l : Lane) (x : LaneTx) : (s.setTx l x).tx l = x := by simp [tx_setTx]
theorem rx_setRx (s : State) (l m : Lane) (x : LaneRx) : (s.setRx l x).rx m = if m = l then x else s.rx m :=
  PerLane.get_set _ _ _ _
@[simp] theorem rx_setRx_self (s : State) (l : Lane) (x : LaneRx) : (s.setRx l x).rx l = x := by simp [rx_setRx]
@[simp] theorem rx_setPeer (s : State) (x : PeerReport) (l : Lane) : (s.setPeer x).rx l = s.rx l := rfl
@[simp] theorem peer_setPeer (s : State) (x : PeerReport) : (s.setPeer x).lrx.peer = x := rfl
@[simp] theorem peer_setRx (s : State) (l : Lane) (x : LaneRx) : (s.setRx l x).lrx.peer = s.lrx.peer := rfl
theorem classQueue_setClassQueue (s : State) (l m : Lane) (k h : Fin 4) (x : List QueueEntry) :
    (s.setClassQueue l k x).classQueue m h = if m = l ∧ h = k then x else s.classQueue m h := by
  simp only [classQueue, setClassQueue, tx_setTx]
  by_cases hm : m = l
  · subst hm
    simp [Bank.look_put]
  · simp [hm]
@[simp] theorem classQueue_setClassQueue_self (s : State) (l : Lane) (k : Fin 4) (x : List QueueEntry) :
    (s.setClassQueue l k x).classQueue l k = x := by
  simp [classQueue_setClassQueue]
@[simp] theorem classQueue_setControl (s : State) (l m : Lane) (k : Fin 4) (x : List Nat) :
    (s.setControl l x).classQueue m k = s.classQueue m k := by
  simp only [classQueue, setControl, tx_setTx]
  split <;> simp_all
theorem counter_setCounter (s : State) (r q : CounterRef) (x : Counter) :
    (s.setCounter r x).counter q = if q = r then x else s.counter q := by
  cases r <;> cases q <;>
    simp only [setCounter, counter, setCnt, Bank.look_put, PerLane.get_set, CounterRef.stream.injEq, CounterRef.lane.injEq,
      CounterRef.port.injEq, CounterRef.station.injEq, reduceCtorEq, if_false] <;>
    (split <;> simp_all [Bank.look_put])
@[simp] theorem counter_setCounter_self (s : State) (r : CounterRef) (x : Counter) : (s.setCounter r x).counter r = x := by
  simp [counter_setCounter]

end State

end Sys2Proof.Machine
end

