-- ==== Sys2Proof/Laws/Pool.lean ====
section
/-! SUPPORT. The buffer pool: a read after a write, the canonical form kept by every operation, and one lemma for each of the two
ways the pool changes (R9, R10). -/

namespace Sys2Proof.Machine

namespace Pool

/-- Every buffer number of the list is above `k`. -/
def above (k : Nat) (p : Pool) : Bool := p.all (fun e => decide (k < e.1))

theorem wf_cons (k : Nat) (x : Buffer) (p : Pool) :
    wf ((k, x) :: p) = true ↔ x ≠ .unlisted ∧ above k p = true ∧ wf p = true := by
  simp [wf, above, and_assoc]

theorem above_cons (k j : Nat) (y : Buffer) (p : Pool) : above k ((j, y) :: p) = true ↔ k < j ∧ above k p = true := by
  simp [above]

theorem above_mono {j k : Nat} {p : Pool} (h : above k p = true) (hj : j < k) : above j p = true := by
  simp only [above, List.all_eq_true, decide_eq_true_eq] at h ⊢
  intro e he
  exact Nat.lt_trans hj (h e he)

theorem above_write {k b : Nat} {p : Pool} {x : Buffer} (hk : k < b) (h : above k p = true) :
    above k (write p b x) = true := by
  induction p with
  | nil =>
    unfold write
    split <;> simp [above, hk]
  | cons e rest ih =>
    obtain ⟨j, y⟩ := e
    obtain ⟨hj, hr⟩ := (above_cons _ _ _ _).1 h
    unfold write
    split
    · split
      · exact h
      · exact (above_cons _ _ _ _).2 ⟨hk, h⟩
    · split
      · split
        · exact hr
        · exact (above_cons _ _ _ _).2 ⟨hk, hr⟩
      · exact (above_cons _ _ _ _).2 ⟨hj, ih hr⟩

/-- A write keeps the canonical form. -/
theorem wf_write {p : Pool} (h : wf p = true) (b : Nat) (x : Buffer) : wf (write p b x) = true := by
  induction p with
  | nil =>
    unfold write
    split
    · rfl
    · simp_all [wf]
  | cons e rest ih =>
    obtain ⟨j, y⟩ := e
    rw [wf_cons] at h
    obtain ⟨hy, ha, hw⟩ := h
    unfold write
    split
    · next hb =>
      split
      · exact (wf_cons _ _ _).2 ⟨hy, ha, hw⟩
      · next hx =>
        exact (wf_cons _ _ _).2 ⟨hx, (above_cons _ _ _ _).2 ⟨hb, above_mono ha hb⟩, (wf_cons _ _ _).2 ⟨hy, ha, hw⟩⟩
    · split
      · next hb =>
        subst hb
        split
        · exact hw
        · next hx => exact (wf_cons _ _ _).2 ⟨hx, ha, hw⟩
      · next h1 h2 => exact (wf_cons _ _ _).2 ⟨hy, above_write (by omega) ha, ih hw⟩

theorem above_freed {k : Nat} {p : Pool} (h : above k p = true) : above k (freed p) = true := by
  induction p with
  | nil => exact h
  | cons e rest ih =>
    obtain ⟨j, y⟩ := e
    obtain ⟨hj, hr⟩ := (above_cons _ _ _ _).1 h
    simp only [freed]
    split
    · exact ih hr
    · exact (above_cons _ _ _ _).2 ⟨hj, ih hr⟩

/-- Setting every reference count to 0 keeps the canonical form. -/
theorem wf_freed {p : Pool} (h : wf p = true) : wf (freed p) = true := by
  induction p with
  | nil => rfl
  | cons e rest ih =>
    obtain ⟨j, y⟩ := e
    rw [wf_cons] at h
    simp only [freed]
    split
    · exact ih h.2.2
    · next hx => exact (wf_cons _ _ _).2 ⟨hx, above_freed h.2.1, ih h.2.2⟩

theorem read_of_above {b k : Nat} {p : Pool} (h : above k p = true) (hb : b ≤ k) : read p b = .unlisted := by
  induction p with
  | nil => rfl
  | cons e rest ih =>
    obtain ⟨j, y⟩ := e
    obtain ⟨hj, hr⟩ := (above_cons _ _ _ _).1 h
    have hne : j ≠ b := by omega
    simpa [read, hne] using ih hr

/-- A read after a write, at any two buffers of a canonical pool. -/
theorem read_write {p : Pool} (h : wf p = true) (b a : Nat) (x : Buffer) :
    read (write p b x) a = if a = b then x else read p a := by
  induction p with
  | nil =>
    by_cases hx : x = .unlisted
    · simp [write, hx, read]
    · by_cases hab : b = a
      · simp [write, hx, read, hab]
      · simp [write, hx, read, hab, Ne.symm hab]
  | cons e rest ih =>
    obtain ⟨j, y⟩ := e
    rw [wf_cons] at h
    obtain ⟨hy, ha, hw⟩ := h
    unfold write
    split
    · next hb =>
      by_cases hx : x = .unlisted
      · simp only [hx, if_true]
        split
        · next e =>
          subst e
          exact read_of_above (k := a) ((above_cons _ _ _ _).2 ⟨hb, above_mono ha hb⟩) (Nat.le_refl _)
        · rfl
      · simp only [hx, if_false, read]
        by_cases hab : b = a
        · simp [hab]
        · simp [hab, Ne.symm hab]
    · split
      · next hb =>
        subst hb
        by_cases hx : x = .unlisted
        · simp only [hx, if_true]
          split
          · next e => subst e; exact read_of_above ha (Nat.le_refl _)
          · next e => simp [read, Ne.symm e]
        · simp only [hx, if_false, read]
          by_cases hab : b = a
          · simp [hab]
          · simp [hab, Ne.symm hab]
      · next h1 h2 =>
        simp only [read, ih hw]
        by_cases hja : j = a
        · subst hja; simp [Ne.symm h2]
        · simp [hja]

/-- A listed value is read back after a write, whatever the list. -/
theorem read_write_self_of_ne (p : Pool) (b : Nat) {x : Buffer} (hx : x ≠ .unlisted) : read (write p b x) b = x := by
  induction p with
  | nil => simp [write, hx, read]
  | cons e rest ih =>
    obtain ⟨j, y⟩ := e
    unfold write
    split
    · simp [read]
    · split
      · simp [read]
      · next h1 h2 =>
        have hne : j ≠ b := fun e => h2 e.symm
        simp [read, hne, ih]

/-- A write over a listed value just written. -/
theorem write_write_of_ne (p : Pool) (b : Nat) {x : Buffer} (hx : x ≠ .unlisted) (y : Buffer) :
    write (write p b x) b y = write p b y := by
  induction p with
  | nil => simp [write, hx]
  | cons e rest ih =>
    obtain ⟨j, z⟩ := e
    by_cases hb : b < j
    · simp [write, hb, hx]
    · by_cases he : b = j
      · simp [write, he, hx]
      · simp [write, hb, he, ih]

end Pool

/-- A buffer with a reference is listed. -/
theorem Buffer.ne_unlisted_of_refs {x : Buffer} (h : x.refs ≠ 0) : x ≠ .unlisted := by
  intro e
  exact h (by simp [e, Buffer.unlisted])

/-- The canonical form of the buffers of State.reset. -/
theorem reset_pool_wf : Pool.wf State.reset.bfm.pool = true := rfl

namespace State

/-- What a granted allocation does, and all it does (R9). -/
theorem allocate_eq_some {s t : State} {threshold refs b : Nat} {cell : Cell} :
    s.allocate threshold refs cell = some (b, t) ↔
      ∃ rest, threshold < s.bfm.freeCount ∧ s.bfm.free = b :: rest ∧
        t = s.setBfm { free := rest, freeCount := s.bfm.freeCount - 1,
                       pool := Pool.write s.bfm.pool b { refs := refs, cell := cell, checkAgrees := true } } := by
  unfold allocate
  split
  · next h =>
    split
    · next hf => simp [hf]
    · next c rest hf =>
      constructor
      · intro e
        obtain ⟨rfl, rfl⟩ := Prod.mk.inj (Option.some.inj e)
        exact ⟨rest, h, hf, rfl⟩
      · rintro ⟨rest', -, hf', rfl⟩
        rw [hf] at hf'
        obtain ⟨rfl, rfl⟩ := List.cons.inj hf'
        rfl
  · next h =>
    constructor
    · intro e; cases e
    · rintro ⟨_, h', -⟩; exact absurd h' h

/-- What letting a reference go does, and all it does (R10). -/
theorem dropReference_cases (s : State) (b : Nat) :
    ((s.buffer b).refs = 0 ∧ s.dropReference b = (s, true)) ∨
    ((s.buffer b).refs = 1 ∧ s.dropReference b =
      (s.setBfm { free := s.bfm.free ++ [b], freeCount := s.bfm.freeCount + 1,
                  pool := Pool.write s.bfm.pool b { s.buffer b with refs := 0 } }, false)) ∨
    (∃ k, (s.buffer b).refs = k + 2 ∧
      s.dropReference b = (s.setBuffer b { s.buffer b with refs := k + 1 }, false)) := by
  unfold dropReference
  rcases h : (s.buffer b).refs with _ | _ | k
  · exact .inl ⟨rfl, by simp [h]⟩
  · exact .inr (.inl ⟨rfl, by simp [h]⟩)
  · exact .inr (.inr ⟨k, rfl, by simp [h]⟩)

/-- A buffer just allocated is not found at zero when it is let go (R9, R10). -/
theorem allocate_dropReference {s t : State} {threshold refs b : Nat} {cell : Cell} (h : 0 < refs)
    (e : s.allocate threshold refs cell = some (b, t)) : (t.dropReference b).2 = false := by
  obtain ⟨rest, -, -, rfl⟩ := allocate_eq_some.1 e
  have hx : ({ refs := refs, cell := cell, checkAgrees := true } : Buffer) ≠ .unlisted := Buffer.ne_unlisted_of_refs (by simp; omega)
  have hb : Pool.read (Pool.write s.bfm.pool b { refs := refs, cell := cell, checkAgrees := true }) b = _ :=
    Pool.read_write_self_of_ne _ _ hx
  generalize ht : s.setBfm _ = t
  have hr : (t.buffer b).refs = refs := by rw [← ht]; exact congrArg Buffer.refs hb
  rcases dropReference_cases t b with ⟨h0, -⟩ | ⟨-, e⟩ | ⟨k, -, e⟩
  · omega
  · rw [e]
  · rw [e]

/-- Letting a reference go changes the Buffer Manager and nothing else. -/
theorem dropReference_fst (s : State) (b : Nat) : ∃ x, (s.dropReference b).1 = s.setBfm x := by
  rcases s.dropReference_cases b with ⟨_, h⟩ | ⟨_, h⟩ | ⟨k, _, h⟩ <;> rw [h]
  · exact ⟨s.bfm, rfl⟩
  · exact ⟨_, rfl⟩
  · exact ⟨_, rfl⟩

theorem dropReference_pool_wf {s : State} (h : Pool.wf s.bfm.pool = true) (b : Nat) :
    Pool.wf (s.dropReference b).1.bfm.pool = true := by
  rcases s.dropReference_cases b with ⟨_, e⟩ | ⟨_, e⟩ | ⟨k, _, e⟩ <;> rw [e]
  · exact h
  · exact Pool.wf_write h _ _
  · exact Pool.wf_write h _ _

theorem allocate_pool_wf {s t : State} {threshold refs b : Nat} {cell : Cell} (h : Pool.wf s.bfm.pool = true)
    (e : s.allocate threshold refs cell = some (b, t)) : Pool.wf t.bfm.pool = true := by
  obtain ⟨rest, -, -, rfl⟩ := allocate_eq_some.1 e
  exact Pool.wf_write h _ _

theorem setBuffer_pool_wf {s : State} (h : Pool.wf s.bfm.pool = true) (b : Nat) (x : Buffer) :
    Pool.wf (s.setBuffer b x).bfm.pool = true := Pool.wf_write h _ _

end State

end Sys2Proof.Machine
end

