-- ==== Sys2Proof/Laws/Events.lean ====
section
/-! SUPPORT. All that a firing, a count, a notice, an export or the routing of a control cell can change: the Buffer Manager, the
counters, the Event Unit, the control queues and the egress FIFOs. And what each does when it brings nothing further about. -/

namespace Sys2Proof.Machine

/-- `t` is `s` but for the Buffer Manager, the counters, the Event Unit, the control queues and the egress FIFOs. -/
structure OnlyEvents (s t : State) : Prop where
  pins : t.pins = s.pins
  lck : t.lck = s.lck
  stb : t.stb = s.stb
  tin : t.tin = s.tin
  lrx : t.lrx = s.lrx
  mrg : t.mrg = s.mrg
  psc : t.psc = s.psc
  mga : t.mga = s.mga
  out : t.out = s.out
  openCount : t.openCount = s.openCount
  pending : t.pending = s.pending
  tx : ∀ l, ∃ q, t.tx l = { s.tx l with control := q }

namespace OnlyEvents

theorem refl (s : State) : OnlyEvents s s := ⟨rfl, rfl, rfl, rfl, rfl, rfl, rfl, rfl, rfl, rfl, rfl, fun _ => ⟨_, rfl⟩⟩

theorem trans {s t u : State} (h : OnlyEvents s t) (k : OnlyEvents t u) : OnlyEvents s u where
  pins := k.pins.trans h.pins
  lck := k.lck.trans h.lck
  stb := k.stb.trans h.stb
  tin := k.tin.trans h.tin
  lrx := k.lrx.trans h.lrx
  mrg := k.mrg.trans h.mrg
  psc := k.psc.trans h.psc
  mga := k.mga.trans h.mga
  out := k.out.trans h.out
  openCount := k.openCount.trans h.openCount
  pending := k.pending.trans h.pending
  tx l := by
    obtain ⟨q, hq⟩ := h.tx l
    obtain ⟨q', hq'⟩ := k.tx l
    exact ⟨q', by rw [hq', hq]⟩

theorem setBfm (s : State) (x : BufferManager) : OnlyEvents s (s.setBfm x) :=
  ⟨rfl, rfl, rfl, rfl, rfl, rfl, rfl, rfl, rfl, rfl, rfl, fun _ => ⟨_, rfl⟩⟩

theorem setCounter (s : State) (r : CounterRef) (x : Counter) : OnlyEvents s (s.setCounter r x) := by
  cases r <;> exact ⟨rfl, rfl, rfl, rfl, rfl, rfl, rfl, rfl, rfl, rfl, rfl, fun _ => ⟨_, rfl⟩⟩

theorem setSource (s : State) (i : Source) (x : SourceRecord) : OnlyEvents s (s.setSource i x) :=
  ⟨rfl, rfl, rfl, rfl, rfl, rfl, rfl, rfl, rfl, rfl, rfl, fun _ => ⟨_, rfl⟩⟩

theorem setFloor (s : State) (f : Nat) : OnlyEvents s (s.setFloor f) :=
  ⟨rfl, rfl, rfl, rfl, rfl, rfl, rfl, rfl, rfl, rfl, rfl, fun _ => ⟨_, rfl⟩⟩

theorem setChannel (s : State) (ch : ChannelId) (x : Channel) : OnlyEvents s (s.setChannel ch x) :=
  ⟨rfl, rfl, rfl, rfl, rfl, rfl, rfl, rfl, rfl, rfl, rfl, fun _ => ⟨_, rfl⟩⟩

theorem setEgress (s : State) (p : PortId) (x : List EgressEntry) : OnlyEvents s (s.setEgress p x) :=
  ⟨rfl, rfl, rfl, rfl, rfl, rfl, rfl, rfl, rfl, rfl, rfl, fun _ => ⟨_, rfl⟩⟩

theorem setControl (s : State) (l : Lane) (q : List Nat) : OnlyEvents s (s.setControl l q) :=
  ⟨rfl, rfl, rfl, rfl, rfl, rfl, rfl, rfl, rfl, rfl, rfl, fun m => by
    by_cases h : m = l
    · subst h; exact ⟨q, by simp [State.setControl]⟩
    · exact ⟨(s.tx m).control, by simp [State.setControl, State.tx_setTx, h]⟩⟩

theorem dropReference (s : State) (b : Nat) : OnlyEvents s (s.dropReference b).1 := by
  obtain ⟨x, hx⟩ := s.dropReference_fst b
  rw [hx]
  exact setBfm s x

theorem allocate {s t : State} {threshold refs b : Nat} {cell : Cell} (h : s.allocate threshold refs cell = some (b, t)) :
    OnlyEvents s t := by
  obtain ⟨rest, -, -, rfl⟩ := State.allocate_eq_some.1 h
  exact setBfm s _

theorem storeCell (s : State) (b : Nat) (x : Cell) : OnlyEvents s (s.storeCell b x) := setBfm s _

end OnlyEvents

/-- A relation that permits at least what a firing changes, and any number of such changes. -/
structure Permits (R : State → State → Prop) : Prop where
  trans : ∀ {s t u : State}, R s t → R t u → R s u
  events : ∀ {s t : State}, OnlyEvents s t → R s t

/-- What decides inner firings changes nothing else either. -/
def Raise.Only (raise : Raise) : Prop := ∀ src d s, OnlyEvents s (raise src d s)

section WithRaise

variable {raise : Raise} (hr : Raise.Only raise)

include hr

theorem countWith_only (r : CounterRef) (s : State) : OnlyEvents s (countWith raise r s) := by
  unfold countWith
  dsimp only
  split
  · exact (OnlyEvents.setCounter _ _ _).trans (hr _ _ _)
  · exact OnlyEvents.setCounter _ _ _

theorem undeliverableWith_only (s : State) : OnlyEvents s (undeliverableWith raise s) :=
  (countWith_only hr _ s).trans (hr _ _ _)

theorem raiseIfLow_only (before s : State) : OnlyEvents s (raiseIfLow raise before s) := by
  unfold raiseIfLow
  split
  · exact hr _ _ _
  · exact .refl s

theorem allocateWith_only {s t : State} {threshold refs b : Nat} {cell : Cell}
    (h : allocateWith raise threshold refs cell s = some (b, t)) : OnlyEvents s t := by
  unfold allocateWith at h
  split at h
  · cases h
  · next b' t' ht =>
    obtain ⟨rfl, rfl⟩ := Prod.mk.inj (Option.some.inj h)
    exact (OnlyEvents.allocate ht).trans (raiseIfLow_only hr _ _)

omit hr in
theorem dropFresh_only (b : Nat) (s : State) : OnlyEvents s (dropFresh b s) := .dropReference s b

/-- What the routing of a control cell can change, when letting its buffer go changes nothing beyond `R` (R136, R159 to R161). -/
theorem discardWith_rel {R : State → State → Prop} (hR : Permits R) {letGo : LetGo}
    (hg : ∀ b s, R s (letGo b s)) (b : Nat) (s : State) :
    R s (discardWith raise letGo b s) :=
  hR.trans (hg b s) (hR.events (undeliverableWith_only hr _))

theorem placeControlWith_rel {R : State → State → Prop} (hR : Permits R) {letGo : LetGo}
    (hg : ∀ b s, R s (letGo b s)) (b : Nat) (s : State) :
    R s (placeControlWith raise letGo b s) := by
  unfold placeControlWith
  split
  · exact hR.events (.setControl _ _ _)
  · exact discardWith_rel hr hR hg b s

theorem controllerRouteWith_rel {R : State → State → Prop} (hR : Permits R) {letGo : LetGo}
    (hg : ∀ b s, R s (letGo b s)) (fromLane : Bool) (b : Nat)
    (s : State) : R s (controllerRouteWith raise letGo fromLane b s) := by
  unfold controllerRouteWith
  split
  · unfold offerControlWith
    split
    · exact hR.events (.setEgress _ _ _)
    · exact hR.trans (hg b s) (hR.events ((countWith_only hr _ _).trans (undeliverableWith_only hr _)))
  · split
    · exact discardWith_rel hr hR hg b s
    · exact placeControlWith_rel hr hR hg b s

/-- The routing of a cell in a buffer that the same firing has allocated. -/
theorem controllerRouteWith_only (fromLane : Bool) (b : Nat) (s : State) :
    OnlyEvents s (controllerRouteWith raise dropFresh fromLane b s) :=
  controllerRouteWith_rel (R := OnlyEvents) hr ⟨OnlyEvents.trans, id⟩ dropFresh_only fromLane b s

theorem sendNoticeWith_only (s : State) : OnlyEvents s (sendNoticeWith raise s) := by
  unfold sendNoticeWith
  split
  · exact .refl s
  · split
    · exact undeliverableWith_only hr s
    · next b t ht =>
      exact (OnlyEvents.allocate ht).trans ((controllerRouteWith_only hr _ _ _).trans
        ((countWith_only hr _ _).trans (raiseIfLow_only hr _ _)))

theorem exportAttemptWith_only (id : ChannelId) (s : State) : OnlyEvents s (exportAttemptWith raise id s) := by
  unfold exportAttemptWith
  dsimp only
  split
  · split
    · exact .refl s
    · next b t ht =>
      split
      · exact (OnlyEvents.allocate ht).trans ((OnlyEvents.setChannel _ _ _).trans ((OnlyEvents.storeCell _ _ _).trans
          ((controllerRouteWith_only hr _ _ _).trans ((raiseIfLow_only hr _ _).trans ((OnlyEvents.setChannel _ _ _).trans
            (hr _ _ _))))))
      · exact (OnlyEvents.allocate ht).trans ((OnlyEvents.setChannel _ _ _).trans ((OnlyEvents.storeCell _ _ _).trans
          ((controllerRouteWith_only hr _ _ _).trans ((raiseIfLow_only hr _ _).trans (OnlyEvents.setChannel _ _ _)))))
  · exact .refl s

theorem takeFiringWith_only (id : ChannelId) (s : State) : OnlyEvents s (takeFiringWith raise id s) := by
  unfold takeFiringWith
  dsimp only
  split
  · exact countWith_only hr _ s
  · exact (OnlyEvents.setChannel _ _ _).trans (exportAttemptWith_only hr _ _)

theorem noticeRuleWith_only (src : Source) (s : State) : OnlyEvents s (noticeRuleWith raise src s) := by
  unfold noticeRuleWith
  split
  · exact sendNoticeWith_only hr s
  · split
    · exact (OnlyEvents.setFloor _ _).trans (sendNoticeWith_only hr _)
    · exact .refl s

theorem fireWith_only (src : Source) (d : Detail) (s : State) : OnlyEvents s (fireWith raise src d s) := by
  unfold fireWith
  split
  · exact takeFiringWith_only hr _ s
  · split
    · exact .setSource _ _ _
    · exact (OnlyEvents.setSource _ _ _).trans (noticeRuleWith_only hr _ _)

end WithRaise

theorem fireTo_only (n : Nat) : Raise.Only (fireTo n) := by
  induction n with
  | zero => intro src d s; exact .refl s
  | succ n ih => intro src d s; exact fireWith_only ih src d s

/-- A firing changes nothing but what `OnlyEvents` lets change. -/
theorem fire_only : Raise.Only fire := by
  unfold fire
  exact fireTo_only _

theorem count_only (r : CounterRef) (s : State) : OnlyEvents s (count r s) := countWith_only fire_only r s

theorem countStream_only (n : StreamId) (c : StreamCounter) (s : State) : OnlyEvents s (countStream n c s) := count_only _ s

theorem countLane_only (l : Lane) (c : LaneCounter) (s : State) : OnlyEvents s (countLane l c s) := count_only _ s

theorem countPort_only (p : PortId) (c : PortCounter) (s : State) : OnlyEvents s (countPort p c s) := count_only _ s

theorem countStation_only (c : StationCounter) (s : State) : OnlyEvents s (countStation c s) := count_only _ s

theorem countTimes_only (r : CounterRef) (n : Nat) (s : State) : OnlyEvents s (countTimes r n s) := by
  induction n generalizing s with
  | zero => exact .refl s
  | succ n ih => exact (count_only r s).trans (ih _)

theorem undeliverable_only (s : State) : OnlyEvents s (undeliverable s) := undeliverableWith_only fire_only s

/-- The routing of a response, when letting its buffer go changes nothing beyond `R` (R162, step 3). -/
theorem routeResponseWith_rel {R : State → State → Prop} (hR : Permits R) {letGo : LetGo}
    (hg : ∀ b s, R s (letGo b s)) (dest : Fin 8) (b : Nat)
    (s : State) : R s (routeResponseWith letGo dest b s) := by
  unfold routeResponseWith
  split
  · exact controllerRouteWith_rel fire_only hR hg _ _ _
  · split
    · exact placeControlWith_rel fire_only hR hg _ _
    · exact discardWith_rel fire_only hR hg _ _

theorem allocateControl_only {cell : Cell} {s t : State} {b : Nat} (h : allocateControl cell s = some (b, t)) :
    OnlyEvents s t := allocateWith_only fire_only h

theorem allocateMedia_only {cls : Fin 4} {refs : Nat} {cell : Cell} {s t : State} {b : Nat}
    (h : allocateMedia cls refs cell s = some (b, t)) : OnlyEvents s t := allocateWith_only fire_only h

/-- A response in a buffer of its own, when letting it go changes nothing beyond `R` (R27, R161). -/
theorem respondInOwnBufferWith_rel {R : State → State → Prop} (hR : Permits R) {letGo : LetGo}
    (hg : ∀ b s, R s (letGo b s)) (dest : Fin 8) (cell : Cell)
    (s : State) : R s (respondInOwnBufferWith letGo dest cell s) := by
  unfold respondInOwnBufferWith
  split
  · exact hR.events (undeliverable_only s)
  · next b t ht => exact hR.trans (hR.events (allocateControl_only ht)) (routeResponseWith_rel hR hg _ _ _)

theorem sendNotice_only (s : State) : OnlyEvents s (sendNotice s) := sendNoticeWith_only fire_only s

theorem floorTest_only (s : State) : OnlyEvents s (floorTest s) := by
  unfold floorTest
  split
  · exact .refl s
  · split
    · exact (OnlyEvents.setFloor _ _).trans (sendNotice_only _)
    · exact .refl s

theorem exportAttempt_only (ch : ChannelId) (s : State) : OnlyEvents s (exportAttemptWith fire ch s) :=
  exportAttemptWith_only fire_only ch s

/-! ### What the reads of other blocks see after it -/

namespace OnlyEvents

variable {s t : State} (h : OnlyEvents s t)

include h

theorem entry (n : StreamId) : t.entry n = s.entry n := by simp only [State.entry, h.stb]
theorem run (n : StreamId) : t.run n = s.run n := by simp only [State.run, h.stb]
theorem rx (l : Lane) : t.rx l = s.rx l := by simp only [State.rx, h.lrx]
theorem context (c : ContextId) : t.context c = s.context c := by simp only [State.context, h.mrg]
theorem ingress (p : PortId) : t.ingress p = s.ingress p := by simp only [State.ingress, h.tin]
theorem present (p : PortId) : t.present p = s.present p := by simp only [State.present, h.pins]
theorem now : t.now = s.now := by simp only [State.now, h.lck]
theorem restarting : t.restarting = s.restarting := by simp only [State.restarting, h.mga]
theorem effectivePlan (n : StreamId) : t.effectivePlan n = s.effectivePlan n := by
  simp only [State.effectivePlan, h.entry, h.psc]
theorem view (l : Lane) : t.view l = s.view l := by
  obtain ⟨q, hq⟩ := h.tx l
  simp only [State.view, hq]
theorem classQueue (l : Lane) (k : Fin 4) : t.classQueue l k = s.classQueue l k := by
  obtain ⟨q, hq⟩ := h.tx l
  simp only [State.classQueue, hq]
theorem derivedView (l : Lane) : t.derivedView l = s.derivedView l := by
  have hx : t.txfault l = s.txfault l := by cases l <;> simp only [State.txfault, h.pins]
  simp only [State.derivedView, hx, h.rx, h.lrx]

end OnlyEvents

/-! ### Firings and counts that bring nothing further about -/

/-- No export channel is bound to the source (R156). -/
def State.unbound (s : State) (src : Source) : Prop := s.takerOf src = none

theorem fire_unfold : fire = fireWith (fireTo 127) := by
  unfold fire
  rfl

/-- A source already pending counts a repeat (R150). -/
theorem fire_repeat {s : State} {src : Source} (hb : s.unbound src) (hf : (s.source src).flag = true) (d : Detail) :
    fire src d s = s.repeatFlag src := by
  have h : s.takerOf src = none := hb
  simp [fire_unfold, fireWith, h, hf]

/-- A source at a level not above the floor sets its flag, without a notice (R150, R151). -/
theorem fire_silent {s : State} {src : Source} (hb : s.unbound src) (hf : (s.source src).flag = false) (hn : src ≠ srcFault)
    (hl : (s.source src).level ≤ s.evu.floor) (d : Detail) : fire src d s = s.setFlag src d := by
  have h : s.takerOf src = none := hb
  have hl' : ¬ (s.setFlag src d).evu.floor < ((s.setFlag src d).source src).level := by
    simpa [State.setFlag] using hl
  simp [fire_unfold, fireWith, h, hf, noticeRuleWith, hn, hl']

/-- A count away from the half mark (R143 to R145). -/
theorem count_calm {s : State} {r : CounterRef} (h : (s.counter r).atHalf = false) :
    count r s = s.setCounter r (s.counter r).increment := by
  simp [count, countWith, h]

/-- A count at the half mark raises COUNTER_HALF (R145). -/
theorem count_half {s : State} {r : CounterRef} (h : (s.counter r).atHalf = true) :
    count r s = fire srcCounterHalf (.counterHalf r.kind r.index r.id) (s.setCounter r (s.counter r).increment) := by
  simp [count, countWith, h]

/-- A control-class buffer granted without BUFFER_LOW (R9, R12). -/
theorem allocateControl_calm {s : State} {b : Nat} {rest : List Nat} (hf : s.bfm.free = b :: rest) (h0 : 0 < s.bfm.freeCount)
    (hl : s.bfm.freeCount ≠ 512) (cell : Cell) :
    allocateControl cell s = some (b, s.setBfm
      { free := rest, freeCount := s.bfm.freeCount - 1,
        pool := Pool.write s.bfm.pool b { refs := 1, cell := cell, checkAgrees := true } }) := by
  have h : s.allocate 0 1 cell = some (b, _) := State.allocate_eq_some.2 ⟨rest, h0, hf, rfl⟩
  simp [allocateControl, allocateWith, h, raiseIfLow, Config.bufferLowMark, hl]

/-- A control-class buffer refused (R9). -/
theorem allocateControl_none {s : State} (h0 : s.bfm.freeCount = 0) (cell : Cell) : allocateControl cell s = none := by
  simp [allocateControl, allocateWith, State.allocate, h0]

/-- A response for the controller joins the FIFO of its present port with room (R136, R160). -/
theorem routeResponse_port {s : State} {p : PortId} (hp : s.mga.settings.controllerPort = some p) (hs : s.present p = true)
    (hr : (s.egress p).length < 512) (b : Nat) :
    routeResponse controllerAddress b s = s.setEgress p (s.egress p ++ [.control b]) := by
  have h : s.reachablePort = some p := by simp [State.reachablePort, hp, hs]
  simp [routeResponse, routeResponseWith, controllerRouteWith, h, offerControlWith, Config.egressDepth, hr]

end Sys2Proof.Machine
end

