-- ==== Sys2Proof/Laws/Agent.lean ====
section
/-! SUPPORT. What one service of the agent can do, said once (R162): it finds nothing to serve, it waits for a buffer, or it
answers the controller through its port. -/

namespace Sys2Proof.Machine

open Safety

theorem served_of_heads {s : State} {step : Instr} {r : Request} {rest : List Request} {p : PortId} {b : Nat} {bs : List Nat}
    (h : Heads s step r rest p b bs) : s.served step = some r := by
  simp [State.served, h.idle, h.head, h.code]

theorem allocateControl_granted {s : State} {b : Nat} {bs : List Nat} (h : Grants s 0 b bs) (cell : Cell) :
    allocateControl cell s = some (b, granted b bs 1 cell s) :=
  allocateControl_calm h.free h.above h.notLow cell

/-- A firing of a silent source sets its flag with the detail or counts a repeat, and nothing else (R150, R151). -/
theorem fire_flaggedAs {s : State} {src : Source} (h : Silent s src) (d : Detail) : fire src d s = flaggedAs src d s := by
  unfold flaggedAs
  split
  · next hf => exact fire_repeat h.unbound hf _
  · next hf =>
    have hf : (s.source src).flag = false := by simpa using hf
    have hl := h.quiet.resolve_left (by simp [hf])
    exact fire_silent h.unbound hf h.notFault hl _

theorem fire_flagged {s : State} {src : Source} (h : Silent s src) : fire src .none s = flagged src s := fire_flaggedAs h .none

/-- A cell built in a buffer just allocated is as if it had been allocated with it (R9). -/
theorem granted_storeCell (b : Nat) (bs : List Nat) (x y : Cell) (s : State) :
    (granted b bs 1 x s).storeCell b y = granted b bs 1 y s := by
  have hx : ({ refs := 1, cell := x, checkAgrees := true } : Buffer) ≠ .unlisted :=
    Buffer.ne_unlisted_of_refs (by simp)
  simp only [State.storeCell, State.setBuffer, granted, State.setBfm, State.buffer, Pool.read_write_self_of_ne _ _ hx,
    Pool.write_write_of_ne _ _ hx]

/-- What the serving of the controller's request answers, and all it does: the effect of the command, the response in its buffer at
the tail of the port's FIFO, MGMT_ERROR for an error status, and the request removed (R162). -/
theorem serve_answered {s t : State} {step : Instr} {decide : Decide} {r : Request} {rest : List Request} {o p : PortId} {b : Nat}
    {bs : List Nat} {status : Status} {result : List Byte} (h : Heads s step r rest o b bs)
    (hd : decide r.payload (granted b bs 1 .empty s) = (granted b bs 1 .empty t, .respond status result))
    (hr : t.mga.requests = r :: rest) (hp : Reaches t p) (hq : status.isError = true → Silent t srcMgmtError) :
    serve step decide s =
      answered r rest p b bs status result (if status.isError then flagged srcMgmtError t else t) := by
  unfold serve
  rw [served_of_heads h]
  dsimp only
  rw [allocateControl_granted h.grants]
  dsimp only
  rw [hd]
  unfold conclude
  dsimp only
  rw [granted_storeCell, h.source]
  have hs : (granted b bs 1 .empty t).mga.station = t.mga.station := rfl
  rw [hs]
  rw [routeResponse_port (p := p) (s := granted b bs 1 _ t) hp.port hp.present hp.room]
  unfold answered
  rw [h.source]
  unfold raiseError removeRequest
  cases he : status.isError with
  | false => simp [hr, granted, State.setMga, State.setEgress, State.setBfm, State.egress]
  | true =>
    have hsil := hq he
    have hsil' : Silent ((granted b bs 1
        (responseCell t.mga.station controllerAddress (requestTag r.payload) (requestCommand r.payload) status result) t).setEgress p
        ((granted b bs 1 (responseCell t.mga.station controllerAddress (requestTag r.payload) (requestCommand r.payload) status
          result) t).egress p ++ [.control b])) srcMgmtError := ⟨hsil.notFault, hsil.unbound, hsil.quiet⟩
    simp only [if_true]
    rw [fire_flagged hsil']
    unfold flagged flaggedAs
    have hsrc : ((granted b bs 1
        (responseCell t.mga.station controllerAddress (requestTag r.payload) (requestCommand r.payload) status result) t).setEgress p
        ((granted b bs 1 (responseCell t.mga.station controllerAddress (requestTag r.payload) (requestCommand r.payload) status
          result) t).egress p ++ [.control b])).source srcMgmtError = t.source srcMgmtError := rfl
    rw [hsrc]
    cases hf : (t.source srcMgmtError).flag <;>
      simp [hr, granted, State.setMga, State.setEgress, State.setBfm, State.egress, State.repeatFlag, State.setFlag,
        State.setSource, State.source]

/-- A service that finds no buffer only waits (R162). -/
theorem serve_waits {s : State} {step : Instr} {decide : Decide} {r : Request} (h : s.served step = some r)
    (h0 : s.bfm.freeCount = 0) : serve step decide s = awaitBuffer s := by
  unfold serve
  rw [h]
  dsimp only
  rw [allocateControl_none h0]

/-- A step whose request does not head the queue changes nothing (log 3). -/
theorem serve_none {s : State} {step : Instr} {decide : Decide} (h : s.served step = none) : serve step decide s = s := by
  unfold serve
  rw [h]

end Sys2Proof.Machine
end

