-- ==== Sys2Proof/Laws/Hold.lean ====
section
/-! SUPPORT. All that a fault cause, a dereference, a recomputation of committed load, the completion of a drain and a protection requeue
can change, beyond what a firing can: stream states, queued counts, class queues and loads, windows, and the fault and drain items
of the agent. -/

namespace Sys2Proof.Machine

/-- `t` is `s` but for what FAULT-HOLD, dereferences, recomputations and requeues may touch. -/
structure OnlyHold (s t : State) : Prop where
  pins : t.pins = s.pins
  lck : t.lck = s.lck
  tin : t.tin = s.tin
  lrx : t.lrx = s.lrx
  psc : t.psc = s.psc
  out : t.out = s.out
  openCount : t.openCount = s.openCount
  pending : t.pending = s.pending
  station : t.mga.station = s.mga.station
  settings : t.mga.settings = s.mga.settings
  requests : t.mga.requests = s.mga.requests
  restart : t.mga.restart = s.mga.restart
  serviceDue : t.mga.serviceDue = s.mga.serviceDue
  entry : ∀ n, ∃ st, t.entry n = { s.entry n with state := st }
  run : ∀ n, ∃ q, t.run n = { s.run n with queued := q }
  context : ∀ c, ∃ sl lr ck, t.context c = { s.context c with slots := sl, lastRelease := lr, checkAgrees := ck }
  tx : ∀ l, ∃ q cl a u o,
    t.tx l = { s.tx l with control := q, classes := cl, load := a, unpoliced := u, overcommitted := o }

namespace OnlyHold

theorem refl (s : State) : OnlyHold s s :=
  ⟨rfl, rfl, rfl, rfl, rfl, rfl, rfl, rfl, rfl, rfl, rfl, rfl, rfl, fun _ => ⟨_, rfl⟩, fun _ => ⟨_, rfl⟩,
    fun _ => ⟨_, _, _, rfl⟩, fun _ => ⟨_, _, _, _, _, rfl⟩⟩

theorem trans {s t u : State} (h : OnlyHold s t) (k : OnlyHold t u) : OnlyHold s u where
  pins := k.pins.trans h.pins
  lck := k.lck.trans h.lck
  tin := k.tin.trans h.tin
  lrx := k.lrx.trans h.lrx
  psc := k.psc.trans h.psc
  out := k.out.trans h.out
  openCount := k.openCount.trans h.openCount
  pending := k.pending.trans h.pending
  station := k.station.trans h.station
  settings := k.settings.trans h.settings
  requests := k.requests.trans h.requests
  restart := k.restart.trans h.restart
  serviceDue := k.serviceDue.trans h.serviceDue
  entry n := by
    obtain ⟨a, ha⟩ := h.entry n
    obtain ⟨b, hb⟩ := k.entry n
    exact ⟨b, by rw [hb, ha]⟩
  run n := by
    obtain ⟨a, ha⟩ := h.run n
    obtain ⟨b, hb⟩ := k.run n
    exact ⟨b, by rw [hb, ha]⟩
  context c := by
    obtain ⟨a, a', a'', ha⟩ := h.context c
    obtain ⟨b, b', b'', hb⟩ := k.context c
    exact ⟨b, b', b'', by rw [hb, ha]⟩
  tx l := by
    obtain ⟨a, a', a'', a3, a4, ha⟩ := h.tx l
    obtain ⟨b, b', b'', b3, b4, hb⟩ := k.tx l
    exact ⟨b, b', b'', b3, b4, by rw [hb, ha]⟩

theorem ofEvents {s t : State} (h : OnlyEvents s t) : OnlyHold s t where
  pins := h.pins
  lck := h.lck
  tin := h.tin
  lrx := h.lrx
  psc := h.psc
  out := h.out
  openCount := h.openCount
  pending := h.pending
  station := by rw [h.mga]
  settings := by rw [h.mga]
  requests := by rw [h.mga]
  restart := by rw [h.mga]
  serviceDue := by rw [h.mga]
  entry n := ⟨_, h.entry n⟩
  run n := ⟨_, h.run n⟩
  context c := ⟨_, _, _, h.context c⟩
  tx l := by
    obtain ⟨q, hq⟩ := h.tx l
    exact ⟨q, _, _, _, _, hq⟩

theorem permits : Permits OnlyHold := ⟨trans, ofEvents⟩

theorem setQueued (s : State) (n : StreamId) (q : Nat) : OnlyHold s (s.setRun n { s.run n with queued := q }) :=
  { refl s with
    run := fun m => by
      rw [State.run_setRun]
      split
      · next e => subst e; exact ⟨q, rfl⟩
      · exact ⟨_, rfl⟩ }

theorem subQueued (s : State) (n : StreamId) : OnlyHold s (s.subQueued n) := setQueued s n _

theorem setState (s : State) (n : StreamId) (st : StreamState) :
    OnlyHold s (s.setEntry n { s.entry n with state := st }) :=
  { refl s with
    entry := fun m => by
      rw [State.entry_setEntry]
      split
      · next e => subst e; exact ⟨st, rfl⟩
      · exact ⟨_, rfl⟩ }

theorem setTx {s : State} {l : Lane} {x : LaneTx}
    (h : ∃ q cl a u o, x = { s.tx l with control := q, classes := cl, load := a, unpoliced := u, overcommitted := o }) :
    OnlyHold s (s.setTx l x) :=
  { refl s with
    tx := fun m => by
      rw [State.tx_setTx]
      split
      · next e => subst e; exact h
      · exact ⟨_, _, _, _, _, rfl⟩ }

theorem setControl (s : State) (l : Lane) (q : List Nat) : OnlyHold s (s.setControl l q) := setTx ⟨_, _, _, _, _, rfl⟩

theorem setClassQueue (s : State) (l : Lane) (k : Fin 4) (q : List QueueEntry) : OnlyHold s (s.setClassQueue l k q) :=
  setTx ⟨_, _, _, _, _, rfl⟩

theorem setLoad (s : State) (l : Lane) (x : Nat × Nat) : OnlyHold s (s.setLoad l x) := setTx ⟨_, _, _, _, _, rfl⟩

theorem setContext {s : State} {c : ContextId} {x : Context}
    (h : ∃ sl lr ck, x = { s.context c with slots := sl, lastRelease := lr, checkAgrees := ck }) :
    OnlyHold s (s.setContext c x) :=
  { refl s with
    context := fun d => by
      rw [State.context_setContext]
      split
      · next e => subst e; exact h
      · exact ⟨_, _, _, rfl⟩ }

theorem setMga {s : State} {x : ManagementAgent} (h1 : x.station = s.mga.station) (h2 : x.settings = s.mga.settings)
    (h3 : x.requests = s.mga.requests) (h4 : x.restart = s.mga.restart) (h5 : x.serviceDue = s.mga.serviceDue) :
    OnlyHold s (s.setMga x) :=
  { refl s with station := h1, settings := h2, requests := h3, restart := h4, serviceDue := h5 }

theorem dropReference (s : State) (b : Nat) : OnlyHold s (s.dropReference b).1 := ofEvents (.dropReference s b)

/-- A fold keeps what each of its rounds keeps. -/
theorem foldl {α : Type} {f : State → α → State} (hf : ∀ s a, OnlyHold s (f s a)) (as : List α) (s : State) :
    OnlyHold s (as.foldl f s) := by
  induction as generalizing s with
  | nil => exact refl s
  | cons a as ih => exact (hf s a).trans (ih _)

/-- The same for a fold that gathers something beside the state. -/
theorem foldlPair {α β : Type} {f : State × β → α → State × β} (hf : ∀ x a, OnlyHold x.1 (f x a).1) (as : List α)
    (x : State × β) : OnlyHold x.1 (as.foldl f x).1 := by
  induction as generalizing x with
  | nil => exact refl _
  | cons a as ih => exact (hf x a).trans (ih _)

end OnlyHold

theorem fire_hold (src : Source) (d : Detail) (s : State) : OnlyHold s (fire src d s) := .ofEvents (fire_only src d s)

theorem countLane_hold (l : Lane) (c : LaneCounter) (s : State) : OnlyHold s (countLane l c s) := .ofEvents (countLane_only l c s)

theorem countStream_hold (n : StreamId) (c : StreamCounter) (s : State) : OnlyHold s (countStream n c s) :=
  .ofEvents (countStream_only n c s)

theorem countPort_hold (p : PortId) (c : PortCounter) (s : State) : OnlyHold s (countPort p c s) :=
  .ofEvents (countPort_only p c s)

/-! ### Committed load and drains -/

theorem recomputeLoad_hold (s : State) : OnlyHold s (recomputeLoad s) :=
  (OnlyHold.foldl (fun _ _ => OnlyHold.setLoad _ _ _) _ s).trans (OnlyHold.foldl (fun _ _ => fire_hold _ _ _) _ _)

theorem suspendDrained_hold (d : Drain) (s : State) : OnlyHold s (suspendDrained d s) :=
  (OnlyHold.setMga (s := s) (x := { s.mga with drain := none }) rfl rfl rfl rfl rfl).trans (OnlyHold.setState _ _ _)

theorem dropFresh_hold (b : Nat) (s : State) : OnlyHold s (dropFresh b s) := .dropReference s b

theorem finishDrain_hold {letGo : LetGo} (hg : ∀ b s, OnlyHold s (letGo b s)) (d : Drain) (s : State) :
    OnlyHold s (finishDrain letGo d s) :=
  (suspendDrained_hold d s).trans
    ((respondInOwnBufferWith_rel OnlyHold.permits hg _ _ _).trans (recomputeLoad_hold _))

/-! ### The FAULT-HOLD actions -/

theorem dropGathering_hold (x : State × List Nat) (b : Nat) : OnlyHold x.1 (dropGathering x b).1 :=
  OnlyHold.dropReference x.1 b

theorem flushEntry_hold (l : Lane) (x : State × List Nat) (e : QueueEntry) : OnlyHold x.1 (flushEntry l x e).1 :=
  (dropGathering_hold x e.buffer).trans ((OnlyHold.subQueued _ _).trans (countLane_hold _ _ _))

theorem flushQueue_hold (x : State × List Nat) (q : Lane × Fin 4) : OnlyHold x.1 (flushQueue x q).1 :=
  (OnlyHold.setClassQueue x.1 q.1 q.2 []).trans
    (OnlyHold.foldlPair (flushEntry_hold q.1) _ (x.1.setClassQueue q.1 q.2 [], x.2))

theorem emptyWindow_hold (x : State × List Nat) (c : ContextId) : OnlyHold x.1 (emptyWindow x c).1 := by
  unfold emptyWindow
  dsimp only
  split
  · exact (OnlyHold.setContext (s := x.1) (c := c) ⟨_, _, _, rfl⟩).trans
      (OnlyHold.foldlPair dropGathering_hold _ (x.1.setContext c (x.1.context c).emptied, x.2))
  · exact .refl _

theorem purgeEntry_hold (p : PortId) (x : State × List Nat) (e : EgressEntry) : OnlyHold x.1 (purgeEntry p x e).1 := by
  unfold purgeEntry
  split
  · dsimp only
    exact (dropGathering_hold x _).trans ((countStream_hold _ _ _).trans (countPort_hold _ _ _))
  · exact countPort_hold _ _ _
  · exact .refl _

theorem purgePort_hold (x : State × List Nat) (p : PortId) : OnlyHold x.1 (purgePort x p).1 :=
  (OnlyHold.ofEvents (.setEgress x.1 p _)).trans
    (OnlyHold.foldlPair (purgeEntry_hold p) _ (x.1.setEgress p ((x.1.egress p).filter EgressEntry.isControl), x.2))

theorem holdActions_hold (s : State) : OnlyHold s (holdActions s).1 :=
  (OnlyHold.foldlPair flushQueue_hold _ (s, [])).trans
    ((OnlyHold.foldlPair emptyWindow_hold _ _).trans (OnlyHold.foldlPair purgePort_hold _ _))

theorem furtherFault_hold (cause : FaultCause) (index : Nat) (s : State) : OnlyHold s (furtherFault cause index s) := by
  unfold furtherFault
  exact (OnlyHold.setMga (s := s) (x := { s.mga with furtherFaults := min (s.mga.furtherFaults + 1) 255 }) rfl rfl rfl rfl
    rfl).trans (fire_hold _ _ _)

theorem furtherFaults_hold (found : Found) (s : State) :
    OnlyHold s (found.foldl (fun s f => furtherFault f.1 f.2 s) s) := by
  induction found generalizing s with
  | nil => exact .refl s
  | cons f rest ih => exact (furtherFault_hold f.1 f.2 s).trans (ih _)

theorem enterHold_hold (cause : FaultCause) (index : Nat) (s : State) : OnlyHold s (enterHold cause index s) := by
  have h := (OnlyHold.setMga (s := s)
    (x := { s.mga with faultCause := some cause, faultIndex := index, furtherFaults := 0, held := true }) rfl rfl rfl rfl
    rfl).trans (holdActions_hold _)
  have hd := fun d => h.trans (finishDrain_hold dropFresh_hold d _)
  unfold enterHold
  dsimp only
  generalize holdActions (s.setMga _) = acted at h hd ⊢
  refine ((?_ : OnlyHold s _).trans (fire_hold _ _ _)).trans (furtherFaults_hold _ _)
  cases acted.1.mga.drain with
  | none => exact h
  | some d => exact hd d

/-- A fault cause changes nothing but what `OnlyHold` lets change. -/
theorem raiseFault_hold (cause : FaultCause) (index : Nat) (s : State) : OnlyHold s (raiseFault cause index s) := by
  unfold raiseFault
  split
  · exact furtherFault_hold _ _ _
  · exact enterHold_hold _ _ _

theorem raiseAll_hold (found : Found) (s : State) : OnlyHold s (raiseAll found s) := by
  unfold raiseAll
  induction found generalizing s with
  | nil => exact .refl s
  | cons f rest ih => exact (raiseFault_hold f.1 f.2 s).trans (ih _)

/-- A dereference (R10). -/
theorem dereference_hold (b : Nat) (s : State) : OnlyHold s (dereference b s) := by
  unfold dereference
  dsimp only
  split
  · exact (OnlyHold.dropReference s b).trans (raiseFault_hold _ _ _)
  · exact OnlyHold.dropReference s b

theorem discard_hold (b : Nat) (s : State) : OnlyHold s (discard b s) :=
  discardWith_rel fire_only OnlyHold.permits dereference_hold b s

theorem placeControl_hold (b : Nat) (s : State) : OnlyHold s (placeControl b s) :=
  placeControlWith_rel fire_only OnlyHold.permits dereference_hold b s

theorem controllerRoute_hold (fromLane : Bool) (b : Nat) (s : State) : OnlyHold s (controllerRoute fromLane b s) :=
  controllerRouteWith_rel fire_only OnlyHold.permits dereference_hold fromLane b s

theorem routeResponse_hold (dest : Fin 8) (b : Nat) (s : State) : OnlyHold s (routeResponse dest b s) :=
  routeResponseWith_rel OnlyHold.permits dereference_hold dest b s

theorem respondInOwnBuffer_hold (dest : Fin 8) (tag : BitVec 16) (command : Byte) (status : Status) (result : List Byte)
    (s : State) : OnlyHold s (respondInOwnBuffer dest tag command status result s) :=
  respondInOwnBufferWith_rel OnlyHold.permits dereference_hold _ _ _

/-- A recomputation of committed load (R69, R22). -/
theorem recompute_hold (s : State) : OnlyHold s (recompute s) := (recomputeLoad_hold s).trans (raiseAll_hold _ _)

theorem completeDrain_hold (s : State) : OnlyHold s (completeDrain s) := by
  unfold completeDrain
  split
  · exact .refl s
  · exact (OnlyHold.setMga (s := s) (x := { s.mga with drain := none }) rfl rfl rfl rfl rfl).trans
      ((raiseAll_hold _ _).trans ((finishDrain_hold dereference_hold _ _).trans (raiseAll_hold _ _)))

/-! ### The protection requeue -/

theorem dropFlushed_hold (l : Lane) (e : QueueEntry) (s : State) : OnlyHold s (dropFlushed l e s) :=
  (OnlyHold.subQueued s _).trans ((countLane_hold _ _ _).trans (dereference_hold _ _))

theorem requeueEntry_hold (l : Lane) (k : Fin 4) (e : QueueEntry) (s : State) : OnlyHold s (requeueEntry l k e s) := by
  unfold requeueEntry
  split
  · split
    · exact dropFlushed_hold _ _ _
    · dsimp only
      split
      · exact dropFlushed_hold _ _ _
      · split
        · exact (OnlyHold.setClassQueue _ _ _ _).trans (countLane_hold _ _ _)
        · exact (OnlyHold.subQueued s _).trans ((countStream_hold _ _ _).trans (dereference_hold _ _))
  · exact (dropFlushed_hold _ _ _).trans (raiseFault_hold _ _ _)

theorem requeueClass_hold (l : Lane) (k : Fin 4) (fuel : Nat) (s : State) : OnlyHold s (requeueClass l k fuel s) := by
  induction fuel generalizing s with
  | zero => exact .refl s
  | succ n ih =>
    unfold requeueClass
    split
    · exact .refl s
    · exact (OnlyHold.setClassQueue _ _ _ _).trans ((requeueEntry_hold _ _ _ _).trans (ih _))

theorem dropControl_hold (l : Lane) (s : State) (b : Nat) : OnlyHold s (dropControl l s b) :=
  (countLane_hold _ _ _).trans (dereference_hold _ _)

theorem requeueControl_hold (l : Lane) (s : State) : OnlyHold s (requeueControl l s) := by
  unfold requeueControl
  dsimp only
  split
  · exact (OnlyHold.setControl _ _ _).trans (OnlyHold.foldl (dropControl_hold l) _ _)
  · exact (OnlyHold.setControl _ _ _).trans ((OnlyHold.setControl _ _ _).trans (OnlyHold.foldl (dropControl_hold l) _ _))

theorem protectionRequeue_hold (l : Lane) (s : State) : OnlyHold s (protectionRequeue l s) :=
  (OnlyHold.foldl (fun _ _ => requeueClass_hold _ _ _ _) _ s).trans (requeueControl_hold _ _)

/-! ### What the reads of other blocks see after it -/

namespace OnlyHold

variable {s t : State} (h : OnlyHold s t)

include h

theorem rx (l : Lane) : t.rx l = s.rx l := by simp only [State.rx, h.lrx]
theorem ingress (p : PortId) : t.ingress p = s.ingress p := by simp only [State.ingress, h.tin]
theorem present (p : PortId) : t.present p = s.present p := by simp only [State.present, h.pins]
theorem now : t.now = s.now := by simp only [State.now, h.lck]
theorem restarting : t.restarting = s.restarting := by simp only [State.restarting, h.restart]
theorem level (n : StreamId) : (t.run n).level = (s.run n).level := by
  obtain ⟨q, hq⟩ := h.run n
  rw [hq]
theorem burst (n : StreamId) : (t.entry n).burst = (s.entry n).burst := by
  obtain ⟨q, hq⟩ := h.entry n
  rw [hq]
theorem checkAgrees (n : StreamId) : (t.entry n).checkAgrees = (s.entry n).checkAgrees := by
  obtain ⟨q, hq⟩ := h.entry n
  rw [hq]
theorem effectivePlan (n : StreamId) : t.effectivePlan n = s.effectivePlan n := by
  obtain ⟨q, hq⟩ := h.entry n
  simp only [State.effectivePlan, hq, h.psc]
theorem view (l : Lane) : t.view l = s.view l := by
  obtain ⟨_, _, _, _, _, hq⟩ := h.tx l
  simp only [State.view, hq]
theorem derivedView (l : Lane) : t.derivedView l = s.derivedView l := by
  have hx : t.txfault l = s.txfault l := by cases l <;> simp only [State.txfault, h.pins]
  simp only [State.derivedView, hx, h.rx, h.lrx]

end OnlyHold

end Sys2Proof.Machine
end

