-- ==== Sys2Proof/Tests/Slice0.lean ====
section
/-! SUPPORT. Tests on fixed values: the checks of WellFormed, the manual's own worked numbers, one step at a time, and for every
statement that has hypotheses a state and operands that meet them, clause by clause (the `witness_` theorems). -/

namespace Sys2Proof.Tests

open Sys2Proof Sys2Proof.Machine Sys2Proof.Safety

set_option maxRecDepth 100000
set_option Elab.async false

/-! ### A small bench -/

/-- The state a step leaves; the reset state when it stops. -/
def after (c : Instr) (s : State) : State :=
  match exec c s with
  | .next t => t
  | _ => State.reset

/-- Station 0 after power-on with ports 2 and 4 present and the controller on port 4. -/
def bench : State :=
  let s := State.reset
  let s := s.setPins { s.pins with present := (s.pins.present.put 2 true).put 4 true }
  s.setMga { s.mga with settings := { s.mga.settings with controllerPort := some 4 } }

/-- The numbers of the buffers behind the first. -/
def others : List Nat := List.range' 1 8191

/-- A request of the controller. -/
def ask (command : Nat) (args : List Byte) : Request :=
  { source := 7, payload := [0, 0x31, byte command, byte args.length] ++ args }

/-- The request alone in the queue. -/
def asked (s : State) (command : Nat) (args : List Byte) : State :=
  s.setMga { s.mga with requests := [ask command args] }

/-- The station in FAULT-HOLD, its FAULT flag set. -/
def held (s : State) : State := (s.setMga { s.mga with held := true }).setSource 0 { s.source 0 with flag := true }

/-- A lane in a receive state. -/
def lane (s : State) (l : Lane) (state : RxState) : State := s.setRx l { s.rx l with state := state }

/-- Buffer `b` holding a cell with so many references. -/
def buffer (s : State) (b refs : Nat) (cell : Cell) (agrees : Bool := true) : State :=
  s.setBuffer b { refs := refs, cell := cell, checkAgrees := agrees }

/-- A MEDIA cell of a stream with three payload bytes. -/
def media (n : Byte) (seq : Nat) : Cell :=
  { kind := .media, addr := n, cls := 0, frameEnd := true, demoted := false, seq := BitVec.ofNat 16 seq, payload := [1, 2, 3] }

/-- Field or setting items as bytes. -/
def items (xs : List (Nat × Nat)) : List Byte := (xs.map (fun x => [byte x.1] ++ be16 x.2)).flatten

def silentB (s : State) (src : Source) : Bool :=
  decide (src ≠ srcFault) && decide (s.takerOf src = none) &&
    ((s.source src).flag || decide ((s.source src).level ≤ s.evu.floor))

theorem silent_of {s : State} {src : Source} (h : silentB s src = true) : Silent s src := by
  simp only [silentB, Bool.and_eq_true, Bool.or_eq_true, decide_eq_true_eq] at h
  exact ⟨h.1.1, h.1.2, h.2⟩

theorem calm_of {s : State} {rs : List CounterRef} (h : rs.all (fun r => !(s.counter r).atHalf) = true) : Calm s rs := by
  intro r hr
  simpa using List.all_eq_true.mp h r hr

theorem far_of {s : State} {rs : List CounterRef}
    (h : rs.all (fun r => decide ((s.counter r).value.toNat + 8192 < 2147483648)) = true) : Far s rs := by
  intro r hr
  simpa using List.all_eq_true.mp h r hr

theorem entry_bench (n : StreamId) : bench.entry n = .default := by
  show (Vector.replicate 256 StreamEntry.default)[n.val] = _
  simp

theorem run_bench (n : StreamId) : bench.run n = .cleared := by
  show (Vector.replicate 256 RunRecord.cleared)[n.val] = _
  simp

theorem agrees_bench : TableAgrees bench := fun n => by rw [entry_bench]; rfl

theorem agrees_set {s : State} (h : TableAgrees s) (n : StreamId) {e : StreamEntry} (he : e.checkAgrees = true) :
    TableAgrees (s.setEntry n e) := by
  intro m
  show ((s.stb.entries.put n e).look m).checkAgrees = true
  rw [Bank.look_put]
  split
  · exact he
  · exact h m

theorem free_reset : State.reset.bfm.free = 0 :: others := by
  show List.range' 0 (8191 + 1) = 0 :: List.range' 1 8191
  rfl

theorem others_cons : others = 1 :: List.range' 2 8190 := by
  show List.range' 1 (8190 + 1) = _
  rfl

/-- Buffer 0 granted of a free list that is as after reset. -/
theorem grants_of {s : State} {threshold : Nat}
    (h : (decide (threshold < s.bfm.freeCount) && decide (s.bfm.freeCount ≠ 512)) = true)
    (hf : s.bfm.free = State.reset.bfm.free := by exact rfl) : Grants s threshold 0 others := by
  simp only [Bool.and_eq_true, decide_eq_true_eq] at h
  exact ⟨hf.trans free_reset, h.1, h.2⟩

theorem takes_of {s : State} {l : Lane} {cell : List Byte} {n : StreamId} (hg : GoodCell s l cell 1)
    (h : (decide ((byteAt cell 2).toFin = n) && !s.mga.held && (s.entry n).checkAgrees && decide ((s.entry n).state = .active) &&
      decide ((s.entry n).role = .terminus) && (decide (512 < s.bfm.freeCount) && decide (s.bfm.freeCount ≠ 512))) = true)
    (hf : s.bfm.free = State.reset.bfm.free := by exact rfl) : TakesMedia s l cell n 0 others := by
  rw [Bool.and_eq_true] at h
  have hb := grants_of (threshold := 512) h.2 hf
  simp only [Bool.and_eq_true, decide_eq_true_eq, Bool.not_eq_true'] at h
  have ht : ∀ k, Config.mediaThreshold k ≤ 512 := by decide
  exact ⟨hg, h.1.1.1.1.1, h.1.1.1.1.2, h.1.1.1.2, h.1.1.2, h.1.2, ⟨hb.free, Nat.lt_of_le_of_lt (ht _) hb.above, hb.notLow⟩⟩

def reachesB (s : State) (p : PortId) : Bool :=
  decide (s.mga.settings.controllerPort = some p) && s.present p && decide ((s.egress p).length < 512)

theorem reaches_of {s : State} {p : PortId} (h : reachesB s p = true) : Reaches s p := by
  simp only [reachesB, Bool.and_eq_true, decide_eq_true_eq] at h
  exact ⟨h.1.1, h.1.2, h.2⟩

def headsB (s : State) (step : Instr) (r : Request) (rest : List Request) (p : PortId) : Bool :=
  decide (s.mga.restart = .idle) && decide (s.mga.requests = r :: rest) &&
    decide (serviceStep (requestCommand r.payload).toNat = step) && decide (r.source = controllerAddress) && reachesB s p &&
    (decide (0 < s.bfm.freeCount) && decide (s.bfm.freeCount ≠ 512))

theorem heads_of {s : State} {step : Instr} {r : Request} {rest : List Request} {p : PortId}
    (h : headsB s step r rest p = true) (hf : s.bfm.free = State.reset.bfm.free := by exact rfl) :
    Heads s step r rest p 0 others := by
  unfold headsB at h
  rw [Bool.and_eq_true] at h
  have hg := grants_of h.2 hf
  simp only [Bool.and_eq_true, decide_eq_true_eq] at h
  exact ⟨h.1.1.1.1.1, h.1.1.1.1.2, h.1.1.1.2, h.1.1.2, reaches_of h.1.2, hg⟩

theorem serves_of {s : State} {step : Instr} {r : Request} {rest : List Request} {p : PortId}
    (h : (headsB s step r rest p && !argLengthBad r.payload) = true)
    (hf : s.bfm.free = State.reset.bfm.free := by exact rfl) : Serves s step r rest p 0 others := by
  simp only [Bool.and_eq_true, Bool.not_eq_true'] at h
  exact ⟨heads_of h.1 hf, h.2⟩

/-! ### Checks of the manual's numbers -/

/-- The two check values of R2. -/
theorem test_crc : crc8 [0x31, 0x32, 0x33, 0x34, 0x35, 0x36, 0x37, 0x38, 0x39] = 0xF4 ∧
    crc32 [0x31, 0x32, 0x33, 0x34, 0x35, 0x36, 0x37, 0x38, 0x39] = 0xFC891918 := by decide +kernel

theorem test_portCell_short : (Instr.portCellTake 0 (List.replicate 123 0)).wellFormed = false := by decide +kernel

theorem test_laneCell_long : (Instr.laneCellReceive .a (List.replicate 129 0)).wellFormed = false := by decide +kernel

/-! ### Witnesses: the clock and the ticks -/

/-- The last microsecond before a 1 s tick. -/
def late : State := State.reset.setLck { count := 5, phase := 999999, epoch := 0 }

theorem witness_IdleMicrosecond : late.pending = [] ∧ late.immediateSteps = [] ∧ late.restarting = false := by decide +kernel

/-- A merged ACTIVE terminus stream 12 on port 2, in context 3, with lanes A and B UP. -/
def wide : State :=
  let s := lane (lane bench .a .up) .b .up
  let s := s.setEntry 12 { s.entry 12 with
    state := .active, role := .terminus, port := 2, merge := true, depth := 8, holdUs := 600, holdMax := 5000,
    gapMarkers := true }
  let s := s.setRun 12 { s.run 12 with context := some 3 }
  s.setContext 3 { Context.cleared with
    condition := .attached, owner := some 12, synced := true, next := 65534, epoch := 5, depth := 8,
    slots := List.replicate 8 none, hold := 600 }

/-- An ACTIVE origin stream 10 of port 4, class 1, plan A, rate 40 and burst 4, with lane A USABLE. -/
def origin : State :=
  let s := lane bench .a .up
  let s := s.setTx .a { s.tx .a with view := .usable, load := 40 }
  let s := s.setEntry 10 { s.entry 10 with
    state := .active, loaded := true, port := 4, cls := 1, rate := 40, burst := 4,
    plan := { clear := .a, watch := .a, warning := .a, strike := .off } }
  s.setRun 10 { s.run 10 with level := 16, sendSeq := 65535 }

theorem witness_Tick1msActs : origin.restarting = false ∧ (origin.entry 10).state = .active := by decide +kernel

theorem witness_Tick1msActs_frame : wide.restarting = false ∧
    ∀ c n, (wide.context c).condition = .attached → (wide.context c).owner = some n → (wide.entry n).holdMode = .fixed := by
  refine ⟨by decide +kernel, fun c n hc ho => ?_⟩
  have h : ∀ c, (wide.context c).condition = .attached → c = 3 := by decide +kernel
  have h' := h c hc
  subst h'
  have e : (wide.context 3).owner = some 12 := by decide +kernel
  rw [e] at ho
  cases ho
  decide +kernel

/-- Stream 12 in AUTO mode. -/
def auto : State := wide.setEntry 12 { wide.entry 12 with holdMode := .auto }

theorem witness_AutoHoldMoves : auto.restarting = false ∧ (auto.context 3).condition = .attached ∧
    (auto.context 3).owner = some 12 ∧ (auto.entry 12).holdMode = .auto ∧ (auto.entry 12).checkAgrees = true := by decide +kernel

/-- A peer report one tick from going stale, with lanes A and B UP at the peer. -/
def report : State :=
  let s := bench.setPeer { bench.lrx.peer with
    rx := { a := .up, b := .up, c := .hunt }, base := .warning, strike := true, age := 299, stale := false }
  s.setPsc { s.psc with peerBase := .warning, peerStrike := true, effective := .strike }

theorem witness_PeerReportGoesStale : report.restarting = false ∧ report.lrx.peer.stale = false ∧ 299 ≤ report.lrx.peer.age := by
  decide +kernel

theorem witness_PeerReportGoesStale_event : TableAgrees report ∧ Silent report srcPeerStale ∧ (∀ l, Silent report (srcLaneView l)) ∧
    Silent report srcPosture ∧ Silent report srcOvercommit ∧
    (∀ l, (report.tx l).control = [] ∧ ∀ k, report.classQueue l k = []) := by
  refine ⟨agrees_bench, silent_of (by decide +kernel), ?_, silent_of (by decide +kernel), silent_of (by decide +kernel), ?_⟩
  · intro l; cases l <;> exact silent_of (by decide +kernel)
  · intro l; cases l <;> decide +kernel

/-- Lane A UP, judged, with as many CRC failures as the threshold and a run one short of the impair count. -/
def judged : State := bench.setRx .a { bench.rx .a with state := .up, judging := true, crcFailures := 4, erroredRun := 2 }

/-- Lane A IMPAIRED, judged, one clean interval short of recovery. -/
def clean : State := bench.setRx .a { bench.rx .a with state := .impaired, judging := true, cleanRun := 4 }

theorem witness_IntervalCloses : bench.restarting = false ∧ (bench.rx .a).judging = false ∧
    judged.restarting = false ∧ (judged.rx .a).judging = true ∧ (judged.rx .a).state = .up ∧
    clean.restarting = false ∧ (clean.rx .a).judging = true ∧ (clean.rx .a).state = .impaired := by decide +kernel

/-- Context 3 pooled, idle and empty at its last tick of age. -/
def aging : State := wide.setContext 3 { wide.context 3 with age := 2 }

theorem witness_ContextsAge : wide.restarting = false ∧ aging.restarting = false ∧ (aging.context 3).condition = .attached ∧
    (aging.context 3).owner = some 12 ∧ (aging.context 3).pinned = false ∧ (aging.context 3).arrived = false ∧
    (aging.context 3).heldCells = [] ∧ 2 ≤ (aging.context 3).age := by decide +kernel

/-- A pool whose free count is one short. -/
def lostBuffer : State := wide.setBfm { wide.bfm with freeCount := 8191 }

theorem witness_SecondTick : bench.restarting = false ∧ Silent bench srcSecond ∧
    bench.bfm.pool.countP (fun e => decide (0 < e.2.refs)) + bench.bfm.freeCount = 8192 ∧
    lostBuffer.restarting = false ∧ Silent lostBuffer srcSecond ∧ lostBuffer.mga.held = false ∧
    lostBuffer.bfm.pool.countP (fun e => decide (0 < e.2.refs)) + lostBuffer.bfm.freeCount ≠ 8192 :=
  ⟨by decide +kernel, silent_of (by decide +kernel), by decide +kernel, by decide +kernel, silent_of (by decide +kernel),
    by decide +kernel, by decide +kernel⟩

/-! ### Witnesses: ingress -/

/-- A tributary cell of a kind with its byte 2 and payload. -/
def trib (kind : Nat) (addr : Byte) (payload : List Byte) : List Byte :=
  padTo 124 ([byte (kind * 16), 0x80, addr, byte payload.length, 0, 0, 0, 0] ++ payload)

/-- One cell waiting at port 4. -/
def offered (s : State) (cell : List Byte) : State := s.setIngress 4 [cell]

/-- Port 4's ingress FIFO with so many cells. -/
def filled (k : Nat) : State := bench.setIngress 4 (List.replicate k (trib 1 10 []))

theorem witness_PortsFollowPins : (trib 1 10 [7]).length = 124 ∧ (filled 15).present 4 = true ∧ (filled 15).restarting = false ∧
    ((filled 15).ingress 4).length < 16 ∧ 16 ≤ ((filled 16).ingress 4).length ∧ bench.present 3 = false ∧
    (List.replicate 123 (0 : Byte)).length ≠ 124 := by decide +kernel

/-- Port 2 with a media, a gap and a control entry in its egress FIFO, in buffers 0 and 1. -/
def leavingThree : State :=
  let s := bench.setBfm { bench.bfm with free := List.range' 2 8190, freeCount := 8190 }
  (buffer (buffer s 0 1 (media 10 4)) 1 1 Cell.empty).setEgress 2 [.media 0 10 4, .gap 10 5 1 false, .control 1]

theorem witness_PortsFollowPins_emptied : leavingThree.restarting = false ∧ (leavingThree.egress 2).length ≤ 512 ∧
    ([0, 1] : List Nat).Nodup ∧ (∀ b ∈ [0, 1], (leavingThree.buffer b).refs = 1) ∧ Silent leavingThree srcUndeliverable ∧
    Far leavingThree ([.port 2 PortCounter.outDrop.id, .station StationCounter.undeliverable.id] ++
      (List.finRange 256).map (fun n => .stream n StreamCounter.egressDrop.id)) ∧ bench.egress 2 = [] ∧ PoolCanonical leavingThree :=
  ⟨by decide +kernel, by decide +kernel, by decide +kernel, by decide +kernel, silent_of (by decide +kernel),
    far_of (by decide +kernel), by decide +kernel, by unfold PoolCanonical; decide +kernel⟩

/-- The counters that the discards of port 4 and stream 10 may count. -/
def ingressRefs : List CounterRef :=
  [.port 4 PortCounter.inCells.id, .port 4 PortCounter.inUnknown.id, .port 4 PortCounter.inWrongPort.id,
    .port 4 PortCounter.inactive.id, .stream 10 StreamCounter.policeDrop.id, .stream 10 StreamCounter.noLane.id,
    .stream 10 StreamCounter.admitDrop.id]

/-- Stream 10 with another entry and bucket level. -/
def origin' (f : StreamEntry → StreamEntry) (level : Nat) : State :=
  (origin.setEntry 10 (f (origin.entry 10))).setRun 10 { origin.run 10 with level := level }

theorem witness_IngressDiscards :
    Calm (offered origin (trib 1 10 [])) ingressRefs ∧
    (offered origin (trib 1 10 [])).ingress 4 = [trib 1 10 []] ∧ (offered origin (trib 1 10 [])).restarting = false ∧
    -- a foreign kind, a held station
    tribKindCode (trib 2 10 []) ≠ 1 ∧ tribKindCode (trib 2 10 []) ≠ 3 ∧
    lengthField (trib 1 10 (List.replicate 116 0)) ≤ 116 ∧ tribKindCode (trib 1 10 []) = 1 ∧ (held origin).mga.held = true ∧
    -- not ACTIVE, TERMINUS, wrong port, DROP at level 15
    (bench.entry 10).state ≠ .active ∧ ((origin' (fun e => { e with role := .terminus }) 16).entry 10).role = .terminus ∧
    ((origin' (fun e => { e with port := 3 }) 16).entry 10).port ≠ 4 ∧ ((origin' id 15).run 10).level < 16 ∧
    ((origin' id 15).entry 10).excess = .drop ∧ (origin.entry 10).rate ≠ 0 ∧
    -- no lane, no buffer
    (origin.setPsc { origin.psc with effective := .strike }).evaluate .off = [] ∧
    origin.evaluate ((origin.entry 10).plan.get origin.psc.effective) = [.a] ∧
    (origin.setBfm { origin.bfm with freeCount := 64 }).bfm.freeCount ≤ Config.mediaThreshold 1 :=
  ⟨calm_of (by decide +kernel), by decide +kernel⟩

/-- Stream 10 beyond its bucket under DEMOTE, on lanes A and B. -/
def demoting : State :=
  let s := origin' (fun e => { e with excess := .demote, plan := { e.plan with clear := .aAndB } }) 15
  s.setTx .b { s.tx .b with view := .degraded }

theorem witness_IngressAccepts :
    (offered origin (trib 1 10 [7])).ingress 4 = [trib 1 10 [7]] ∧
    decide ((origin.entry 10).rate ≠ 0 ∧ (origin.run 10).level < 16) = false ∧
    Grants (offered origin (trib 1 10 [7])) (Config.mediaThreshold 1) 0 others ∧
    Far demoting [.port 4 PortCounter.inCells.id, .stream 10 StreamCounter.txCells.id, .stream 10 StreamCounter.policeDemote.id,
      .stream 10 StreamCounter.queueDrop.id, .stream 10 StreamCounter.noLane.id] ∧
    decide ((demoting.entry 10).rate ≠ 0 ∧ (demoting.run 10).level < 16) = true ∧ (demoting.entry 10).excess = .demote ∧
    demoting.evaluate ((demoting.entry 10).plan.get demoting.psc.effective) = [.a, .b] ∧
    (demoting.classQueue .b 3).length < classDepth .b ∧ Grants demoting (Config.mediaThreshold 3) 0 others ∧
    Calm demoting [.port 4 PortCounter.inCells.id, .stream 10 StreamCounter.txCells.id, .stream 10 StreamCounter.policeDemote.id] :=
  ⟨by decide +kernel, by decide +kernel, grants_of (by decide +kernel), far_of (by decide +kernel), by decide +kernel,
    by decide +kernel, by decide +kernel, by decide +kernel, grants_of (by decide +kernel), calm_of (by decide +kernel)⟩

/-- The class queue 3 of lane A or B full. -/
def fullQueue (s : State) (l : Lane) : State := s.setClassQueue l 3 (List.replicate 1024 { buffer := 9, stream := 9 })

/-- One copy without room, and both. -/
theorem witness_IngressAccepts_full : ¬ ((fullQueue demoting .b).classQueue .b 3).length < classDepth .b ∧
    ((fullQueue demoting .b).classQueue .a 3).length < classDepth .a ∧
    ¬ ((fullQueue (fullQueue demoting .b) .a).classQueue .a 3).length < classDepth .a ∧
    Grants (fullQueue (fullQueue demoting .b) .a) (Config.mediaThreshold 3) 0 others :=
  ⟨by decide +kernel, by decide +kernel, by decide +kernel, grants_of (by decide +kernel)⟩

/-- Stream 10 of class 1 under plan A+B, unpoliced, with the free count at 512. -/
def atLow : State :=
  let s := offered demoting (trib 1 10 [7])
  (s.setBfm { s.bfm with freeCount := 512 }).setEntry 10 { s.entry 10 with rate := 0, cls := 1 }

theorem witness_IngressAccepts_low : atLow.ingress 4 = [trib 1 10 [7]] ∧ (atLow.entry 10).rate = 0 ∧
    (atLow.entry 10).state = .active ∧ (atLow.entry 10).role = .origin ∧ (atLow.entry 10).port = 4 ∧
    (atLow.entry 10).checkAgrees = true ∧ atLow.bfm.free = 0 :: others ∧ atLow.bfm.freeCount = 512 ∧
    Config.mediaThreshold (atLow.entry 10).cls < 512 ∧ Silent atLow srcBufferLow ∧
    atLow.evaluate ((atLow.entry 10).plan.get atLow.psc.effective) = [.a, .b] ∧
    Calm atLow [.port 4 PortCounter.inCells.id, .stream 10 StreamCounter.txCells.id, .stream 10 StreamCounter.policeDemote.id] := by
  and_intros <;> first
    | decide +kernel | rfl | exact silent_of (by decide +kernel) | exact calm_of (by decide +kernel)

/-- Three requests queued, and an ECHO to this station waiting at port 2. -/
def asking : State :=
  (bench.setMga { bench.mga with requests := List.replicate 3 (ask 1 []) }).setIngress 2 [trib 3 7 [0, 0x31, 1, 0]]

/-- The counters a request at port 2 may count. -/
def requestRefs : List CounterRef :=
  [.port 2 PortCounter.inCells.id, .station StationCounter.mgmtRequests.id, .station StationCounter.mgmtBusy.id,
    .station StationCounter.undeliverable.id]

theorem witness_IngressTakesRequest : asking.ingress 2 = [trib 3 7 [0, 0x31, 1, 0]] ∧ asking.restarting = false ∧
    lengthField (trib 3 7 [0, 0x31, 1, 0]) ≤ 116 ∧ tribKindCode (trib 3 7 [0, 0x31, 1, 0]) = 3 ∧
    (byteAt (trib 3 7 [0, 0x31, 1, 0]) 2).toNat / 8 % 8 = asking.mga.station.val ∧ asking.mga.requests.length < 4 ∧
    Grants asking 0 0 others ∧ Calm asking requestRefs ∧ Silent asking srcUndeliverable := by
  and_intros <;> first
    | decide +kernel | exact grants_of (by decide +kernel) | exact calm_of (by decide +kernel) | exact silent_of (by decide +kernel)

/-- A request of the controller for another destination waiting at port 2, four requests queued, lane A's control queue holding so
many entries, lane A USABLE or not. -/
def askingFor (dest : Nat) (waiting : Nat) (up : Bool) : State :=
  let s := (bench.setMga { bench.mga with requests := List.replicate 4 (ask 1 []) }).setIngress 2
    [trib 3 (byte (dest * 8 + 7)) [0, 0x31, 1, 0]]
  s.setTx .a { s.tx .a with control := List.replicate waiting 9, view := if up then .usable else .unusable }

theorem first_usable {v : Lane → View} (h : v .a = .usable) : FirstOf v [.a, .b, .c] .a :=
  .inl ⟨[], [.b, .c], rfl, h, by simp⟩

/-- The other destinations: this station with its queue full, the peer (with room, without, with no lane), the controller by a present
and by an absent port, a station there is not, and no buffer. -/
theorem witness_IngressTakesRequest_other : 4 ≤ (askingFor 0 0 true).mga.requests.length ∧
    (askingFor 0 0 true).bfm.freeCount = 8192 ∧ (askingFor 0 0 true).present 2 = true ∧
    ((askingFor 0 0 true).egress 2).length < 512 ∧ (byteAt (trib 3 7 [0, 0x31, 1, 0]) 2).toNat % 8 = 7 ∧
    (byteAt (trib 3 0x0F [0, 0x31, 1, 0]) 2).toNat / 8 % 8 = 1 - (askingFor 1 0 true).mga.station.val ∧
    FirstOf (askingFor 1 7 true).view [.a, .b, .c] .a ∧ ((askingFor 1 7 true).tx .a).control.length < 8 ∧
    8 ≤ ((askingFor 1 8 true).tx .a).control.length ∧ (∀ l, (askingFor 1 0 false).view l = .unusable) ∧
    (byteAt (trib 3 0x3F [0, 0x31, 1, 0]) 2).toNat / 8 % 8 = 7 ∧
    ((askingFor 7 0 true).setPins Pins.reset).present 2 = false ∧
    (byteAt (trib 3 0x17 [0, 0x31, 1, 0]) 2).toNat / 8 % 8 = 2 ∧ Grants (askingFor 2 0 true) 0 0 (1 :: List.range' 2 8190) ∧
    ((askingFor 2 0 true).setBfm { bench.bfm with freeCount := 0 }).bfm.freeCount = 0 := by
  and_intros <;> first
    | decide +kernel | exact first_usable rfl | exact others_cons ▸ grants_of (by decide +kernel) | (intro l; cases l <;> rfl)

/-! ### Witnesses: transmission -/

/-- Lane A with a probe due, the last one numbered 255, and an echo record. -/
def probing : State :=
  let s := bench.setTx .a { bench.tx .a with probeDue := true, lastProbe := some 255 }
  s.setRx .a { s.rx .a with echo := some { number := 9, sendTime := 100, received := 0 } }

theorem witness_SlotProbeAndFill : probing.restarting = false ∧ (probing.tx .a).probeDue = true ∧
    Calm probing [.lane .a LaneCounter.txCells.id] ∧ (bench.tx .a).probeDue = false ∧ (bench.tx .a).control = [] ∧
    (∀ k, bench.classQueue .a k = []) ∧ Calm bench [.lane .a LaneCounter.txFill.id] :=
  ⟨by decide +kernel, by decide +kernel, calm_of (by decide +kernel), by decide +kernel, by decide +kernel, by decide +kernel,
    calm_of (by decide +kernel)⟩

/-- The counters a slot of lane A may count. -/
def slotRefs : List CounterRef :=
  [.lane .a LaneCounter.txCells.id, .lane .a LaneCounter.txBufCheck.id, .lane .a LaneCounter.txFill.id]

/-- Buffer 0 in lane A's control queue, or, behind an empty one, in its class queue 3 for stream 10. -/
def queued (control agrees : Bool) : State :=
  let s := bench.setBfm { bench.bfm with free := others, freeCount := 8191 }
  let s := buffer s 0 1 (media 10 4) agrees
  let s := s.setRun 10 { s.run 10 with queued := 1 }
  if control then s.setControl .a [0] else s.setClassQueue .a 3 [{ buffer := 0, stream := 10 }]

theorem witness_SlotSendsQueued : (queued true true).restarting = false ∧ ((queued true true).tx .a).probeDue = false ∧
    Calm (queued true true) slotRefs ∧ ((queued true true).tx .a).control = [0] ∧ ((queued true true).buffer 0).refs = 1 ∧
    ((queued true true).buffer 0).checkAgrees = true ∧
    ((queued false true).tx .a).control = [] ∧ (∀ j : Fin 4, j < 3 → (queued false true).classQueue .a j = []) ∧
    (queued false true).classQueue .a 3 = [{ buffer := 0, stream := 10 }] ∧
    ((queued false true).buffer 0).refs = 1 ∧ ((queued true false).buffer 0).checkAgrees = false ∧
    (∀ k, (queued true false).classQueue .a k = []) :=
  ⟨by decide +kernel, by decide +kernel, calm_of (by decide +kernel), by decide +kernel⟩

theorem witness_LinkCellsLaidOut : ({ media 12 65535 with payload := List.replicate 116 7 } : Cell).payload.length ≤ 116 := by
  decide +kernel

/-- The three views. -/
def views (a b c : View) : State :=
  ((bench.setTx .a { bench.tx .a with view := a }).setTx .b { bench.tx .b with view := b }).setTx .c { bench.tx .c with view := c }

/-- Each plan's lanes under the views, in the columns of R57's table. -/
def evaluations (s : State) : List (List Lane) :=
  [Plan.aThenB, .bThenA, .aThenBThenC, .aAndB, .aAndBElseC, .aAndBAndC, .c].map s.evaluate

/-- The table of R57, row by row. -/
theorem test_plans :
    evaluations (views .usable .usable .usable) = [[.a], [.b], [.a], [.a, .b], [.a, .b], [.a, .b, .c], [.c]] ∧
    evaluations (views .degraded .usable .usable) = [[.b], [.b], [.b], [.a, .b], [.a, .b], [.a, .b, .c], [.c]] ∧
    evaluations (views .degraded .degraded .usable) = [[.a], [.b], [.c], [.a, .b], [.a, .b], [.a, .b, .c], [.c]] ∧
    evaluations (views .unusable .degraded .usable) = [[.b], [.b], [.c], [.b], [.b], [.b, .c], [.c]] ∧
    evaluations (views .unusable .unusable .usable) = [[], [], [.c], [], [.c], [.c], [.c]] ∧
    evaluations (views .unusable .unusable .degraded) = [[], [], [.c], [], [.c], [.c], [.c]] ∧
    evaluations (views .unusable .unusable .unusable) = [[], [], [], [], [], [], []] := by decide +kernel

/-- A lane up and one not, a first USABLE lane behind a DEGRADED one, a first DEGRADED one, and none. -/
theorem witness_PlansEvaluate : (views .usable .usable .unusable).view .a ≠ .unusable ∧
    ¬ (views .usable .usable .unusable).view .c ≠ .unusable ∧
    FirstOf (views .degraded .usable .usable).view (planNames .aThenB) .b ∧
    FirstOf (views .unusable .degraded .unusable).view (planNames .aThenBThenC) .b ∧
    (∀ l ∈ planNames .aThenBThenC, ¬ bench.view l ≠ .unusable) :=
  ⟨by decide +kernel, by decide +kernel, .inl ⟨[.a], [], rfl, rfl, by decide +kernel⟩,
    .inr ⟨by decide +kernel, [.a], [.c], rfl, rfl, by decide +kernel⟩, by decide +kernel⟩

/-- Lane B idle, its TX_FILL at a value. -/
def fillAt (v : BitVec 32) : State := bench.setCounter (.lane .b LaneCounter.txFill.id) { value := v, overflow := false }

theorem witness_CountersWrapAndHalve : (fillAt 0xFFFFFFFF).restarting = false ∧ ((fillAt 0xFFFFFFFF).tx .b).probeDue = false ∧
    ((fillAt 0xFFFFFFFF).tx .b).control = [] ∧ (∀ k, (fillAt 0xFFFFFFFF).classQueue .b k = []) ∧
    ((fillAt 0xFFFFFFFF).counter (.lane .b LaneCounter.txFill.id)).value.toNat = 4294967295 ∧
    ((fillAt 0x7FFFFFFF).counter (.lane .b LaneCounter.txFill.id)).value.toNat = 2147483647 ∧
    Silent (fillAt 0x7FFFFFFF) srcCounterHalf ∧
    ((fillAt 0x7FFFFFFE).counter (.lane .b LaneCounter.txFill.id)).value.toNat = 2147483646 := by
  and_intros <;> first
    | decide +kernel | exact silent_of (by decide +kernel)

/-- TX_FILL of lane B at its last value below the half, COUNTER_HALF at level 3 over floor 1. -/
def noisy : State :=
  let s := fillAt 0x7FFFFFFF
  (s.setSource srcCounterHalf { s.source srcCounterHalf with level := 3 }).setFloor 1

/-- The same with two channels bound to it, the lower with a firing pending or not. -/
def channelled (firing : Bool) : State :=
  let x : Channel :=
    { bound := some (.source srcCounterHalf), kind := .lane, first := 20, items := 16, walk := true, remaining := 2,
      firing := firing, number := 65535 }
  (noisy.setChannel 1 x).setChannel 3 { x with firing := false }

theorem witness_CountersWrapAndHalve_fired : (∀ c, (noisy.channel c).bound ≠ some (.source srcCounterHalf)) ∧
    (noisy.source srcCounterHalf).flag = false ∧ noisy.evu.floor < (noisy.source srcCounterHalf).level ∧ FloorCovers noisy ∧
    (noisy.source srcFault).flag = false ∧ Reaches noisy 4 ∧ Grants noisy 0 0 others ∧
    Calm noisy [.station StationCounter.notices.id] ∧ Silent noisy srcUndeliverable ∧
    (noisy.setBfm { noisy.bfm with freeCount := 0 }).bfm.freeCount = 0 := by
  refine ⟨by decide +kernel, by decide +kernel, by decide +kernel, ?_, by decide +kernel, reaches_of (by decide +kernel),
    grants_of (by decide +kernel), calm_of (by decide +kernel), silent_of (by decide +kernel), rfl⟩
  unfold FloorCovers; decide +kernel

theorem witness_CountersWrapAndHalve_taken : ((channelled false).channel 1).bound = some (.source srcCounterHalf) ∧
    (∀ d : ChannelId, d < 1 → ((channelled false).channel d).bound ≠ some (.source srcCounterHalf)) ∧
    ((channelled true).channel 1).firing = true ∧ ((channelled false).channel 1).firing = false ∧
    Calm (channelled true) [.station StationCounter.exportOverrun.id] ∧ Reaches (channelled false) 4 ∧
    Grants (channelled false) 0 0 others ∧ 2 ≤ ((channelled false).channel 1).remaining ∧
    ((channelled false).counter (.lane .b LaneCounter.txFill.id)).value.toNat = 2147483647 := by
  and_intros <;> first
    | decide +kernel | exact calm_of (by decide +kernel) | exact reaches_of (by decide +kernel)
    | exact grants_of (by decide +kernel)

/-- Lanes A and B UP with their views derived, C not, streams 10 and 11 under plan A>B or another. -/
def twoUp (plan : Plan) (b : RxState := .up) : State :=
  let s := (lane (lane bench .a .up) .b b)
  let s := (s.setTx .a { s.tx .a with view := .usable }).setTx .b { s.tx .b with view := viewOf b }
  let e : StreamEntry := { bench.entry 10 with state := .active, plan := { clear := plan, watch := .off, warning := .off, strike := .off } }
  (s.setEntry 10 e).setEntry 11 e

/-- Two entries of class 1 queued on lane A, in buffers 0 and 1. -/
def twoQueued (plan : Plan) : State :=
  (twoUp plan).setClassQueue .a 1 [{ buffer := 0, stream := 10 }, { buffer := 1, stream := 11 }]

/-- One entry of class 1 queued on lane A, in buffer 0 with so many references, and the same class queue of lane B as given. -/
def oneQueued (plan : Plan) (refs : Nat) (b : RxState) (other : List QueueEntry) : State :=
  let s := (queued true true).setBfm { bench.bfm with free := others, freeCount := 8191 }
  let s := { twoUp plan b with bfm := (buffer s 0 refs (media 10 4)).bfm }
  (s.setClassQueue .a 1 [{ buffer := 0, stream := 10 }]).setClassQueue .b 1 other

theorem agrees_twoUp (plan : Plan) (b : RxState) : TableAgrees (twoUp plan b) :=
  agrees_set (agrees_set (s := bench.setLck bench.lck) agrees_bench 10 rfl) 11 rfl

/-- Lane A down, lane B USABLE or DEGRADED. -/
theorem first_down {v : View} (h : v = .usable ∨ v = .degraded) :
    FirstOf (fun l => if l = .a then .unusable else if l = .b then v else .unusable) (planNames .aThenB) .b := by
  rcases h with rfl | rfl
  · exact .inl ⟨[.a], [], rfl, rfl, by decide⟩
  · exact .inr ⟨by decide, [.a], [], rfl, rfl, by decide⟩

theorem derived_of {s : State} (h : ∀ l, s.view l = viewByRule s l := by intro l; cases l <;> rfl) : ViewsDerived s := h

theorem witness_FallenViewRequeues : (twoQueued .aThenB).view .a ≠ .unusable ∧ ViewsDerived (twoQueued .aThenB) ∧
    TableAgrees (twoQueued .aThenB) ∧ Silent (twoQueued .aThenB) (srcLaneView .a) ∧ Silent (twoQueued .aThenB) srcOvercommit ∧
    ((twoQueued .aThenB).tx .a).control = [] ∧ (∀ i : Fin 4, i ≠ 1 → (twoQueued .aThenB).classQueue .a i = []) ∧
    (twoQueued .aThenB).view .b = .usable ∧ (twoQueued .aThenB).classQueue .b 1 = [] ∧
    Far (twoQueued .aThenB) [.lane .a LaneCounter.txRequeue.id] ∧
    (∀ e ∈ (twoQueued .aThenB).classQueue .a 1,
      ((twoQueued .aThenB).entry e.stream).plan.get (twoQueued .aThenB).psc.effective = .aThenB) := by
  and_intros <;> first
    | decide +kernel | exact derived_of | exact agrees_twoUp .aThenB .up | exact silent_of (by decide +kernel)
    | exact far_of (by decide +kernel)

/-- An entry that is dropped: plan A, no lane left, a copy on lane B, lane B full; a control queue of two with one place on lane B. -/
theorem witness_FallenViewRequeues_dropped : (oneQueued .a 1 .up []).classQueue .a 1 = [{ buffer := 0, stream := 10 }] ∧
    ViewsDerived (oneQueued .a 1 .up []) ∧ TableAgrees (oneQueued .a 1 .up []) ∧
    (((oneQueued .a 1 .up []).entry 10).plan.get .clear ∉ [Plan.aThenB, .bThenA, .aThenBThenC]) ∧
    ((oneQueued .a 1 .up []).buffer 0).refs = 1 ∧ ViewsDerived (oneQueued .aThenB 1 .hunt []) ∧
    (oneQueued .aThenB 1 .hunt []).view .b = .unusable ∧
    ((oneQueued .aThenB 2 .up [{ buffer := 0, stream := 10 }]).buffer 0).refs = 2 ∧
    (oneQueued .aThenB 2 .up [{ buffer := 0, stream := 10 }]).classQueue .b 1 = [{ buffer := 0, stream := 10 }] ∧
    classDepth .b ≤ ((oneQueued .aThenB 1 .impaired (List.replicate 1024 { buffer := 9, stream := 9 })).classQueue .b 1).length ∧
    ViewsDerived (oneQueued .aThenB 1 .impaired (List.replicate 1024 { buffer := 9, stream := 9 })) ∧
    PoolCanonical (oneQueued .aThenB 2 .up [{ buffer := 0, stream := 10 }]) := by
  and_intros <;> first
    | decide +kernel | (unfold PoolCanonical; decide +kernel) | exact derived_of | exact agrees_twoUp .a .up

/-- Buffers 0 and 1 in lane A's control queue, with so many entries on lane B's. -/
def controlQueued (waiting : Nat) (b : RxState) : State :=
  let s := bench.setBfm { bench.bfm with free := List.range' 2 8190, freeCount := 8190 }
  let s := { twoUp .a b with bfm := (buffer (buffer s 0 1 Cell.empty) 1 1 Cell.empty).bfm }
  (s.setControl .a [0, 1]).setControl .b (List.replicate waiting 9)

theorem witness_FallenViewRequeues_control : ((controlQueued 7 .up).tx .a).control = [0, 1] ∧ ([0, 1] : List Nat).Nodup ∧
    (∀ b ∈ [0, 1], ((controlQueued 7 .up).buffer b).refs = 1) ∧ (∀ i, (controlQueued 7 .up).classQueue .a i = []) ∧
    ViewsDerived (controlQueued 7 .up) ∧ (controlQueued 7 .up).view .b = .usable ∧
    FirstOf (controlQueued 7 .up).view ([Lane.a, .b, .c].filter (fun l => decide (l ≠ .a))) .b ∧
    Far (controlQueued 7 .up) [.lane .a LaneCounter.txFlush.id] ∧ ViewsDerived (controlQueued 7 .hunt) ∧
    (∀ l, l ≠ .a → (controlQueued 7 .hunt).view l = .unusable) ∧ PoolCanonical (controlQueued 7 .up) := by
  and_intros <;> first
    | decide +kernel | (unfold PoolCanonical; decide +kernel) | exact derived_of | exact far_of (by decide +kernel) | exact .inl ⟨[], [.c], rfl, rfl, by simp⟩
    | (intro l; cases l <;> decide +kernel)

/-! ### Witnesses: reception -/

theorem witness_SignalMovesLane : bench.restarting = false ∧ (bench.rx .a).state ≠ .down ∧ (bench.rx .c).state = .down := by
  decide +kernel

/-- A hunting lane A that has so many good headers, its window holding all but the last byte of a FILL's header. -/
def hunting (good wait : Nat) : State :=
  bench.setRx .a { bench.rx .a with
    goodHeaders := good, huntWait := wait, huntWindow := (linkCell Cell.empty .a 0).take 7 }

/-- The byte that completes the header. -/
def lastHeaderByte : Byte := byteAt (linkCell Cell.empty .a 0) 7

theorem witness_HuntFindsBoundary : bench.restarting = false ∧ (bench.rx .c).state ≠ .hunt ∧
    ((hunting 0 0).rx .a).state = .hunt ∧ crc8 ((linkCell Cell.empty .a 0).take 7) = lastHeaderByte ∧
    crc8 ((linkCell Cell.empty .a 0).take 7) ≠ lastHeaderByte + 1 ∧ ((hunting 7 1).rx .a).goodHeaders = 7 ∧
    ((hunting 7 1).rx .a).huntWait = 1 := by decide +kernel

/-- A MEDIA cell of stream 12 as lane A carries it, epoch 5. -/
def arriving (seq : Nat) : List Byte := linkCell (media 12 seq) .a 5

/-- The same cell with a byte changed. -/
def spoiled (place : Nat) : List Byte := (arriving 65534).set place 0xEE

/-- The counters the examination of a cell on lane A may count. -/
def examineRefs : List CounterRef :=
  [.lane .a LaneCounter.rxHdrErr.id, .lane .a LaneCounter.rxCrcErr.id, .lane .a LaneCounter.rxUnknown.id,
    .lane .a LaneCounter.rxGood.id]

/-- Lane A UP after so many failing headers. -/
def failing (k : Nat) : State := wide.setRx .a { wide.rx .a with badHeaders := k }

/-- The failing header of a spoiled cell. -/
theorem witness_CellExamined_header : (spoiled 1).length = 128 ∧ crc8 ((spoiled 1).take 7) ≠ byteAt (spoiled 1) 7 ∧
    ((failing 2).rx .a).badHeaders < 3 ∧ ((failing 3).rx .a).badHeaders = 3 ∧ ((failing 3).rx .a).state = .up ∧
    (failing 3).restarting = false := by decide +kernel

/-- The views as they derive from the state. -/
def settled (s : State) : State := s.setViews { a := viewByRule s .a, b := viewByRule s .b, c := viewByRule s .c }

/-- What the clauses on a change of lane A's receive state ask of the state beside it. -/
structure Quiet (s : State) : Prop where
  running : s.restarting = false
  derived : ViewsDerived s
  agrees : TableAgrees s
  state : Silent s (srcLaneState .a)
  view : Silent s (srcLaneView .a)
  overcommit : Silent s srcOvercommit
  empty : s.lrx.peer.stale = true → (s.tx .a).control = [] ∧ ∀ k, s.classQueue .a k = []
  calm : Calm s [.lane .a LaneCounter.downEntries.id, .lane .a LaneCounter.huntEntries.id, .lane .a LaneCounter.impairedEntries.id,
    .lane .a LaneCounter.erroredIntervals.id, .lane .a LaneCounter.rxHdrErr.id]

theorem quiet_settled {s : State} (ha : TableAgrees s)
    (h : ((!(settled s).restarting && silentB (settled s) (srcLaneState .a) && silentB (settled s) (srcLaneView .a) &&
      silentB (settled s) srcOvercommit && decide (((settled s).tx .a).control = [])) &&
      decide (∀ k, (settled s).classQueue .a k = []) &&
      [CounterRef.lane .a LaneCounter.downEntries.id, .lane .a LaneCounter.huntEntries.id, .lane .a LaneCounter.impairedEntries.id,
        .lane .a LaneCounter.erroredIntervals.id, .lane .a LaneCounter.rxHdrErr.id].all
        (fun r => !((settled s).counter r).atHalf)) = true) : Quiet (settled s) := by
  simp only [Bool.and_eq_true, decide_eq_true_eq, Bool.not_eq_true'] at h
  exact ⟨h.1.1.1.1.1.1, derived_of, ha, silent_of h.1.1.1.1.1.2, silent_of h.1.1.1.1.2, silent_of h.1.1.1.2,
    fun _ => ⟨h.1.1.2, h.1.2⟩, calm_of h.2⟩

/-- Lane A leaves UP at a loss and at a fourth bad header, DOWN at a restored signal, UP and IMPAIRED at an interval, HUNT at a header. -/
theorem witness_SignalMovesLane_entries :
    (Quiet (settled judged) ∧ ((settled judged).rx .a).state = .up ∧ ((settled judged).rx .a).judging = true ∧
      4 ≤ ((settled judged).rx .a).crcFailures ∧ ((settled judged).rx .a).erroredRun + 1 = 3) ∧
    (Quiet (settled (lane bench .a .down)) ∧ ((settled (lane bench .a .down)).rx .a).state = .down) ∧
    (Quiet (settled clean) ∧ ((settled clean).rx .a).state = .impaired ∧ ((settled clean).rx .a).crcFailures = 0) ∧
    (Quiet (settled (hunting 7 1)) ∧ ((settled (hunting 7 1)).rx .a).state = .hunt) ∧
    (Quiet (settled (failing 3)) ∧ ((settled (failing 3)).rx .a).badHeaders = 3) := by
  and_intros <;> first
    | exact quiet_settled (fun n => agrees_bench n) (by decide +kernel)
    | exact quiet_settled (agrees_set agrees_bench 12 rfl) (by decide +kernel)
    | decide +kernel

/-- The other clauses: a failing CRC, a foreign lane id, a FILL, a lane that hunts, and bytes that are no cell. -/
theorem witness_CellExamined : Calm wide examineRefs ∧ wide.restarting = false ∧ (wide.rx .a).state = .up ∧
    crc8 ((spoiled 127).take 7) = byteAt (spoiled 127) 7 ∧
    (crc32 ((spoiled 127).take 124)).toNat ≠ nat32At (spoiled 127) 124 ∧
    (byteAt (linkCell (media 12 0) .b 5) 0).toNat / 4 % 4 ≠ laneCode .a ∧
    (byteAt (linkCell Cell.empty .a 5) 0).toNat / 16 = 0 ∧ (linkCell Cell.empty .a 5).length = 128 ∧
    (bench.rx .a).state = .hunt ∧ (List.replicate 127 (0 : Byte)).length ≠ 128 :=
  ⟨calm_of (by decide +kernel), by decide +kernel⟩

/-- The payload of a probe of the peer on lane A: number 3, echoing probe 255 sent at 0 after a dwell of 100. -/
def probePayloadA (echo : Byte) : List Byte :=
  [1, 0, 3, 255] ++ be32 77 ++ be32 0 ++ be32 100 ++ [0x25, echo, 6]

/-- It, in a cell of epoch 6. -/
def probeCell (echo : Byte) : List Byte :=
  linkCell { Cell.empty with kind := .probe, addr := 1, payload := probePayloadA echo } .a 6

/-- Lane A UP, its last probe numbered 255, 900 microseconds after reset. -/
def measuring : State :=
  let s := (wide.setLck { wide.lck with count := 900 }).setTx .a { wide.tx .a with lastProbe := some 255 }
  s.setRx .a { s.rx .a with delay := some 600 }

theorem witness_ProbeUsed : GoodCell measuring .a (probeCell 0xC1) 2 ∧
    ((probeCell 0xC1).drop 8).take (byteAt (probeCell 0xC1) 3).toNat = probePayloadA 0xC1 ∧
    (probePayloadA 0xC1).length = 19 ∧ (byteAt (probePayloadA 0xC1) 0).toNat % 8 = (peerAddress measuring.mga.station).val ∧
    (byteAt (probePayloadA 0xC1) 1).toNat % 4 = laneCode .a ∧ byteAt (probePayloadA 0xC1) 18 = byteAt (probeCell 0xC1) 6 ∧
    -- a valid sample, no echo, and an echo of no probe sent
    (readProbe (probePayloadA 0xC1)).echoValid = true ∧ (measuring.now - 0 - 100).toNat = 800 ∧
    (measuring.tx .a).lastProbe = some 255 ∧ (readProbe (probePayloadA 0xC1)).echoNumber = 255 ∧
    GoodCell measuring .a (probeCell 0x41) 2 ∧ (readProbe (probePayloadA 0x41)).echoValid = false ∧
    GoodCell wide .a (probeCell 0xC1) 2 ∧ (wide.tx .a).lastProbe = none := by
  unfold GoodCell
  decide +kernel

/-- A probe of another epoch byte; an echo 127 and 128 ahead of the last probe sent; what the counts need beside it. -/
theorem witness_ProbeUsed_invalid :
    GoodCell measuring .a (linkCell { Cell.empty with kind := .probe, addr := 1, payload := (probePayloadA 0xC1).set 18 7 } .a 6) 2 ∧
    byteAt ((probePayloadA 0xC1).set 18 7) 18 ≠ byteAt (probeCell 0xC1) 6 ∧
    ((255 : Byte) - 128).toNat = 127 ∧ ((255 : Byte) - 127).toNat = 128 ∧ (measuring.now - 0 - 100).toNat < 2147483648 ∧
    TableAgrees measuring ∧ (∀ m, Silent measuring (srcLaneView m)) ∧ Silent measuring srcPosture ∧ Silent measuring srcOvercommit ∧
    (∀ m, (measuring.tx m).control = [] ∧ ∀ k, measuring.classQueue m k = []) ∧
    Calm measuring [.lane .a LaneCounter.rxGood.id, .lane .a LaneCounter.probeInvalid.id] := by
  refine ⟨by unfold GoodCell; decide +kernel, by decide +kernel, by decide +kernel, by decide +kernel, by decide +kernel,
    agrees_set agrees_bench 12 rfl, ?_, silent_of (by decide +kernel), silent_of (by decide +kernel), ?_, calm_of (by decide +kernel)⟩
  · intro m; cases m <;> exact silent_of (by decide +kernel)
  · intro m; cases m <;> decide +kernel

/-- Media refused at dispatch: held, not ACTIVE, role ORIGIN, no buffer, and a disagreeing entry with nothing else to flush. -/
theorem witness_CellExamined_refused : GoodCell (held wide) .a (arriving 0) 1 ∧ (byteAt (arriving 0) 2).toFin = (12 : StreamId) ∧
    Calm wide [.lane .a LaneCounter.rxGood.id, .lane .a LaneCounter.rxUnknown.id, .stream 12 StreamCounter.rxCells.id,
      .stream 12 StreamCounter.admitDrop.id] ∧
    GoodCell (wide.setEntry 12 { wide.entry 12 with state := .suspended }) .a (arriving 0) 1 ∧
    GoodCell (wide.setEntry 12 { wide.entry 12 with role := .origin }) .a (arriving 0) 1 ∧
    GoodCell (wide.setBfm { wide.bfm with freeCount := 16 }) .a (arriving 0) 1 ∧ 16 ≤ Config.mediaThreshold 0 ∧
    GoodCell (wide.setEntry 12 { wide.entry 12 with checkAgrees := false }) .a (arriving 0) 1 ∧ wide.mga.held = false ∧
    wide.mga.drain = none ∧ (wide.source srcFault).flag = false ∧ Reaches wide 4 ∧ Grants wide 0 0 others ∧
    Calm wide [.station StationCounter.notices.id] := by
  and_intros <;> first
    | decide +kernel | exact calm_of (by decide +kernel) | exact reaches_of (by decide +kernel)
    | exact grants_of (by decide +kernel)

theorem witness_CellExamined_quiet : MediaGone (wide.setEntry 12 { wide.entry 12 with checkAgrees := false }) :=
  ⟨by intro l; cases l <;> decide +kernel, by decide +kernel, by decide +kernel⟩

/-- Stream 12 unmerged, its last delivered sequence the greatest. -/
def unmerged (valid : Bool) : State :=
  (wide.setEntry 12 { wide.entry 12 with merge := false }).setRun 12
    { wide.run 12 with context := none, lastValid := valid, lastSeq := 65535, lastEpoch := 5 }

/-- The counters a cell of stream 12 may count outside a window. -/
def filterRefs : List CounterRef :=
  [.lane .a LaneCounter.rxGood.id, .stream 12 StreamCounter.rxCells.id, .stream 12 StreamCounter.delivered.id,
    .stream 12 StreamCounter.resync.id, .stream 12 StreamCounter.late.id]

theorem good_arriving {s : State} {seq : Nat}
    (h : (decide ((arriving seq).length = 128) && !s.restarting && decide ((s.rx .a).state = .up) &&
      (crc8 ((arriving seq).take 7) == byteAt (arriving seq) 7) &&
      ((crc32 ((arriving seq).take 124)).toNat == nat32At (arriving seq) 124) &&
      decide ((byteAt (arriving seq) 0).toNat / 16 = 1) && decide ((byteAt (arriving seq) 0).toNat / 4 % 4 = laneCode .a) &&
      decide ((byteAt (arriving seq) 3).toNat ≤ 116)) = true) : GoodCell s .a (arriving seq) 1 := by
  simp only [Bool.and_eq_true, decide_eq_true_eq, Bool.not_eq_true', beq_iff_eq] at h
  exact ⟨h.1.1.1.1.1.1.1, h.1.1.1.1.1.1.2, .inl h.1.1.1.1.1.2, h.1.1.1.1.2, h.1.1.1.2, h.1.1.2, h.1.2, h.2⟩

/-- Stream 12's runtime record with a last delivered sequence of this epoch. -/
def lastAt (s : State) (valid : Bool) (seq : Seq) (epoch : Epoch) : State :=
  s.setRun 12 { s.run 12 with lastValid := valid, lastSeq := seq, lastEpoch := epoch }

/-- New across the wrap, the first of the stream, of another epoch, and a late one. -/
theorem witness_UnmergedDelivers : TakesMedia (unmerged true) .a (arriving 0) 12 0 others ∧
    ((unmerged true).entry 12).merge = false ∧ (unmerged true).present 2 = true ∧ ((unmerged true).egress 2).length < 511 ∧
    Calm (unmerged true) filterRefs ∧ byteAt (arriving 0) 6 = ((unmerged true).run 12).lastEpoch ∧
    (seqOf (arriving 0) - ((unmerged true).run 12).lastSeq).toNat = 1 ∧ ((unmerged false).run 12).lastValid = false ∧
    TakesMedia (lastAt (unmerged true) true 9 4) .a (arriving 0) 12 0 others ∧ byteAt (arriving 0) 6 ≠ 4 ∧
    TakesMedia (lastAt (unmerged true) true 0 5) .a (arriving 0) 12 0 others ∧
    (seqOf (arriving 0) - ((lastAt (unmerged true) true 0 5).run 12).lastSeq).toNat = 0 := by
  and_intros <;> first
    | decide +kernel | exact calm_of (by decide +kernel)
    | exact takes_of (good_arriving (by decide +kernel)) (by decide +kernel)

/-- A cell for the address byte, of a control kind, as lane A carries it. -/
def control (kind : CellKind) (addr : Byte) : List Byte :=
  linkCell { Cell.empty with kind := kind, addr := addr, payload := [0, 0x31, 1, 0] } .a 6

/-- The counters a control cell on lane A may count. -/
def controlRefs : List CounterRef :=
  [.lane .a LaneCounter.rxGood.id, .station StationCounter.mgmtRequests.id, .station StationCounter.mgmtBusy.id,
    .station StationCounter.undeliverable.id]

/-- So many requests queued, so many entries in the controller port's FIFO. -/
def agentAt (requests entries : Nat) : State :=
  (wide.setMga { wide.mga with requests := List.replicate requests (ask 1 []) }).setEgress 4 (List.replicate entries (.control 9))

/-- A request for this station with its queue at 3 and at 4, a response for it, cells for the peer, for station 2 and for the
controller: reached, its port none, its FIFO full; and no buffer. -/
theorem witness_ControlCellRouted : GoodCell (agentAt 3 0) .a (control .mgmtReq 7) 3 ∧
    (byteAt (control .mgmtReq 7) 2).toNat / 8 % 8 = (agentAt 3 0).mga.station.val ∧ (agentAt 3 0).mga.requests.length < 4 ∧
    4 ≤ (agentAt 4 0).mga.requests.length ∧ GoodCell (agentAt 4 0) .a (control .mgmtReq 7) 3 ∧
    (byteAt (control .mgmtReq 7) 2).toNat % 8 = 7 ∧ Reaches (agentAt 4 0) 4 ∧
    Grants (agentAt 4 0) 0 0 (1 :: List.range' 2 8190) ∧ (agentAt 4 0).bfm.freeCount = 8192 ∧
    GoodCell wide .a (control .mgmtRsp 1) 4 ∧ GoodCell wide .a (control .notice 0x09) 5 ∧
    (byteAt (control .notice 0x09) 2).toNat / 8 % 8 = 1 - wide.mga.station.val ∧
    (byteAt (control .exportCell 0x11) 2).toNat / 8 % 8 = 2 ∧ GoodCell wide .a (control .exportCell 0x39) 6 ∧
    (byteAt (control .exportCell 0x39) 2).toNat / 8 % 8 = 7 ∧ State.reset.mga.settings.controllerPort = none ∧
    512 ≤ ((agentAt 0 512).egress 4).length ∧ (agentAt 0 512).present 4 = true ∧
    (agentAt 0 512).mga.settings.controllerPort = some 4 ∧ Calm (agentAt 0 512) [.port 4 PortCounter.outDrop.id] ∧
    Calm (agentAt 4 0) controlRefs ∧ Silent (agentAt 4 0) srcUndeliverable ∧
    ((agentAt 3 0).setBfm { bench.bfm with freeCount := 0 }).bfm.freeCount = 0 := by
  unfold GoodCell
  and_intros <;> first
    | decide +kernel | exact reaches_of (by decide +kernel) | exact others_cons ▸ grants_of (by decide +kernel)
    | exact calm_of (by decide +kernel) | exact silent_of (by decide +kernel)

/-- The counters a stored or duplicate cell of stream 12 counts. -/
def storeRefs : List CounterRef :=
  [.lane .a LaneCounter.rxGood.id, .stream 12 StreamCounter.rxCells.id, .stream 12 StreamCounter.dup.id]

/-- The window with a copy in its last slot, sequence 5. -/
def occupied : State :=
  wide.setContext 3 { wide.context 3 with
    slots := List.replicate 7 none ++ [some { buffer := 9, arrival := 0, lane := .b, release := 600 }] }

theorem witness_WindowStores : TakesMedia wide .a (arriving 5) 12 0 others ∧ (wide.entry 12).merge = true ∧
    (wide.run 12).context = some 3 ∧ (wide.context 3).synced = true ∧ (wide.context 3).epoch = byteAt (arriving 5) 6 ∧
    ((5 : Seq) - (wide.context 3).next).toNat = 7 ∧ (wide.context 3).depth = 8 ∧ (wide.context 3).slots.length = 8 ∧
    (wide.context 3).slots[7]? = some none ∧
    (occupied.context 3).slots[7]? = some (some { buffer := 9, arrival := 0, lane := .b, release := 600 }) ∧
    Calm wide storeRefs ∧ TakesMedia occupied .a (arriving 5) 12 0 others ∧ Calm occupied storeRefs := by
  and_intros <;> first
    | decide +kernel | exact calm_of (by decide +kernel)
    | exact takes_of (good_arriving (by decide +kernel)) (by decide +kernel)

/-- The counters an arriving cell of stream 12 may count at its window. -/
def windowRefs : List CounterRef :=
  [.lane .a LaneCounter.rxGood.id, .stream 12 StreamCounter.rxCells.id, .stream 12 StreamCounter.late.id,
    .stream 12 StreamCounter.lost.id, .stream 12 StreamCounter.jump.id, .stream 12 StreamCounter.resync.id,
    .stream 12 StreamCounter.delivered.id]

/-- The last offset that is late and the first, the first and the last that jump, the first and the last that resync, and a cell of
another epoch than the window's. -/
theorem witness_WindowMoves : TakesMedia wide .a (arriving 65533) 12 0 others ∧ TakesMedia wide .a (arriving 32766) 12 0 others ∧
    (seqOf (arriving 65533) - (wide.context 3).next).toNat = 65535 ∧ (seqOf (arriving 32766) - (wide.context 3).next).toNat = 32768 ∧
    TakesMedia wide .a (arriving 6) 12 0 others ∧ (seqOf (arriving 6) - (wide.context 3).next).toNat = (wide.context 3).depth ∧
    TakesMedia wide .a (arriving 4093) 12 0 others ∧ (seqOf (arriving 4093) - (wide.context 3).next).toNat = 4095 ∧
    TakesMedia wide .a (arriving 4094) 12 0 others ∧ (seqOf (arriving 4094) - (wide.context 3).next).toNat = 4096 ∧
    TakesMedia wide .a (arriving 32765) 12 0 others ∧ (seqOf (arriving 32765) - (wide.context 3).next).toNat = 32767 ∧
    (wide.entry 12).merge = true ∧ (wide.run 12).context = some 3 ∧ (wide.context 3).condition = .attached ∧
    (wide.context 3).synced = true ∧ (wide.context 3).slots.length = (wide.context 3).depth ∧ (wide.context 3).depth = 8 ∧
    byteAt (arriving 6) 6 = (wide.context 3).epoch ∧ (wide.context 3).heldCells = [] ∧ (occupied.context 3).heldCells ≠ [] ∧
    (wide.setContext 3 { wide.context 3 with epoch := 4 }).mga.held = false ∧ byteAt (arriving 6) 6 ≠ 4 ∧
    wide.present 2 = true ∧ (wide.egress 2).length ≤ 256 ∧ Silent wide srcStreamLoss ∧ Far wide windowRefs := by
  and_intros <;> first
    | decide +kernel | exact silent_of (by decide +kernel) | exact far_of (by decide +kernel)
    | exact takes_of (good_arriving (by decide +kernel)) (by decide +kernel)

/-- Stream 12 without a context; context 3 free again, and so many contexts from 0 on taken. -/
def detached (taken : Nat) : State :=
  let s := (wide.setContext 3 .cleared).setRun 12 { wide.run 12 with context := none }
  (List.finRange 64).foldl (fun s c => if c.val < taken then s.setContext c (.reservedTo 200) else s) s

/-- Stream 12 pinning context 63. -/
def pinning : State :=
  ((detached 64).setEntry 12 { (detached 64).entry 12 with pin := some 63 }).setContext 63 (.reservedTo 12)

/-- The counters of an attachment. -/
def attachRefs : List CounterRef :=
  [.lane .a LaneCounter.rxGood.id, .stream 12 StreamCounter.rxCells.id, .stream 12 StreamCounter.delivered.id,
    .stream 12 StreamCounter.resync.id, .stream 12 StreamCounter.unmerged.id]

/-- The lowest free context, the pinned one, none to be had; a first cell, another epoch, a resumed window; AUTO mode. -/
theorem witness_ContextAttaches : TakesMedia (detached 5) .a (arriving 0) 12 0 others ∧ ((detached 5).entry 12).merge = true ∧
    ((detached 5).run 12).context = none ∧ Calm (detached 5) attachRefs ∧ ((detached 5).entry 12).pin = none ∧
    ((detached 5).context 5).condition = .free ∧ (∀ d : ContextId, d < 5 → ((detached 5).context d).condition ≠ .free) ∧
    (pinning.entry 12).pin = some 63 ∧ TakesMedia pinning .a (arriving 0) 12 0 others ∧
    (∀ c, ((detached 64).context c).condition ≠ .free) ∧ Silent (detached 64) srcMergePool ∧
    TakesMedia (detached 64) .a (arriving 0) 12 0 others ∧ (detached 64).present 2 = true ∧ ((detached 64).egress 2).length < 512 ∧
    ((detached 5).run 12).lastValid = false ∧ ((lastAt (detached 5) true 9 4).run 12).lastEpoch ≠ byteAt (arriving 0) 6 ∧
    ((lastAt (detached 5) true 65530 5).run 12).lastEpoch = byteAt (arriving 0) 6 ∧
    (seqOf (arriving 0) - (((lastAt (detached 5) true 65530 5).run 12).lastSeq + 1)).toNat < ((detached 5).entry 12).depth ∧
    ((detached 5).entry 12).holdMode = .fixed ∧ Silent (detached 5) srcSkew := by
  and_intros <;> first
    | decide +kernel | exact silent_of (by decide +kernel) | exact calm_of (by decide +kernel)
    | exact takes_of (good_arriving (by decide +kernel)) (by decide +kernel)

/-! ### Witnesses: the merge -/

/-- Buffer 0 held for release at 600 behind `k` empty slots, at time `now`. -/
def holding (k : Nat) (now : Time) : State :=
  let s := buffer (wide.setBfm { wide.bfm with free := others, freeCount := 8191 }) 0 1 (media 12 65534)
  (s.setLck { s.lck with count := now }).setContext 3 { wide.context 3 with
    slots := List.replicate k none ++ some { buffer := 0, arrival := 0, lane := .a, release := 600 } :: List.replicate (7 - k) none }

theorem witness_ReleasesAndLosses : ((holding 0 600).context 3).condition = .attached ∧
    ((holding 0 600).context 3).owner = some 12 ∧
    ((holding 0 600).context 3).slots = some { buffer := 0, arrival := 0, lane := .a, release := 600 } :: List.replicate 7 none ∧
    ((holding 0 600).context 3).lastRelease = none ∧ ((600 : Time) - (holding 0 600).now).toNat = 0 ∧
    ((600 : Time) - (holding 0 599).now).toNat = 1 ∧ (holding 0 600).mga.held = false ∧ (holding 0 600).present 2 = true ∧
    ((holding 0 600).egress 2).length < 511 ∧ Calm (holding 0 600) [.stream 12 StreamCounter.delivered.id] := by
  and_intros <;> first
    | decide +kernel | exact calm_of (by decide +kernel)

theorem witness_ReleasesAndLosses_lost : ((holding 7 600).context 3).condition = .attached ∧
    ((holding 7 600).context 3).owner = some 12 ∧
    ((holding 7 600).context 3).slots =
      List.replicate 7 none ++ some { buffer := 0, arrival := 0, lane := .a, release := 600 } :: List.replicate 0 none ∧
    ((holding 7 600).context 3).lastRelease = none ∧ ((600 : Time) - (holding 7 600).now).toNat = 0 ∧
    Silent (holding 7 600) srcStreamLoss ∧
    Far (holding 7 600) [.stream 12 StreamCounter.lost.id, .stream 12 StreamCounter.delivered.id] := by
  and_intros <;> first
    | decide +kernel | exact silent_of (by decide +kernel) | exact far_of (by decide +kernel)

/-- Port 2 absent, or its FIFO full: a first cell, a cell of another epoch with gap markers ON, and a release. -/
theorem witness_PortsFollowPins_dropped : ((unmerged false).setPresent 2 false).present 2 = false ∧
    TakesMedia ((unmerged false).setPresent 2 false) .a (arriving 0) 12 0 others ∧
    512 ≤ (((lastAt (unmerged true) true 9 4).setEgress 2 (List.replicate 512 (.control 9))).egress 2).length ∧
    TakesMedia ((lastAt (unmerged true) true 9 4).setEgress 2 (List.replicate 512 (.control 9))) .a (arriving 0) 12 0 others ∧
    ((unmerged true).entry 12).gapMarkers = true ∧ ((unmerged true).entry 12).port = 2 ∧
    Far (unmerged false) (filterRefs ++ [.stream 12 StreamCounter.egressDrop.id, .port 2 PortCounter.outDrop.id]) ∧
    ((holding 0 600).setPresent 2 false).present 2 = false ∧ ((holding 0 600).buffer 0).refs = 1 ∧
    Far (holding 0 600) [.stream 12 StreamCounter.delivered.id, .stream 12 StreamCounter.egressDrop.id,
      .port 2 PortCounter.outDrop.id] := by
  and_intros <;> first
    | decide +kernel | exact far_of (by decide +kernel)
    | exact takes_of (good_arriving (by decide +kernel)) (by decide +kernel)

/-! ### Witnesses: strikes, ports and exports -/

/-- A pulse counted at 0, now so many microseconds later. -/
def struck (now : Time) : State :=
  let s := bench.setLck { bench.lck with count := now }
  s.setPsc { s.psc with lastPulse := some 0, timer := 1, localStrike := true, effective := .strike }

theorem witness_StrikesBeginAndEnd : (struck 1001).restarting = false ∧ (struck 1001).psc.lastPulse = some 0 ∧
    1000 < ((struck 1001).now - 0).toNat ∧ ((struck 1000).now - 0).toNat ≤ 1000 ∧ bench.psc.lastPulse = none ∧
    (struck 1000).psc.localStrike = true ∧ (struck 1000).psc.timer ≤ 1 := by decide +kernel

/-- A counted pulse of a station not in STRIKE, and of one that is. -/
theorem witness_StrikesBeginAndEnd_counted : TableAgrees bench ∧ Silent bench srcStrike ∧ Silent bench srcPosture ∧
    Silent bench srcOvercommit ∧ Calm bench [.station StationCounter.strikes.id] ∧ bench.psc.effective ≠ .strike ∧
    TableAgrees (struck 1001) ∧ Silent (struck 1001) srcStrike ∧ (struck 1001).psc.effective = .strike := by
  and_intros <;> first
    | decide +kernel | exact agrees_bench | exact silent_of (by decide +kernel) | exact calm_of (by decide +kernel)

/-- Port 2 with one entry in its egress FIFO. -/
def leaving (e : EgressEntry) : State := (queued true true).setEgress 2 [e]

/-- A spoiled buffer 1 ahead of the good buffer 0 in port 2's FIFO. -/
def spoiledHead : State :=
  let s := (queued true true).setBfm { (queued true true).bfm with free := List.range' 2 8190, freeCount := 8190 }
  (buffer s 1 1 (media 10 3) false).setEgress 2 [.media 1 10 3, .control 0]

/-- The counters of a handover at port 2. -/
def handoverRefs : List CounterRef :=
  [.port 2 PortCounter.outCells.id, .port 2 PortCounter.gapMarkers.id, .port 2 PortCounter.outBufCheck.id]

theorem witness_HandoverTakesHead : (leaving (.media 0 10 4)).restarting = false ∧ Calm (leaving (.media 0 10 4)) handoverRefs ∧
    bench.present 3 = false ∧ bench.egress 2 = [] ∧ (leaving (.gap 10 4 32 false)).present 2 = true ∧
    (leaving (.gap 10 4 32 false)).egress 2 = [.gap 10 4 32 false] ∧ (leaving (.media 0 10 4)).egress 2 = [.media 0 10 4] ∧
    (leaving (.control 0)).egress 2 = [.control 0] ∧ ((leaving (.control 0)).buffer 0).refs = 1 ∧
    ((leaving (.control 0)).buffer 0).checkAgrees = true ∧ Calm spoiledHead handoverRefs ∧
    spoiledHead.egress 2 = [.media 1 10 3, .control 0] ∧ (spoiledHead.buffer 1).refs = 1 ∧
    (spoiledHead.buffer 1).checkAgrees = false ∧ (spoiledHead.buffer 0).refs = 1 ∧ (spoiledHead.buffer 0).checkAgrees = true := by
  and_intros <;> first
    | decide +kernel | exact calm_of (by decide +kernel)



/-- Channel 3 bound to MANUAL, with a firing waiting or not, its block the last of the stream counters. -/
def exporting (firing : Bool) : State :=
  bench.setChannel 3 { bound := some .manual, kind := .stream, first := 4080, items := 16, walk := true, remaining := 2,
                       firing := firing, number := 65535 }

/-- The last export of channel 3. -/
def lastExport : State := (exporting true).setChannel 3 { (exporting true).channel 3 with remaining := 1 }

theorem witness_ExportServed : (exporting true).restarting = false ∧ ((exporting false).channel 3).firing = false ∧
    ((exporting true).channel 3).firing = true ∧ 2 ≤ ((exporting true).channel 3).remaining ∧ Reaches (exporting true) 4 ∧
    Grants (exporting true) 0 0 others ∧ ((exporting true).setBfm { bench.bfm with freeCount := 0 }).bfm.freeCount = 0 ∧
    ((exporting true).setEgress 4 (List.replicate 512 (.control 0))).routeReady = false ∧
    (lastExport.channel 3).firing = true ∧ (lastExport.channel 3).remaining = 1 ∧ Silent lastExport (srcExportDone 3) ∧
    Reaches lastExport 4 ∧ Grants lastExport 0 0 others := by
  and_intros <;> first
    | decide +kernel | exact reaches_of (by decide +kernel) | exact grants_of (by decide +kernel)
    | exact silent_of (by decide +kernel)

/-! ### Witnesses: drains -/

/-- Stream 10 DRAINING with its pending drain, so many ticks before its deadline. -/
def draining (s : State) (ticks : Nat) : State :=
  let s := s.setEntry 10 { origin.entry 10 with state := .draining }
  s.setMga { s.mga with
    drain := some { stream := 10, tag := 0x0102, command := 5, source := 7, ticks := ticks, purged := 3 } }

/-- The same, with one copy left in lane A's class queue 3. -/
def drainingOne (ticks : Nat) : State :=
  let s := bench.setBfm { bench.bfm with free := List.range' 1 8191, freeCount := 8191 }
  let s := (buffer s 0 1 (media 10 4)).setClassQueue .a 3 [{ buffer := 0, stream := 10 }]
  draining (s.setRun 10 { s.run 10 with queued := 1 }) ticks

theorem witness_DrainsEnd : bench.mga.drain = none ∧
    ((draining bench 1).run 10).queued = 0 ∧ TableAgrees (draining bench 1) ∧ Silent (draining bench 1) srcOvercommit ∧
    Reaches (draining bench 1) 4 ∧ Grants (draining bench 1) 0 0 others ∧
    ((drainingOne 1).run 10).queued ≠ 0 ∧ (drainingOne 1).classQueue .a 3 = [{ buffer := 0, stream := 10 }] ∧
    ((drainingOne 1).buffer 0).refs = 1 ∧ PoolCanonical (drainingOne 1) ∧ TableAgrees (drainingOne 1) ∧ Silent (drainingOne 1) srcOvercommit ∧
    Calm (drainingOne 1) [.stream 10 StreamCounter.drainPurge.id] ∧ Reaches (drainingOne 1) 4 ∧
    Grants (drainingOne 1) 0 1 (List.range' 2 8190) ∧ (drainingOne 1).bfm.freeCount ≠ 511 :=
  ⟨by decide +kernel, by decide +kernel, agrees_set agrees_bench 10 rfl, silent_of (by decide +kernel),
    reaches_of (by decide +kernel), grants_of (by decide +kernel), by decide +kernel, by decide +kernel, by decide +kernel,
    by unfold PoolCanonical; decide +kernel, agrees_set agrees_bench 10 rfl, silent_of (by decide +kernel), calm_of (by decide +kernel), reaches_of (by decide +kernel),
    ⟨rfl, by decide +kernel, by decide +kernel⟩, by decide +kernel⟩

theorem witness_DrainsEnd_elsewhere : ∀ m j, (m, j) ≠ (Lane.a, (3 : Fin 4)) → ∀ e ∈ (drainingOne 1).classQueue m j, e.stream ≠ 10 := by
  intro m j hne
  have h : ∀ j : Fin 4, (drainingOne 1).classQueue .b j = [] ∧ (drainingOne 1).classQueue .c j = [] ∧
      (j ≠ 3 → (drainingOne 1).classQueue .a j = []) := by decide +kernel
  have hq : (drainingOne 1).classQueue m j = [] := by
    cases m
    · exact (h j).2.2 (fun e => hne (by rw [e]))
    · exact (h j).1
    · exact (h j).2.1
  simp [hq]

/-- Lane A USABLE with so many cells in its control queue. -/
def controlAt (k : Nat) : State := (twoUp .aThenB).setControl .a (List.replicate k 9)

/-- No port stands near the half mark of OUT_DROP, and UNDELIVERABLE neither. -/
theorem calm_routes {s : State} (h : (∀ p : PortId, ((s.counter (.port p PortCounter.outDrop.id)).atHalf) = false) ∧
    (s.counter (.station StationCounter.undeliverable.id)).atHalf = false) :
    (∀ p : PortId, Calm s [.port p PortCounter.outDrop.id]) ∧ Calm s [.station StationCounter.undeliverable.id] := by
  refine ⟨fun p => calm_of ?_, calm_of ?_⟩
  · simp [h.1 p]
  · simp [h.2]

/-- A response routed to the peer with one place left on lane A, with none, and with no lane; to a controller whose port is absent or
whose FIFO is full; to this station's own address. -/
theorem witness_routes : FirstOf (controlAt 7).view [.a, .b, .c] .a ∧ ((controlAt 7).tx .a).control.length = 7 ∧
    ((controlAt 8).tx .a).control.length = 8 ∧ (∀ l, bench.view l = .unusable) ∧
    (1 : Fin 8).val + (controlAt 7).mga.station.val = 1 ∧ (0 : Fin 8).val + (controlAt 7).mga.station.val ≠ 1 ∧
    ((controlAt 7).setPresent 4 false).mga.settings.controllerPort = some 4 ∧ ((controlAt 7).setPresent 4 false).present 4 = false ∧
    (bench.setEgress 4 (List.replicate 512 (.control 0))).present 4 = true ∧ Grants (controlAt 7) 0 0 others ∧
    Silent (controlAt 7) srcUndeliverable ∧ Silent (controlAt 7) srcMgmtError ∧ (controlAt 7).mga.restart = .idle ∧
    (∀ p : PortId, Calm (controlAt 7) [.port p PortCounter.outDrop.id]) ∧
    Calm (controlAt 7) [.station StationCounter.undeliverable.id] ∧ (draining (controlAt 7) 1).mga.drain.isSome = true ∧
    ((draining (controlAt 7) 1).run 10).queued = 0 ∧ TableAgrees (draining (controlAt 7) 1) := by
  have c := calm_routes (s := controlAt 7) (by decide +kernel)
  refine ⟨.inl ⟨[], [.b, .c], rfl, by decide +kernel, by simp⟩, by decide +kernel, by decide +kernel, ?_, by decide +kernel,
    by decide +kernel, by decide +kernel, by decide +kernel, by decide +kernel, grants_of (by decide +kernel),
    silent_of (by decide +kernel), silent_of (by decide +kernel), by decide +kernel, c.1, c.2, by decide +kernel,
    by decide +kernel, agrees_set (agrees_twoUp .aThenB .up) 10 rfl⟩
  intro l; cases l <;> decide +kernel

/-! ### Witnesses: the service of requests -/

theorem witness_ServiceWaitsOrRefuses :
    bench.mga.requests = [] ∧ (asked bench 1 []).mga.requests = [ask 1 []] ∧
    ((asked bench 1 []).setBfm { bench.bfm with freeCount := 0 }).bfm.freeCount = 0 ∧
    (bench.setMga { bench.mga with restart := .waiting { tag := 0, command := 21, source := 7 } }).mga.restart ≠ .idle ∧
    -- codes 0 and 22, an argument length above the payload, and the same for STREAM STATE
    Heads (asked bench 0 []) .unknownCommand (ask 0 []) [] 4 0 others ∧
    Heads (asked bench 22 []) .unknownCommand (ask 22 []) [] 4 0 others ∧ Silent (asked bench 22 []) srcMgmtError ∧
    Heads (asked bench 1 (List.replicate 113 0)) .echo (ask 1 (List.replicate 113 0)) [] 4 0 others ∧
    112 < (byteAt (ask 1 (List.replicate 113 0)).payload 3).toNat ∧
    Heads (asked bench 5 (List.replicate 113 0)) .streamState (ask 5 (List.replicate 113 0)) [] 4 0 others :=
  ⟨by decide +kernel, by decide +kernel, by decide +kernel, by decide +kernel, heads_of (by decide +kernel),
    heads_of (by decide +kernel), silent_of (by decide +kernel), heads_of (by decide +kernel), by decide +kernel,
    heads_of (by decide +kernel)⟩

theorem witness_EchoAnswers :
    Serves (asked bench 1 (List.replicate 111 5)) .echo (ask 1 (List.replicate 111 5)) [] 4 0 others ∧
    (byteAt (ask 1 (List.replicate 111 5)).payload 3).toNat = 111 ∧
    Serves (asked bench 1 (List.replicate 112 5)) .echo (ask 1 (List.replicate 112 5)) [] 4 0 others ∧
    (byteAt (ask 1 (List.replicate 112 5)).payload 3).toNat = 112 ∧ Silent (asked bench 1 (List.replicate 112 5)) srcMgmtError :=
  ⟨serves_of (by decide +kernel), by decide +kernel, serves_of (by decide +kernel), by decide +kernel, silent_of (by decide +kernel)⟩

/-- Good arguments of a held station's FLOOR SET, COUNTER READ with clear and STREAM STATE; arguments that STREAM WRITE, STREAM FILL,
CONTEXT READ, LANE READ, STRIKE TEST and STREAM STATE do not take. -/
theorem witness_HeldStationRefuses :
    Serves (held (asked bench 15 [0])) .floorSet (ask 15 [0]) [] 4 0 others ∧
    Silent (held (asked bench 15 [0])) srcMgmtError ∧ (held (asked bench 15 [0])).mga.held = true ∧
    ArgumentsGood .floorSet (ask 15 [0]).payload ∧
    Serves (held (asked bench 8 [0, 0, 0, 1, 1])) .counterRead (ask 8 [0, 0, 0, 1, 1]) [] 4 0 others ∧
    ArgumentsGood .counterRead (ask 8 [0, 0, 0, 1, 1]).payload ∧ byteAt (ask 8 [0, 0, 0, 1, 1]).payload 8 = 1 ∧
    Serves (held (asked bench 5 [10, 3])) .streamState (ask 5 [10, 3]) [] 4 0 others ∧
    ArgumentsGood .streamState (ask 5 [10, 3]).payload ∧
    Serves (asked bench 3 [10]) .streamWrite (ask 3 [10]) [] 4 0 others ∧ ¬ ArgumentsGood .streamWrite (ask 3 [10]).payload ∧
    Serves (asked bench 4 [2, 1, 9, 0, 1]) .streamFill (ask 4 [2, 1, 9, 0, 1]) [] 4 0 others ∧
    ¬ ArgumentsGood .streamFill (ask 4 [2, 1, 9, 0, 1]).payload ∧
    Serves (asked bench 6 [64]) .contextRead (ask 6 [64]) [] 4 0 others ∧ ¬ ArgumentsGood .contextRead (ask 6 [64]).payload ∧
    Serves (asked bench 7 [3]) .laneRead (ask 7 [3]) [] 4 0 others ∧ ¬ ArgumentsGood .laneRead (ask 7 [3]).payload ∧
    Serves (asked bench 11 [0]) .strikeTest (ask 11 [0]) [] 4 0 others ∧ ¬ ArgumentsGood .strikeTest (ask 11 [0]).payload ∧
    Serves (asked bench 5 [10, 2]) .streamState (ask 5 [10, 2]) [] 4 0 others ∧
    ¬ ArgumentsGood .streamState (ask 5 [10, 2]).payload := by
  and_intros <;> first
    | exact serves_of (by decide +kernel) | exact silent_of (by decide +kernel) | decide +kernel
    | (dsimp only [ArgumentsGood, FieldList]; decide +kernel)
    | exact ⟨.stream, by decide +kernel⟩

/-- Entry 255's check disagreeing. -/
def damaged (s : State) : State := s.setEntry 255 { s.entry 255 with checkAgrees := false }

theorem witness_StreamReadAnswers : Serves (asked bench 2 [255]) .streamRead (ask 2 [255]) [] 4 0 others ∧
    byteAt (ask 2 [255]).payload 3 = 1 ∧ (byteAt (ask 2 [255]).payload 4).toFin = (255 : StreamId) ∧
    ((asked bench 2 [255]).entry 255).checkAgrees = true ∧
    Serves (damaged (held (asked bench 2 [255]))) .streamRead (ask 2 [255]) [] 4 0 others ∧
    ((damaged (held (asked bench 2 [255]))).entry 255).checkAgrees = false ∧
    ((damaged (held (asked bench 2 [255]))).source srcFault).flag = true ∧
    Serves (damaged (asked bench 2 [255])) .streamRead (ask 2 [255]) [] 4 0 others ∧
    (damaged (asked bench 2 [255])).mga.held = false :=
  ⟨serves_of (by decide +kernel), by decide +kernel, by decide +kernel, by decide +kernel, serves_of (by decide +kernel),
    by decide +kernel, by decide +kernel, serves_of (by decide +kernel), by decide +kernel⟩

/-- A write of every field but the pin, at values that clamp burst, depth and hold_max. -/
def wholeWrite : List Byte :=
  [10] ++ items [(1, 1), (2, 7), (3, 3), (4, 9), (5, 8), (6, 7), (7, 6), (8, 65535), (9, 1025), (10, 1), (11, 1), (12, 3),
    (13, 1), (14, 65535), (15, 500), (16, 499), (18, 1)]

/-- A write of burst and class to an ACTIVE stream. -/
def adjusting : List Byte := [10] ++ items [(9, 1), (3, 2)]

theorem witness_StreamWriteSets :
    Serves (asked bench 3 wholeWrite) .streamWrite (ask 3 wholeWrite) [] 4 0 others ∧ bench.mga.held = false ∧
    (byteAt (ask 3 wholeWrite).payload 4).toFin = (10 : StreamId) ∧
    FieldList 51 (threeByteItems (wholeWrite.drop 1)) ∧ (byteAt (ask 3 wholeWrite).payload 3).toNat = 52 ∧
    (threeByteItems (wholeWrite.drop 1)).lookup 17 = none ∧ (bench.run 10).context = none ∧
    -- an ACTIVE stream: adjustable fields only; a fixed field; a DRAINING stream; a damaged entry
    Serves (asked origin 3 adjusting) .streamWrite (ask 3 adjusting) [] 4 0 others ∧ (origin.entry 10).state = .active ∧
    (∀ code ∈ [1, 2, 4, 5, 6, 7, 8, 11, 12], (threeByteItems (adjusting.drop 1)).lookup code = none) ∧
    FieldList 6 (threeByteItems (adjusting.drop 1)) ∧
    Serves (asked origin 3 wholeWrite) .streamWrite (ask 3 wholeWrite) [] 4 0 others ∧
    Silent (asked origin 3 wholeWrite) srcMgmtError ∧ (threeByteItems (wholeWrite.drop 1)).lookup 12 ≠ none ∧
    Serves (asked (draining bench 9) 3 adjusting) .streamWrite (ask 3 adjusting) [] 4 0 others ∧
    ((draining bench 9).entry 10).state = .draining ∧
    Serves (asked (damaged bench) 3 ([255] ++ items [(9, 1)])) .streamWrite (ask 3 ([255] ++ items [(9, 1)])) [] 4 0 others ∧
    ((damaged bench).entry 255).state ≠ .draining ∧ ((damaged bench).entry 255).checkAgrees = false := by
  unfold FieldList
  and_intros <;> first
    | decide +kernel | exact serves_of (by decide +kernel) | exact silent_of (by decide +kernel)

/-- A write of a rate and a plan; of hold_us; of hold_min in AUTO mode; of AUTO mode. -/
def loading : List Byte := [10] ++ items [(8, 41), (4, 2)]
def holdUs : List Byte := [12] ++ items [(14, 700)]
def holdMin : List Byte := [12] ++ items [(15, 650)]
def toAuto : List Byte := [12] ++ items [(13, 1)]

/-- The rate and a plan of an ACTIVE stream, and a hold field with context 3 attached, FIXED and AUTO. -/
theorem witness_StreamWriteSets_applied : Serves (asked origin 3 loading) .streamWrite (ask 3 loading) [] 4 0 others ∧
    FieldList 6 (threeByteItems (loading.drop 1)) ∧ (origin.run 10).context = none ∧
    (threeByteItems (loading.drop 1)).lookup 8 ≠ none ∧ TableAgrees (asked origin 3 loading) ∧
    Silent (asked origin 3 loading) srcOvercommit ∧
    Serves (asked wide 3 holdUs) .streamWrite (ask 3 holdUs) [] 4 0 others ∧ FieldList 3 (threeByteItems (holdUs.drop 1)) ∧
    (wide.run 12).context = some 3 ∧ (wide.context 3).checkAgrees = true ∧ (wide.entry 12).holdMode = .fixed ∧
    Serves (asked auto 3 holdMin) .streamWrite (ask 3 holdMin) [] 4 0 others ∧ (auto.entry 12).holdMode = .auto ∧
    (threeByteItems (holdMin.drop 1)).lookup 13 = none ∧
    Serves (asked wide 3 toAuto) .streamWrite (ask 3 toAuto) [] 4 0 others ∧
    (threeByteItems (toAuto.drop 1)).lookup 13 ≠ none ∧ Silent (asked wide 3 toAuto) srcSkew := by
  unfold FieldList
  and_intros <;> first
    | decide +kernel | exact serves_of (by decide +kernel) | exact silent_of (by decide +kernel)
    | exact agrees_set agrees_bench 10 rfl

/-- A write to a damaged entry, with nothing queued: a second buffer for the FAULT notice. -/
theorem witness_StreamWriteSets_damaged :
    Serves (asked (damaged bench) 3 ([255] ++ items [(9, 1)])) .streamWrite (ask 3 ([255] ++ items [(9, 1)])) [] 4 0
      (1 :: List.range' 2 8190) ∧ MediaGone (asked (damaged bench) 3 ([255] ++ items [(9, 1)])) ∧
    bench.bfm.freeCount = 8192 ∧ (bench.egress 4).length < 511 ∧ bench.mga.drain = none ∧
    (bench.source srcFault).flag = false ∧ Silent (asked (damaged bench) 3 ([255] ++ items [(9, 1)])) srcMgmtError ∧
    Calm (asked (damaged bench) 3 ([255] ++ items [(9, 1)])) [.station StationCounter.notices.id] :=
  ⟨others_cons ▸ serves_of (by decide +kernel), ⟨by intro l; cases l <;> decide +kernel, by decide +kernel, by decide +kernel⟩,
    by decide +kernel, by decide +kernel, by decide +kernel, by decide +kernel, silent_of (by decide +kernel),
    calm_of (by decide +kernel)⟩

/-- Stream 11 pinning context 63. -/
def pinned : State := bench.setEntry 11 { bench.entry 11 with pin := some 63 }

theorem witness_PinReserves : Serves (asked bench 3 [10, 17, 0, 63]) .streamWrite (ask 3 [10, 17, 0, 63]) [] 4 0 others ∧
    bench.mga.held = false ∧ (bench.entry 10).state = .idle ∧ (bench.entry 10).checkAgrees = true ∧ (bench.entry 10).pin = none ∧
    (∀ m, (bench.entry m).pin ≠ some 63) ∧ (bench.context 63).condition = .free ∧ (bench.run 10).context = none ∧
    (bench.entry 10).holdMin ≤ (bench.entry 10).holdMax ∧
    Serves (asked pinned 3 [10, 17, 0, 63]) .streamWrite (ask 3 [10, 17, 0, 63]) [] 4 0 others ∧
    (pinned.entry 11).pin = some 63 ∧ Silent (asked pinned 3 [10, 17, 0, 63]) srcMgmtError :=
  ⟨serves_of (by decide +kernel), by decide +kernel, by decide +kernel, by decide +kernel, by decide +kernel,
    fun m => by rw [entry_bench]; exact (by decide), by decide +kernel, by decide +kernel, by decide +kernel,
    serves_of (by decide +kernel), by decide +kernel, silent_of (by decide +kernel)⟩

/-- A fill of streams 254 and 255 with a burst and a class. -/
def fill (first : Byte) : List Byte := [first, 255] ++ items [(9, 0), (3, 2)]

theorem witness_StreamFillWrites : Serves (asked bench 4 (fill 254)) .streamFill (ask 4 (fill 254)) [] 4 0 others ∧
    bench.mga.held = false ∧ (byteAt (ask 4 (fill 254)).payload 4).toFin = (254 : StreamId) ∧
    (byteAt (ask 4 (fill 254)).payload 5).toFin = (255 : StreamId) ∧ fieldListOk 6 (threeByteItems ((fill 254).drop 2)) = true ∧
    (threeByteItems ((fill 254).drop 2)).lookup 17 = none ∧
    (∀ m : StreamId, 254 ≤ m → m ≤ 255 → (bench.entry m).state = .idle ∧ (bench.entry m).checkAgrees = true ∧
      (bench.run m).context = none) ∧
    Serves (asked (draining bench 9) 4 (fill 10)) .streamFill (ask 4 (fill 10)) [] 4 0 others ∧
    ((draining bench 9).entry 10).state = .draining ∧ Silent (asked (draining bench 9) 4 (fill 10)) srcMgmtError :=
  ⟨serves_of (by decide +kernel), by decide +kernel, by decide +kernel, by decide +kernel, by decide +kernel, by decide +kernel,
    fun m _ _ => by rw [entry_bench, run_bench]; exact ⟨rfl, rfl, rfl⟩, serves_of (by decide +kernel), by decide +kernel,
    silent_of (by decide +kernel)⟩

/-- Stream 10 of the origin bench in another state. -/
def inState (st : StreamState) (f : StreamEntry → StreamEntry := id) : State :=
  origin.setEntry 10 (f { origin.entry 10 with state := st })

/-- Stream 10 asked to take the target state. -/
def toState (s : State) (target : Byte) : State := asked s 5 [10, target]

theorem agrees_inState (st : StreamState) (target : Byte) : TableAgrees (toState (inState st) target) :=
  agrees_set (agrees_set agrees_bench 10 rfl) 10 rfl

theorem witness_StreamStateMoves :
    Serves (toState (inState .idle) 1) .streamState (ask 5 [10, 1]) [] 4 0 others ∧ bench.mga.held = false ∧
    (byteAt (ask 5 [10, 1]).payload 4).toFin = (10 : StreamId) ∧ byteAt (ask 5 [10, 1]).payload 3 = 2 ∧
    TableAgrees (toState (inState .idle) 1) ∧ Silent (toState (inState .idle) 1) srcOvercommit ∧
    ((inState .idle).entry 10).loaded = true ∧ ((inState .suspended).entry 10).state.code = 3 ∧
    Serves (toState (inState .suspended) 0) .streamState (ask 5 [10, 0]) [] 4 0 others ∧
    Serves (toState (inState .active (fun e => { e with role := .terminus })) 3) .streamState (ask 5 [10, 3]) [] 4 0 others ∧
    ((inState .active).run 10).context = none ∧
    -- refused and bad targets, a DRAINING stream, a stream not loaded
    Serves (toState (inState .idle (fun e => { e with loaded := false })) 1) .streamState (ask 5 [10, 1]) [] 4 0 others ∧
    Silent (toState (inState .active) 0) srcMgmtError ∧ (byteAt (ask 5 [10, 4]).payload 5).toNat = 4 ∧
    Serves (toState (inState .active) 4) .streamState (ask 5 [10, 4]) [] 4 0 others ∧
    Serves (toState (inState .draining) 3) .streamState (ask 5 [10, 3]) [] 4 0 others :=
  ⟨serves_of (by decide +kernel), by decide +kernel, by decide +kernel, by decide +kernel, agrees_inState _ _,
    silent_of (by decide +kernel), by decide +kernel, by decide +kernel, serves_of (by decide +kernel),
    serves_of (by decide +kernel), by decide +kernel, serves_of (by decide +kernel), silent_of (by decide +kernel),
    by decide +kernel, serves_of (by decide +kernel), serves_of (by decide +kernel)⟩

/-- Two cells held, in slots 0 and 7, and stream 12 asked to suspend. -/
def flushing : State :=
  asked (wide.setContext 3 { wide.context 3 with
    slots := some { buffer := 8, arrival := 0, lane := .a, release := 600 } :: List.replicate 6 none ++
      [some { buffer := 9, arrival := 0, lane := .b, release := 600 }] }) 5 [12, 3]

theorem witness_SuspendFlushesOrDrains : Serves flushing .streamState (ask 5 [12, 3]) [] 4 0 others ∧ flushing.mga.held = false ∧
    TableAgrees flushing ∧ (flushing.entry 12).state = .active ∧ (flushing.entry 12).role = .terminus ∧
    (flushing.run 12).context = some 3 ∧ (flushing.context 3).condition = .attached ∧ (flushing.entry 12).port = 2 ∧
    flushing.present 2 = true ∧ (flushing.egress 2).length + (flushing.context 3).heldCells.length ≤ 512 ∧
    Far flushing [.stream 12 StreamCounter.delivered.id] ∧ Silent flushing srcOvercommit := by
  and_intros <;> first
    | decide +kernel | exact serves_of (by decide +kernel) | exact silent_of (by decide +kernel) | exact far_of (by decide +kernel)
    | exact agrees_set agrees_bench 12 rfl

/-- An ACTIVE origin asked to suspend, with so many copies queued. -/
def suspending (queued : Nat) : State := toState (origin.setRun 10 { origin.run 10 with queued := queued }) 3

theorem witness_SuspendFlushesOrDrains_origin : Serves (suspending 1) .streamState (ask 5 [10, 3]) [] 4 0 others ∧
    (suspending 1).mga.held = false ∧ TableAgrees (suspending 1) ∧ Silent (suspending 1) srcOvercommit ∧
    ((suspending 1).entry 10).state = .active ∧ ((suspending 1).entry 10).role = .origin ∧ (suspending 1).mga.drain = none ∧
    ((suspending 1).run 10).queued ≠ 0 ∧ ((suspending 0).run 10).queued = 0 ∧
    Serves (suspending 0) .streamState (ask 5 [10, 3]) [] 4 0 others ∧ Calm (suspending 1) [.station StationCounter.mgmtBusy.id] := by
  and_intros <;> first
    | decide +kernel | exact serves_of (by decide +kernel) | exact silent_of (by decide +kernel) | exact calm_of (by decide +kernel)
    | exact agrees_set agrees_bench 10 rfl

/-- The same request while stream 11 drains. -/
def suspendingBusy : State :=
  (suspending 1).setMga { (suspending 1).mga with
    drain := some { stream := 11, tag := 1, command := 5, source := 7, ticks := 9, purged := 0 } }

theorem witness_SuspendFlushesOrDrains_busy : Serves suspendingBusy .streamState (ask 5 [10, 3]) [] 4 0 others ∧
    suspendingBusy.mga.held = false ∧ TableAgrees suspendingBusy ∧ Silent suspendingBusy srcOvercommit ∧
    (suspendingBusy.entry 10).state = .active ∧ (suspendingBusy.entry 10).role = .origin ∧
    suspendingBusy.mga.drain = some { stream := 11, tag := 1, command := 5, source := 7, ticks := 9, purged := 0 } ∧
    Calm suspendingBusy [.station StationCounter.mgmtBusy.id] := by
  and_intros <;> first
    | decide +kernel | exact serves_of (by decide +kernel) | exact silent_of (by decide +kernel) | exact calm_of (by decide +kernel)
    | exact agrees_set agrees_bench 10 rfl


/-! ### Witnesses: reports and counters -/

/-- Context 63 attached, its check disagreeing. -/
def unsealed (s : State) : State := s.setContext 63 { Context.cleared with condition := .attached, checkAgrees := false }

theorem witness_ContextReadAnswers : Serves (asked wide 6 [3]) .contextRead (ask 6 [3]) [] 4 0 others ∧
    byteAt (ask 6 [3]).payload 3 = 1 ∧ byteAt (ask 6 [3]).payload 4 = byte (3 : ContextId).val ∧
    ((asked wide 6 [3]).context 3).checkAgrees = true ∧
    Serves (unsealed (held (asked bench 6 [63]))) .contextRead (ask 6 [63]) [] 4 0 others ∧
    ((unsealed (held (asked bench 6 [63]))).context 63).checkAgrees = false ∧
    ((unsealed (held (asked bench 6 [63]))).source srcFault).flag = true ∧
    Serves (unsealed (asked bench 6 [63])) .contextRead (ask 6 [63]) [] 4 0 others ∧
    (unsealed (asked bench 6 [63])).mga.held = false :=
  ⟨serves_of (by decide +kernel), by decide +kernel, by decide +kernel, by decide +kernel, serves_of (by decide +kernel),
    by decide +kernel, by decide +kernel, serves_of (by decide +kernel), by decide +kernel⟩

theorem witness_LaneReadAnswers : Serves (asked bench 7 [2]) .laneRead (ask 7 [2]) [] 4 0 others ∧
    byteAt (ask 7 [2]).payload 3 = 1 ∧ byteAt (ask 7 [2]).payload 4 = byte (laneCode .c) :=
  ⟨serves_of (by decide +kernel), by decide +kernel, by decide +kernel⟩

/-- Lane B's TX_FILL one past the half mark (the manual's worked example of chapter 9). -/
def counted : State :=
  (bench.setCounter (.lane .b 7) { value := 1200000, overflow := false }).setCounter (.lane .b 8)
    { value := 2147483648, overflow := true }

theorem witness_CounterRequests : Serves (asked counted 8 [1, 1, 7, 2, 1]) .counterRead (ask 8 [1, 1, 7, 2, 1]) [] 4 0 others ∧
    byteAt (ask 8 [1, 1, 7, 2, 1]).payload 3 = 5 ∧ counted.mga.held = false ∧
    Serves (asked counted 8 [4, 0, 0, 1, 0]) .counterRead (ask 8 [4, 0, 0, 1, 0]) [] 4 0 others ∧
    (byteAt (ask 8 [4, 0, 0, 1, 0]).payload 4).toNat = 4 ∧ Silent (asked counted 8 [4, 0, 0, 1, 0]) srcMgmtError ∧
    Serves (asked counted 8 [1, 3, 0, 1, 0]) .counterRead (ask 8 [1, 3, 0, 1, 0]) [] 4 0 others ∧
    (byteAt (ask 8 [1, 3, 0, 1, 0]).payload 5).toNat = 3 ∧ (held counted).mga.held = true :=
  ⟨serves_of (by decide +kernel), by decide +kernel, by decide +kernel, serves_of (by decide +kernel), by decide +kernel,
    silent_of (by decide +kernel), serves_of (by decide +kernel), by decide +kernel, by decide +kernel⟩

theorem witness_CounterRequests_clear : Serves (asked counted 9 [1, 0, 2]) .counterClear (ask 9 [1, 0, 2]) [] 4 0 others ∧
    byteAt (ask 9 [1, 0, 2]).payload 3 = 3 ∧ counted.mga.held = false ∧
    Serves (asked counted 9 [1, 2, 1]) .counterClear (ask 9 [1, 2, 1]) [] 4 0 others ∧
    Serves (asked counted 9 [1, 0, 3]) .counterClear (ask 9 [1, 0, 3]) [] 4 0 others ∧
    Silent (asked counted 9 [1, 0, 3]) srcMgmtError ∧
    Serves (asked counted 9 [4, 0, 0]) .counterClear (ask 9 [4, 0, 0]) [] 4 0 others ∧
    Serves (held (asked counted 9 [1, 0, 2])) .counterClear (ask 9 [1, 0, 2]) [] 4 0 others :=
  ⟨serves_of (by decide +kernel), by decide +kernel, by decide +kernel, serves_of (by decide +kernel),
    serves_of (by decide +kernel), silent_of (by decide +kernel), serves_of (by decide +kernel), serves_of (by decide +kernel)⟩

theorem witness_PostureRequests : Serves (asked bench 10 [2]) .postureSet (ask 10 [2]) [] 4 0 others ∧
    Serves (asked bench 10 [3]) .postureSet (ask 10 [3]) [] 4 0 others ∧ Silent (asked bench 10 [3]) srcMgmtError ∧
    bench.mga.held = false ∧ (byteAt (ask 10 [2]).payload 4).toNat = BasePosture.warning.code ∧
    Serves (asked bench 10 [0]) .postureSet (ask 10 [0]) [] 4 0 others ∧ bench.psc.base = .clear ∧
    PostureDerived (asked bench 10 [0]) ∧ TableAgrees (asked bench 10 [2]) ∧ Silent (asked bench 10 [2]) srcPosture ∧
    Silent (asked bench 10 [2]) srcOvercommit ∧ Serves (asked bench 11 []) .strikeTest (ask 11 []) [] 4 0 others ∧
    TableAgrees (asked bench 11 []) ∧ Silent (asked bench 11 []) srcStrike ∧ Silent (asked bench 11 []) srcPosture ∧
    Silent (asked bench 11 []) srcOvercommit :=
  ⟨serves_of (by decide +kernel), serves_of (by decide +kernel), silent_of (by decide +kernel), by decide +kernel,
    by decide +kernel, serves_of (by decide +kernel), by decide +kernel, by unfold PostureDerived; decide +kernel, agrees_bench,
    silent_of (by decide +kernel), silent_of (by decide +kernel), serves_of (by decide +kernel), agrees_bench,
    silent_of (by decide +kernel), silent_of (by decide +kernel), silent_of (by decide +kernel)⟩

/-! ### Witnesses: events -/

/-- LANE_B_STATE at level 3 and POSTURE at level 4 pending under floor 4 (the worked example of chapter 10). -/
def pendingTwo : State :=
  let s := bench.setSource 2 { level := 3, flag := true, repeats := 0, detail := .none }
  (s.setSource 8 { level := 4, flag := true, repeats := 1, detail := .none }).setFloor 4

theorem witness_EventReadAndClear : Serves (asked pendingTwo 12 []) .eventRead (ask 12 []) [] 4 0 others ∧
    byteAt (ask 12 []).payload 3 = 0 ∧ Serves (asked pendingTwo 12 [0]) .eventRead (ask 12 [0]) [] 4 0 others ∧
    Silent (asked pendingTwo 12 [0]) srcMgmtError ∧
    Serves (asked pendingTwo 13 [0x7F, 0xFF, 0xFF]) .eventClear (ask 13 [0x7F, 0xFF, 0xFF]) [] 4 0 others ∧
    ((0x7FFFFF : Nat).testBit 23 = false) ∧ ((0x800000 : Nat).testBit 23 = true) ∧ pendingTwo.mga.held = false ∧
    Serves (asked pendingTwo 13 [0x80, 0, 0]) .eventClear (ask 13 [0x80, 0, 0]) [] 4 0 others ∧
    Serves (held (asked pendingTwo 13 [0, 0, 1])) .eventClear (ask 13 [0, 0, 1]) [] 4 0 others ∧
    Silent (held (asked pendingTwo 13 [0, 0, 1])) srcMgmtError :=
  ⟨serves_of (by decide +kernel), by decide +kernel, serves_of (by decide +kernel), silent_of (by decide +kernel),
    serves_of (by decide +kernel), by decide +kernel, by decide +kernel, by decide +kernel, serves_of (by decide +kernel),
    serves_of (by decide +kernel), silent_of (by decide +kernel)⟩

theorem witness_FloorAndLevels : Serves (asked pendingTwo 15 [7]) .floorSet (ask 15 [7]) [] 4 0 others ∧
    byteAt (ask 15 [7]).payload 3 = 1 ∧ pendingTwo.mga.held = false ∧
    (∀ i, i ≠ srcFault → (pendingTwo.source i).flag = true → (pendingTwo.source i).level ≤ min 7 6) ∧
    Serves (asked pendingTwo 15 []) .floorSet (ask 15 []) [] 4 0 others ∧ Silent (asked pendingTwo 15 []) srcMgmtError ∧
    Serves (asked pendingTwo 14 [0, 3, 22, 7]) .eventLevels (ask 14 [0, 3, 22, 7]) [] 4 0 others ∧
    bytePairs [0, 3, 22, 7] = [(0, 3), (22, 7)] ∧
    (∀ i, i ≠ srcFault → (pendingTwo.source i).flag = true → (pendingTwo.source i).level ≤ pendingTwo.evu.floor) ∧
    Serves (asked pendingTwo 14 [23, 0]) .eventLevels (ask 14 [23, 0]) [] 4 0 others ∧
    Silent (asked pendingTwo 14 [23, 0]) srcMgmtError :=
  ⟨serves_of (by decide +kernel), by decide +kernel, by decide +kernel, by decide +kernel, serves_of (by decide +kernel),
    silent_of (by decide +kernel), serves_of (by decide +kernel), by decide +kernel, by decide +kernel,
    serves_of (by decide +kernel), silent_of (by decide +kernel)⟩

theorem witness_FloorAndLevels_notice :
    Serves (asked pendingTwo 15 [3]) .floorSet (ask 15 [3]) [] 4 0 (1 :: List.range' 2 8190) ∧ pendingTwo.mga.held = false ∧
    byteAt (ask 15 [3]).payload 3 = 1 ∧ pendingTwo.bfm.freeCount ≠ 513 ∧ 1 < pendingTwo.bfm.freeCount ∧
    (pendingTwo.egress 4).length < 511 ∧ Calm (asked pendingTwo 15 [3]) [.station StationCounter.notices.id] ∧
    (8 : Source) ≠ srcFault ∧ (pendingTwo.source srcFault).flag = false ∧ (pendingTwo.source 8).flag = true ∧
    (byteAt (ask 15 [3]).payload 4).toNat < (pendingTwo.source 8).level ∧ (pendingTwo.source 8).level ≤ 6 ∧
    (∀ j, j ≠ 8 → (pendingTwo.source j).flag = true →
      (pendingTwo.source j).level < (pendingTwo.source 8).level ∨
        ((pendingTwo.source j).level = (pendingTwo.source 8).level ∧ 8 < j)) :=
  ⟨others_cons ▸ serves_of (by decide +kernel), by decide +kernel, by decide +kernel, by decide +kernel, by decide +kernel,
    by decide +kernel, calm_of (by decide +kernel), by decide +kernel⟩

/-- LANE_B_STATE raised to the clamped level 6, over floor 4 and over POSTURE. -/
theorem witness_FloorAndLevels_raised :
    Serves (asked pendingTwo 14 [2, 7, 0, 3]) .eventLevels (ask 14 [2, 7, 0, 3]) [] 4 0 (1 :: List.range' 2 8190) ∧
    bytePairs [2, 7, 0, 3] = [(2, 7), (0, 3)] ∧ pendingTwo.bfm.freeCount ≠ 513 ∧ 1 < pendingTwo.bfm.freeCount ∧
    Calm (asked pendingTwo 14 [2, 7, 0, 3]) [.station StationCounter.notices.id] ∧ (pendingTwo.source 2).flag = true ∧
    pendingTwo.evu.floor < min 7 6 ∧ (pendingTwo.source 8).level < min 7 6 ∧
    (∀ j, j ≠ 2 → j ≠ 8 → (pendingTwo.source j).flag = false) :=
  ⟨others_cons ▸ serves_of (by decide +kernel), by decide +kernel, by decide +kernel, by decide +kernel, calm_of (by decide +kernel),
    by decide +kernel, by decide +kernel, by decide +kernel, by decide +kernel⟩

/-- EXPORT SET of channel 3 to EXPORT_DONE_3's source 20, the last port counter, 27 items, WALK, count 0. -/
def setting (source : Byte) : List Byte := [3, source, 2, 0, 63, 27, 1, 0, 0]

theorem witness_ExportSetAndRead : Serves (asked bench 16 (setting 22)) .exportSet (ask 16 (setting 22)) [] 4 0 others ∧
    byteAt (ask 16 (setting 22)).payload 3 = 9 ∧ bench.mga.held = false ∧
    Serves (asked bench 16 (setting 254)) .exportSet (ask 16 (setting 254)) [] 4 0 others ∧
    Serves (asked bench 16 (setting 253)) .exportSet (ask 16 (setting 253)) [] 4 0 others ∧
    Silent (asked bench 16 (setting 253)) srcMgmtError ∧
    Serves (asked bench 16 [3, 255, 2, 0, 64, 1, 0, 0, 1]) .exportSet (ask 16 [3, 255, 2, 0, 64, 1, 0, 0, 1]) [] 4 0 others ∧
    Serves (held (asked bench 16 (setting 22))) .exportSet (ask 16 (setting 22)) [] 4 0 others ∧
    Silent (held (asked bench 16 (setting 22))) srcMgmtError ∧
    Serves (asked bench 18 [3]) .exportRead (ask 18 [3]) [] 4 0 others ∧ byteAt (ask 18 [3]).payload 3 = 1 ∧
    Serves (asked bench 18 [4]) .exportRead (ask 18 [4]) [] 4 0 others ∧ Silent (asked bench 18 [4]) srcMgmtError :=
  ⟨serves_of (by decide +kernel), by decide +kernel, by decide +kernel, serves_of (by decide +kernel),
    serves_of (by decide +kernel), silent_of (by decide +kernel), serves_of (by decide +kernel), serves_of (by decide +kernel),
    silent_of (by decide +kernel), serves_of (by decide +kernel), by decide +kernel, serves_of (by decide +kernel),
    silent_of (by decide +kernel)⟩

/-- A pool with one buffer left. -/
def oneLeft (s : State) : State := s.setBfm { free := [0], freeCount := 1, pool := [] }

theorem witness_ExportStartFires : Serves (asked bench 17 [3]) .exportStart (ask 17 [3]) [] 4 0 others ∧
    bench.mga.held = false ∧ byteAt (ask 17 [3]).payload 4 = byte (3 : ChannelId).val ∧ (bench.channel 3).bound ≠ some .manual ∧
    Serves (asked (exporting true) 17 [3]) .exportStart (ask 17 [3]) [] 4 0 others ∧
    Calm (asked (exporting true) 17 [3]) [.station StationCounter.exportOverrun.id] ∧
    ((exporting true).channel 3).bound = some .manual ∧ ((exporting true).channel 3).firing = true ∧
    (oneLeft (asked (exporting false) 17 [3])).bfm.freeCount = 1 ∧ Grants (oneLeft (asked (exporting false) 17 [3])) 0 0 [] ∧
    Serves (asked (exporting false) 17 [3]) .exportStart (ask 17 [3]) [] 4 0 (1 :: List.range' 2 8190) ∧
    2 ≤ ((exporting false).channel 3).remaining ∧ bench.bfm.freeCount ≠ 513 ∧ ((exporting false).egress 4).length < 511 :=
  ⟨serves_of (by decide +kernel), by decide +kernel, by decide +kernel, by decide +kernel, serves_of (by decide +kernel),
    calm_of (by decide +kernel), by decide +kernel, by decide +kernel, by decide +kernel, ⟨rfl, by decide +kernel, by decide +kernel⟩,
    others_cons ▸ serves_of (by decide +kernel), by decide +kernel, by decide +kernel, by decide +kernel⟩

/-! ### Witnesses: the station and its restart -/

/-- Every setting written beyond its range, but the controller port, which is 2. -/
def settings : List Byte :=
  items [(1, 2), (2, 0), (3, 20001), (4, 65535), (5, 0), (6, 20000), (7, 256), (8, 16), (9, 0), (10, 255), (11, 1001)]

theorem witness_StationRequests : Serves (asked bench 19 []) .stationRead (ask 19 []) [] 4 0 others ∧
    byteAt (ask 19 []).payload 3 = 0 ∧ Serves (asked bench 19 [0]) .stationRead (ask 19 [0]) [] 4 0 others ∧
    Silent (asked bench 19 [0]) srcMgmtError ∧ Serves (asked bench 20 settings) .stationWrite (ask 20 settings) [] 4 0 others ∧
    bench.mga.held = false ∧ (byteAt (ask 20 settings).payload 3).toNat = 33 ∧
    (∀ x ∈ threeByteItems settings, 1 ≤ x.1 ∧ x.1 ≤ 11) ∧ ((threeByteItems settings).map Prod.fst).Nodup ∧
    Reaches (bench.setMga { bench.mga with settings := { bench.mga.settings with controllerPort := some 2 } }) 2 ∧
    Serves (asked bench 20 (items [(1, 8)])) .stationWrite (ask 20 (items [(1, 8)])) [] 4 0 others ∧
    Silent (asked bench 20 (items [(1, 8)])) srcMgmtError :=
  ⟨serves_of (by decide +kernel), by decide +kernel, serves_of (by decide +kernel), silent_of (by decide +kernel),
    serves_of (by decide +kernel), by decide +kernel, by decide +kernel, by decide +kernel, by decide +kernel,
    reaches_of (by decide +kernel), serves_of (by decide +kernel), silent_of (by decide +kernel)⟩

theorem witness_RestartBegins : Serves (asked (draining wide 5) 21 []) .restart (ask 21 []) [] 4 0 others ∧
    byteAt (ask 21 []).payload 3 = 0 ∧ Serves (asked bench 21 [1]) .restart (ask 21 [1]) [] 4 0 others ∧
    byteAt (ask 21 [1]).payload 3 = 1 ∧ Silent (asked bench 21 [1]) srcMgmtError :=
  ⟨serves_of (by decide +kernel), by decide +kernel, serves_of (by decide +kernel), by decide +kernel, silent_of (by decide +kernel)⟩

/-- The tag, command and source of a RESTART. -/
def ticket : RestartTicket := { tag := 0x31, command := 21, source := 7 }

/-- A warm restart in progress. -/
def restarted (s : State) : State := s.setMga { s.mga with restart := .inProgress ticket }

theorem witness_RestartFreezes : (restarted wide).restarting = true ∧
    (∀ l, Calm (restarted wide) [.lane l LaneCounter.txFill.id]) ∧ (arriving 0).length = 128 ∧ (trib 1 10 []).length = 124 ∧
    (restarted wide).mga.drain = none ∧ ((restarted wide).context 3).heldCells = [] :=
  ⟨by decide +kernel, fun l => by cases l <;> exact calm_of (by decide +kernel), by decide +kernel⟩

/-- Beside the pooled attached context 3, context 4 attached and pinned, context 5 reserved. -/
def threeContexts : State :=
  ((restarted wide).setContext 4 { wide.context 3 with owner := some 13, pinned := true, skew := true, raw := 900 }).setContext 5
    (.reservedTo 14)

theorem witness_RestartCompletes : threeContexts.mga.restart = .inProgress ticket ∧ (threeContexts.context 0).condition = .free ∧
    (threeContexts.context 5).condition = .reserved ∧ (threeContexts.context 3).condition = .attached ∧
    (threeContexts.context 3).pinned = false ∧ (threeContexts.context 4).condition = .attached ∧
    (threeContexts.context 4).pinned = true := by decide +kernel

/-- The response to a RESTART waiting. -/
def waiting (s : State) : State := s.setMga { s.mga with restart := .waiting ticket }

theorem witness_RestartResponds : (waiting bench).mga.restart = .waiting ticket ∧ ticket.source = controllerAddress ∧
    Reaches (waiting bench) 4 ∧ Grants (waiting bench) 0 0 others ∧
    ((waiting bench).setEgress 4 (List.replicate 512 (.control 0))).routeReady = false ∧
    ((waiting bench).setBfm { bench.bfm with freeCount := 0 }).bfm.freeCount = 0 ∧ bench.mga.restart = .idle :=
  ⟨by decide +kernel, by decide +kernel, reaches_of (by decide +kernel), grants_of (by decide +kernel), by decide +kernel,
    by decide +kernel, by decide +kernel⟩

/-! ### Witnesses: the invariants -/

/-- The bench meets the invariants, and a step of it leaves a state. -/
theorem witness_EveryStepKeepsStores : QueuesWithin bench ∧ PoolCanonical bench ∧ step bench = .next (idle bench) := by
  refine ⟨⟨by decide +kernel, ?_, ?_, by decide +kernel, by decide +kernel⟩, rfl, rfl⟩
  · intro l; cases l <;> decide +kernel
  · intro l; cases l <;> decide +kernel

theorem witness_EveryStepKeepsLevels : FloorCovers pendingTwo ∧ step pendingTwo = .next (idle pendingTwo) :=
  ⟨by unfold FloorCovers; decide +kernel, rfl⟩

theorem witness_EveryStepKeepsLevels_buckets : BucketsWithin bench ∧ step bench = .next (idle bench) :=
  ⟨fun n => by rw [run_bench]; exact Nat.zero_le _, rfl⟩

theorem witness_EveryStepKeepsDerived : PostureDerived bench ∧ ViewsDerived bench ∧ step bench = .next (idle bench) := by
  refine ⟨by unfold PostureDerived; decide +kernel, ?_, rfl⟩
  intro l
  cases l <;> decide +kernel

/-- A response that the full egress FIFO of the controller port refuses lets its buffer go, and a count already at zero is POOL_CHECK
(R10, R138, R160). -/
theorem test_refused_response_checks_the_pool :
    let t := routeResponse 7 0 (buffer (bench.setEgress 4 (List.replicate 512 (.control 1))) 0 0 Cell.empty)
    t.mga.held = true ∧ t.mga.faultCause = some .poolCheck ∧ t.mga.faultIndex = 0 := by decide +kernel

end Sys2Proof.Tests
end

section
/-! COUNTER READ and COUNTER CLEAR (R146, R147): which counters a range names, what clearing a list of counters does, what each
request decides by its checks, and the statement about both. -/

namespace Sys2Proof.Machine

open Safety

/-! ### Object kinds and the names of counters (section 9.1) -/

theorem objectsOf_eq (kind : ObjectKind) : objectsOf kind = (kind.objects, kind.perObject) := by cases kind <;> rfl

@[simp] theorem ObjectKind.ofCode_code (kind : ObjectKind) : ObjectKind.ofCode kind.code = some kind := by cases kind <;> rfl

theorem ObjectKind.ofCode_eq_none {c : Nat} (h : 3 < c) : ObjectKind.ofCode c = none := by
  obtain ⟨k, rfl⟩ := Nat.exists_eq_add_of_lt h
  rw [show 3 + k + 1 = k + 4 by omega]
  rfl

@[simp] theorem laneOfCode_laneCode (l : Lane) : laneOfCode (laneCode l) = some l := by cases l <;> rfl

theorem laneCode_of_laneOfCode {c : Nat} {l : Lane} (h : laneOfCode c = some l) : laneCode l = c := by
  unfold laneOfCode at h
  split at h <;> cases h <;> rfl

theorem exists_laneOfCode {c : Nat} (h : c < 3) : ∃ l, laneOfCode c = some l := by
  interval_cases c
  · exact ⟨.a, rfl⟩
  · exact ⟨.b, rfl⟩
  · exact ⟨.c, rfl⟩

namespace CounterRef

@[simp] theorem of_self (q : CounterRef) : CounterRef.of q.kind q.index q.id = some q := by
  cases q <;> simp [CounterRef.of, kind, index, id]

theorem eq_of_of {k : ObjectKind} {i j : Nat} {q : CounterRef} (h : CounterRef.of k i j = some q) :
    q.kind = k ∧ q.index = i ∧ q.id = j := by
  cases k with
  | stream =>
    obtain ⟨_, ⟨⟩⟩ := Option.dite_none_right_eq_some.mp h
    exact ⟨rfl, rfl, rfl⟩
  | lane =>
    simp only [CounterRef.of] at h
    split at h
    · next l hl =>
      obtain ⟨_, ⟨⟩⟩ := Option.dite_none_right_eq_some.mp h
      exact ⟨rfl, laneCode_of_laneOfCode hl, rfl⟩
    · cases h
  | port =>
    obtain ⟨_, ⟨⟩⟩ := Option.dite_none_right_eq_some.mp h
    exact ⟨rfl, rfl, rfl⟩
  | station =>
    obtain ⟨⟨rfl, _⟩, ⟨⟩⟩ := Option.dite_none_right_eq_some.mp h
    exact ⟨rfl, rfl, rfl⟩

theorem of_eq_some_iff {k : ObjectKind} {i j : Nat} {q : CounterRef} :
    CounterRef.of k i j = some q ↔ q.kind = k ∧ q.index = i ∧ q.id = j := by
  refine ⟨eq_of_of, ?_⟩
  rintro ⟨rfl, rfl, rfl⟩
  exact of_self q

theorem exists_of {k : ObjectKind} {i j : Nat} (hi : i < k.objects) (hj : j < k.perObject) : ∃ q, CounterRef.of k i j = some q := by
  cases k with
  | stream => exact ⟨_, dif_pos ⟨hi, hj⟩⟩
  | lane =>
    obtain ⟨l, hl⟩ := exists_laneOfCode hi
    exact ⟨.lane l ⟨j, hj⟩, by simp only [CounterRef.of, hl]; exact dif_pos hj⟩
  | port => exact ⟨_, dif_pos ⟨hi, hj⟩⟩
  | station => exact ⟨_, dif_pos ⟨Nat.lt_one_iff.mp hi, hj⟩⟩

theorem id_lt (q : CounterRef) : q.id < q.kind.perObject := by
  cases q <;> exact Fin.isLt _

end CounterRef

/-! ### The counters of a range -/

theorem mem_counterRefs {kind : ObjectKind} {index first count : Nat} {q : CounterRef} :
    q ∈ counterRefs kind index first count ↔ q.kind = kind ∧ q.index = index ∧ first ≤ q.id ∧ q.id < first + count := by
  simp only [counterRefs, List.mem_filterMap, List.mem_range, CounterRef.of_eq_some_iff]
  constructor
  · rintro ⟨k, hk, hkind, hindex, hid⟩
    exact ⟨hkind, hindex, by omega, by omega⟩
  · rintro ⟨hkind, hindex, hfirst, hlast⟩
    exact ⟨q.id - first, by omega, hkind, hindex, by omega⟩

theorem mem_objectRefs {kind : ObjectKind} {first last : Nat} {q : CounterRef} :
    q ∈ objectRefs kind first last ↔ q.kind = kind ∧ first ≤ q.index ∧ q.index ≤ last := by
  simp only [objectRefs, List.mem_flatMap, List.mem_range'_1, mem_counterRefs]
  constructor
  · rintro ⟨i, hi, hkind, hindex, -, -⟩
    exact ⟨hkind, by omega, by omega⟩
  · rintro ⟨rfl, hfirst, hlast⟩
    exact ⟨q.index, by omega, rfl, rfl, Nat.zero_le _, by simpa using q.id_lt⟩

/-- Read out in order, a range within an object gives the counters that its ids name. -/
theorem map_counter_counterRefs {kind : ObjectKind} {index first count : Nat} (hi : index < kind.objects)
    (hc : first + count ≤ kind.perObject) (s : State) :
    (counterRefs kind index first count).map s.counter =
      (List.range count).map (fun k => counterNamed s kind index (first + k)) := by
  rw [counterRefs, List.map_filterMap, ← List.filterMap_eq_map]
  refine List.filterMap_congr fun k hk => ?_
  have hk := List.mem_range.mp hk
  obtain ⟨q, hq⟩ := CounterRef.exists_of (k := kind) hi (j := first + k) (by omega)
  simp [counterNamed, hq]

theorem overflowBits_map_range (f : Nat → Counter) (n : Nat) :
    overflowBits ((List.range n).map f) = ((List.range n).map (fun k => if (f k).overflow then 2 ^ k else 0)).sum := by
  unfold overflowBits
  congr 1
  exact List.ext_getElem (by simp) (by simp [flagBit])

/-! ### Clearing a list of counters -/

theorem clearCounters_cons (r : CounterRef) (rs : List CounterRef) (s : State) :
    clearCounters (r :: rs) s = clearCounters rs (s.setCounter r .zero) := rfl

theorem counter_clearCounters (rs : List CounterRef) (s : State) (q : CounterRef) :
    (clearCounters rs s).counter q = if q ∈ rs then .zero else s.counter q := by
  induction rs generalizing s with
  | nil => rfl
  | cons r rs ih =>
    rw [clearCounters_cons, ih, State.counter_setCounter]
    by_cases hr : q = r <;> simp [hr]

/-- `t` is `s` but for its counters. -/
def OnlyCounters (s t : State) : Prop := t = { s with cnt := t.cnt }

theorem OnlyCounters.refl (s : State) : OnlyCounters s s := rfl

theorem setCounter_only (s : State) (r : CounterRef) (x : Counter) : OnlyCounters s (s.setCounter r x) := by
  cases r <;> rfl

theorem OnlyCounters.trans {s t u : State} (h : OnlyCounters s t) (k : OnlyCounters t u) : OnlyCounters s u := by
  unfold OnlyCounters at *
  rw [k, h]

theorem clearCounters_only (rs : List CounterRef) (s : State) : OnlyCounters s (clearCounters rs s) := by
  induction rs generalizing s with
  | nil => exact .refl s
  | cons r rs ih => exact clearCounters_cons r rs s ▸ (setCounter_only s r .zero).trans (ih _)

@[simp] theorem granted_mga (b : Nat) (bs : List Nat) (refs : Nat) (cell : Cell) (s : State) :
    (granted b bs refs cell s).mga = s.mga := rfl

theorem setCounter_granted (b : Nat) (bs : List Nat) (refs : Nat) (cell : Cell) (r : CounterRef) (x : Counter) (s : State) :
    (granted b bs refs cell s).setCounter r x = granted b bs refs cell (s.setCounter r x) := by
  cases r <;> rfl

/-- The counters are cleared alike before the response buffer is taken and after it. -/
theorem clearCounters_granted (rs : List CounterRef) (b : Nat) (bs : List Nat) (refs : Nat) (cell : Cell) (s : State) :
    clearCounters rs (granted b bs refs cell s) = granted b bs refs cell (clearCounters rs s) := by
  induction rs generalizing s with
  | nil => rfl
  | cons r rs ih =>
    rw [clearCounters_cons, setCounter_granted, ih, clearCounters_cons]

/-! ### What a request decides -/

section Decides

variable {payload : List Byte} {kind : ObjectKind} {s : State}

theorem requestArgLength_eq_iff {n : Byte} : requestArgLength payload = n.toNat ↔ byteAt payload 3 = n := BitVec.toNat_inj

/-- Check 1 of R146: the argument length and the object kind. -/
theorem decideCounterRead_wrong_head (h : requestArgLength payload ≠ 5 ∨ 3 < requestArg payload 0) :
    decideCounterRead payload s = answer .badArgument [] s := by
  unfold decideCounterRead
  rcases h with hl | hk
  · split
    · rfl
    · rw [if_neg fun ⟨h5, _⟩ => hl h5]
  · rw [ObjectKind.ofCode_eq_none hk]

/-- Check 1 of R146: the object, the range and the clear flag. -/
theorem decideCounterRead_wrong_range (hk : kind.code = requestArg payload 0)
    (h : ¬ counterRangeOk kind (requestArg payload 1) (requestArg payload 2) (requestArg payload 3) (requestArg payload 4) = true) :
    decideCounterRead payload s = answer .badArgument [] s := by
  unfold decideCounterRead
  rw [← hk, ObjectKind.ofCode_code]
  exact if_neg fun ⟨_, hok⟩ => h hok

theorem decideCounterRead_reads (hl : requestArgLength payload = 5) (hk : kind.code = requestArg payload 0)
    (h : counterRangeOk kind (requestArg payload 1) (requestArg payload 2) (requestArg payload 3) (requestArg payload 4) = true) :
    decideCounterRead payload s =
      readCounters kind (requestArg payload 1) (requestArg payload 2) (requestArg payload 3) (requestArg payload 4 == 1) s := by
  unfold decideCounterRead
  rw [← hk, ObjectKind.ofCode_code]
  exact if_pos ⟨hl, h⟩

theorem counterRangeOk_iff {index first count clear : Nat} :
    counterRangeOk kind index first count clear = true ↔
      ¬ ((objectsOf kind).1 ≤ index ∨ count = 0 ∨ 25 < count ∨ (objectsOf kind).2 < first + count ∨ 1 < clear) := by
  simp only [counterRangeOk, objectsOf_eq, Bool.and_eq_true, decide_eq_true_eq]
  omega

theorem counterRangeOk_bounds {index first count clear : Nat} (h : counterRangeOk kind index first count clear = true) :
    index < kind.objects ∧ first + count ≤ kind.perObject := by
  simp only [counterRangeOk, Bool.and_eq_true, decide_eq_true_eq] at h
  omega

/-- Check 2 of R146. -/
theorem readCounters_held (index first count : Nat) (h : s.mga.held = true) :
    readCounters kind index first count true s = answer .held [] s := by
  simp [readCounters, h]

/-- Check 1 of R147: the argument length and the object kind. -/
theorem decideCounterClear_wrong_head (h : requestArgLength payload ≠ 3 ∨ 3 < requestArg payload 0) :
    decideCounterClear payload s = answer .badArgument [] s := by
  unfold decideCounterClear
  rcases h with hl | hk
  · dsimp only
    split
    · rfl
    · rw [if_neg fun ⟨h3, _⟩ => hl h3]
  · rw [ObjectKind.ofCode_eq_none hk]

/-- Check 1 of R147: the range of objects. -/
theorem decideCounterClear_wrong_range (hk : kind.code = requestArg payload 0)
    (h : requestArg payload 2 < requestArg payload 1 ∨ (objectsOf kind).1 ≤ requestArg payload 2) :
    decideCounterClear payload s = answer .badArgument [] s := by
  rw [objectsOf_eq] at h
  unfold decideCounterClear
  rw [← hk, ObjectKind.ofCode_code]
  exact if_neg fun ⟨_, hrange, hobjects⟩ => by dsimp only at h; omega

/-- Checks 2 and 3 of R147. -/
theorem decideCounterClear_clears (hl : requestArgLength payload = 3) (hk : kind.code = requestArg payload 0)
    (hrange : requestArg payload 1 ≤ requestArg payload 2) (hobjects : requestArg payload 2 < (objectsOf kind).1) :
    decideCounterClear payload s =
      if s.mga.held then answer .held [] s
      else answer .ok (be16 ((requestArg payload 2 + 1 - requestArg payload 1) * (objectsOf kind).2))
        (clearCounters (objectRefs kind (requestArg payload 1) (requestArg payload 2)) s) := by
  rw [objectsOf_eq] at hobjects ⊢
  unfold decideCounterClear
  rw [← hk, ObjectKind.ofCode_code]
  exact if_pos ⟨hl, hrange, hobjects⟩

end Decides

/-! ### The service of a request whose effect is on counters alone -/

section Serves

variable {s : State} {step : Instr} {decide : Decide} {r : Request} {rest : List Request} {p : PortId} {b : Nat} {bs : List Nat}

theorem checked_of_serves (h : Serves s step r rest p b bs) (u : State) : checked decide r.payload u = decide r.payload u := by
  simp [checked, h.length]

/-- An answer without an effect: with an error status, MGMT_ERROR is all that a silent source leaves beside it (R162). -/
theorem serve_refuses {status : Status} (h : Serves s step r rest p b bs) (he : status.isError = true)
    (hs : Silent s srcMgmtError) (hd : ∀ u : State, u.mga = s.mga → decide r.payload u = answer status [] u) :
    serve step (checked decide) s = answered r rest p b bs status [] (flagged srcMgmtError s) := by
  have hd' := (checked_of_serves h (granted b bs 1 .empty s)).trans (hd _ rfl)
  rw [serve_answered h.toHeads hd' h.head h.reaches fun _ => hs, if_pos he]

/-- An answer OK whose effect is on counters alone. -/
theorem serve_counts {t : State} {result : List Byte} (h : Serves s step r rest p b bs) (ht : OnlyCounters s t)
    (hd : decide r.payload (granted b bs 1 .empty s) = answer .ok result (granted b bs 1 .empty t)) :
    serve step (checked decide) s = answered r rest p b bs .ok result t := by
  have hd' := (checked_of_serves h (granted b bs 1 .empty s)).trans hd
  have hmga : t.mga = s.mga := by rw [ht]
  have hpins : t.pins = s.pins := by rw [ht]
  have hdlv : t.dlv = s.dlv := by rw [ht]
  have hreach : Reaches t p :=
    { port := by rw [hmga]; exact h.reaches.port
      present := by simpa only [State.present, hpins] using h.reaches.present
      room := by simpa only [State.egress, hdlv] using h.reaches.room }
  rw [serve_answered h.toHeads hd' (by rw [hmga]; exact h.head) hreach (fun he => by cases he)]
  rfl

end Serves

/-! ### What a COUNTER READ answers and leaves (R146, check 3) -/

/-- The counters of the range at 0 when the clear flag is 1. -/
def afterRead (kind : ObjectKind) (index first count clear : Nat) (s : State) : State :=
  if clear = 1 then clearCounters (counterRefs kind index first count) s else s

theorem afterRead_only (kind : ObjectKind) (index first count clear : Nat) (s : State) :
    OnlyCounters s (afterRead kind index first count clear s) := by
  unfold afterRead
  split
  · exact clearCounters_only _ s
  · exact .refl s

theorem counter_afterRead (kind : ObjectKind) (index first count clear : Nat) (s : State) (q : CounterRef) :
    (afterRead kind index first count clear s).counter q =
      if clear = 1 ∧ q.kind = kind ∧ q.index = index ∧ first ≤ q.id ∧ q.id < first + count then .zero else s.counter q := by
  by_cases hc : clear = 1
  · simp [afterRead, hc, counter_clearCounters, mem_counterRefs]
  · simp [afterRead, hc]

/-- The values and overflow flags of the range are read in the state with the response buffer taken. -/
theorem readCounters_answers {kind : ObjectKind} {index first count clear : Nat} {s : State} (hi : index < kind.objects)
    (hc : first + count ≤ kind.perObject) (hheld : clear ≠ 1 ∨ s.mga.held = false) (b : Nat) (bs : List Nat) :
    readCounters kind index first count (clear == 1) (granted b bs 1 .empty s) =
      answer .ok
        ([byte kind.code, byte index, byte first, byte count] ++
          ((List.range count).map (fun k => be32 (counterNamed s kind index (first + k)).value.toNat)).flatten ++
          be32 ((List.range count).map (fun k => if (counterNamed s kind index (first + k)).overflow then 2 ^ k else 0)).sum)
        (granted b bs 1 .empty (afterRead kind index first count clear s)) := by
  have hg : ¬ (clear == 1 && (granted b bs 1 .empty s).mga.held) = true := by
    rcases hheld with h | h <;> simp [h]
  have hx : (counterRefs kind index first count).map (granted b bs 1 .empty s).counter =
      (List.range count).map (fun k => counterNamed s kind index (first + k)) :=
    map_counter_counterRefs hi hc s
  have ht : (if clear == 1 then clearCounters (counterRefs kind index first count) (granted b bs 1 .empty s)
      else granted b bs 1 .empty s) = granted b bs 1 .empty (afterRead kind index first count clear s) := by
    rw [clearCounters_granted]
    by_cases h : clear = 1 <;> simp [afterRead, h]
  unfold readCounters
  rw [if_neg hg]
  dsimp only
  rw [hx, ht, overflowBits_map_range, List.map_map]
  rfl

/-! ### The two requests -/

/-- Settles O46: each check of R146 and of R147 in its order, then the answer with what it leaves of the counters. -/
theorem counterRequests : Obligations.CounterRequests := by
  intro s r rest p b bs
  refine ⟨fun h => ⟨fun hbad hs => ?readHead, fun kind hl hk => ⟨fun hbad hs => ?readRange, fun hok hc hheld hs => ?readHeld,
      fun hok hheld => ?readAnswers⟩⟩,
    fun h => ⟨fun hbad hs => ?clearHead, fun kind hl hk => ⟨fun hbad hs => ?clearRange, fun hr ho hheld hs => ?clearHeld,
      fun hr ho hheld => ?clearAnswers⟩⟩⟩
  case readHead =>
    have hbad := hbad.imp_left (mt (requestArgLength_eq_iff (n := 5)).mp)
    exact congrArg _ (serve_refuses h rfl hs fun u _ => decideCounterRead_wrong_head hbad)
  case readRange =>
    have hbad := fun hok => counterRangeOk_iff.mp hok hbad
    exact congrArg _ (serve_refuses h rfl hs fun u _ => decideCounterRead_wrong_range hk hbad)
  case readHeld =>
    have hc : (requestArg r.payload 4 == 1) = true := beq_iff_eq.mpr hc
    have hread := fun u => decideCounterRead_reads (s := u) (requestArgLength_eq_iff.mpr hl) hk (counterRangeOk_iff.mpr hok)
    refine congrArg _ (serve_refuses h rfl hs fun u hu => ?_)
    rw [hread, hc, readCounters_held _ _ _ (by rw [hu]; exact hheld)]
  case readAnswers =>
    have hread := fun u => decideCounterRead_reads (s := u) (requestArgLength_eq_iff.mpr hl) hk (counterRangeOk_iff.mpr hok)
    obtain ⟨hi, hc⟩ := counterRangeOk_bounds (counterRangeOk_iff.mpr hok)
    have hheld : requestArg r.payload 4 ≠ 1 ∨ s.mga.held = false := hheld.imp_left fun h0 => ne_of_eq_of_ne h0 zero_ne_one
    rw [← hk]
    exact ⟨_, afterRead_only .., counter_afterRead kind _ _ _ _ s, congrArg _ (serve_counts h (afterRead_only ..)
      ((hread _).trans (readCounters_answers hi hc hheld b bs)))⟩
  case clearHead =>
    have hbad := hbad.imp_left (mt (requestArgLength_eq_iff (n := 3)).mp)
    exact congrArg _ (serve_refuses h rfl hs fun u _ => decideCounterClear_wrong_head hbad)
  case clearRange =>
    exact congrArg _ (serve_refuses h rfl hs fun u _ => decideCounterClear_wrong_range hk hbad)
  case clearHeld =>
    refine congrArg _ (serve_refuses h rfl hs fun u hu => ?_)
    rw [decideCounterClear_clears (requestArgLength_eq_iff.mpr hl) hk hr ho, if_pos (by rw [hu]; exact hheld)]
  case clearAnswers =>
    have hclear : decideCounterClear r.payload (granted b bs 1 .empty s) = _ :=
      (decideCounterClear_clears (requestArgLength_eq_iff.mpr hl) hk hr ho).trans (if_neg (by simpa using hheld))
    rw [clearCounters_granted] at hclear
    refine ⟨_, clearCounters_only _ s, fun q => ?_, congrArg _ (serve_counts h (clearCounters_only _ s) hclear)⟩
    simp only [counter_clearCounters, mem_objectRefs]
    rfl

end Sys2Proof.Machine
end

section
/-! EVENT READ and EVENT CLEAR (R153), EXPORT SET and EXPORT READ (R155): what clearing the named sources leaves, which codes name a
channel and a binding, what each request decides by its checks, and the two statements about them. -/

namespace Sys2Proof.Machine

open Safety

/-! ### The service of a request whose effect leaves the way back alone -/

/-- An answer OK after an effect that touches neither the agent, the pins nor the egress FIFOs. -/
theorem serve_succeeds {s t : State} {step : Instr} {decide : Decide} {r : Request} {rest : List Request} {p : PortId} {b : Nat}
    {bs : List Nat} {result : List Byte} (h : Serves s step r rest p b bs) (hmga : t.mga = s.mga) (hpins : t.pins = s.pins)
    (hdlv : t.dlv = s.dlv)
    (hd : decide r.payload (granted b bs 1 .empty s) = answer .ok result (granted b bs 1 .empty t)) :
    serve step (checked decide) s = answered r rest p b bs .ok result t := by
  have hreach : Reaches t p :=
    { port := by rw [hmga]; exact h.reaches.port
      present := by simpa only [State.present, hpins] using h.reaches.present
      room := by simpa only [State.egress, hdlv] using h.reaches.room }
  exact serve_answered h.toHeads ((checked_of_serves h _).trans hd) (by rw [hmga]; exact h.head) hreach nofun

/-! ### The sources of the Event Unit -/

theorem toList_eq_map_look {n : Nat} {α : Type} (x : Bank n α) : x.toList = (List.finRange n).map (Bank.look x) :=
  List.ext_getElem (by simp) (by simp [Bank.look])

/-- Level and repeat count of every source, in the order of their numbers (R153). -/
theorem sources_bytes (s : State) :
    s.evu.sources.toList.map SourceRecord.bytes =
      (List.finRange 23).map (fun i => [byte (s.source i).level] ++ be16 (s.source i).repeats) := by
  rw [toList_eq_map_look, List.map_map]
  rfl

/-- FAULT and the three lane states are the first four sources (section 10.1). -/
theorem clearedElsewhere_eq_false_iff (i : Source) : clearedElsewhere i = false ↔ 3 < i.val := by
  revert i
  decide

/-! ### Clearing the named sources (R153) -/

/-- `t` is `s` but for the sources of the Event Unit. -/
def OnlySources (s t : State) : Prop := t = { s with evu := { s.evu with sources := t.evu.sources } }

namespace OnlySources

variable {s t u : State}

theorem refl (s : State) : OnlySources s s := rfl

theorem trans (h : OnlySources s t) (k : OnlySources t u) : OnlySources s u := by
  unfold OnlySources at *
  rw [k, h]

theorem eventUnit (h : OnlySources s t) : t = { s with evu := t.evu } := by
  unfold OnlySources at h
  rw [h]

theorem floor (h : OnlySources s t) : t.evu.floor = s.evu.floor := by rw [h]

theorem channels (h : OnlySources s t) : t.evu.channels = s.evu.channels := by rw [h]

end OnlySources

theorem clearNamed_eq (set : Nat) (s : State) (i : Source) :
    clearNamed set s i = if set.testBit i.val = true ∧ 3 < i.val then clearSource i s else s := by
  simp [clearNamed, clearedElsewhere_eq_false_iff]

theorem clearNamed_only (set : Nat) (s : State) (i : Source) : OnlySources s (clearNamed set s i) := by
  rw [clearNamed_eq]
  split <;> rfl

theorem source_clearNamed (set : Nat) (s : State) (i j : Source) :
    (clearNamed set s i).source j =
      if j = i ∧ set.testBit j.val = true ∧ 3 < j.val then .quiet (s.source j).level else s.source j := by
  rw [clearNamed_eq]
  by_cases hj : j = i
  · subst hj
    split <;> simp [clearSource, *]
  · split <;> simp [clearSource, State.source_setSource, hj]

/-- The sources are cleared alike before the response buffer is taken and after it. -/
theorem clearNamed_granted (set b : Nat) (bs : List Nat) (refs : Nat) (cell : Cell) (s : State) (i : Source) :
    clearNamed set (granted b bs refs cell s) i = granted b bs refs cell (clearNamed set s i) := by
  rw [clearNamed_eq, clearNamed_eq]
  split <;> rfl

/-- The state after an EVENT CLEAR of the sources whose bits stand in `set`. -/
def afterEventClear (set : Nat) (s : State) : State := sourceIds.foldl (clearNamed set) s

theorem foldl_clearNamed_only (set : Nat) (is : List Source) (s : State) : OnlySources s (is.foldl (clearNamed set) s) := by
  induction is generalizing s with
  | nil => exact .refl s
  | cons i is ih => exact (clearNamed_only set s i).trans (ih _)

theorem source_foldl_clearNamed (set : Nat) (is : List Source) (s : State) (j : Source) :
    (is.foldl (clearNamed set) s).source j =
      if j ∈ is ∧ set.testBit j.val = true ∧ 3 < j.val then .quiet (s.source j).level else s.source j := by
  induction is generalizing s with
  | nil => simp
  | cons i is ih =>
    rw [List.foldl_cons, ih, source_clearNamed]
    by_cases hc : set.testBit j.val = true ∧ 3 < j.val
    · by_cases hi : j = i
      · simp [hi, hi ▸ hc, SourceRecord.quiet]
      · simp [hi]
    · simp [hc]

theorem source_afterEventClear (set : Nat) (s : State) (i : Source) :
    (afterEventClear set s).source i =
      if set.testBit i.val = true ∧ 3 < i.val then .quiet (s.source i).level else s.source i := by
  simp [afterEventClear, source_foldl_clearNamed, sourceIds]

theorem afterEventClear_granted (set b : Nat) (bs : List Nat) (refs : Nat) (cell : Cell) (s : State) :
    afterEventClear set (granted b bs refs cell s) = granted b bs refs cell (afterEventClear set s) :=
  List.foldl_hom _ (clearNamed_granted set b bs refs cell)

/-! ### What EVENT READ and EVENT CLEAR decide -/

section Decides

variable {payload : List Byte} {s : State}

theorem decideEventRead_wrong (h : requestArgLength payload ≠ 0) : decideEventRead payload s = answer .badArgument [] s := if_pos h

theorem decideEventRead_reads (h : requestArgLength payload = 0) : decideEventRead payload s = answer .ok s.eventReadResult s :=
  if_neg (not_not_intro h)

/-- The source set of an EVENT CLEAR, bit n for source n. -/
def namedSet (payload : List Byte) : Nat := requestArg payload 0 * 65536 + requestArg payload 1 * 256 + requestArg payload 2

theorem decideEventClear_wrong (h : requestArgLength payload ≠ 3 ∨ (namedSet payload).testBit 23 = true) :
    decideEventClear payload s = answer .badArgument [] s :=
  if_pos (by simpa [namedSet] using h)

theorem decideEventClear_clears (hl : requestArgLength payload = 3) (h23 : (namedSet payload).testBit 23 = false) :
    decideEventClear payload s =
      if s.mga.held then answer .held [] s
      else answer .ok (be24 (afterEventClear (namedSet payload) s).pendingSet) (afterEventClear (namedSet payload) s) :=
  if_neg (by rw [namedSet] at h23; simp [hl, h23])

end Decides

/-- Settles O48: the checks of EVENT READ and EVENT CLEAR in their order, then the answer with what it leaves of the sources. -/
theorem eventReadAndClear : Obligations.EventReadAndClear := by
  intro s r rest p b bs
  refine ⟨fun h => ⟨fun hl hs => ?readLength, fun hl => ?readAnswers⟩,
    fun h => ⟨fun hbad hs => ?clearWrong, fun hl h23 hheld hs => ?clearHeld, fun hl h23 hheld => ?clearAnswers⟩⟩
  case readLength =>
    exact congrArg _ (serve_refuses h rfl hs fun u _ => decideEventRead_wrong (mt (requestArgLength_eq_iff (n := 0)).mp hl))
  case readAnswers =>
    refine congrArg _ (serve_succeeds h rfl rfl rfl ((decideEventRead_reads (requestArgLength_eq_iff.mpr hl)).trans ?_))
    rw [← sources_bytes]
    rfl
  case clearWrong =>
    have hbad := hbad.imp_left (mt (requestArgLength_eq_iff (n := 3)).mp)
    exact congrArg _ (serve_refuses h rfl hs fun u _ => decideEventClear_wrong hbad)
  case clearHeld =>
    refine congrArg _ (serve_refuses h rfl hs fun u hu => ?_)
    rw [decideEventClear_clears (requestArgLength_eq_iff.mpr hl) h23, if_pos (by rw [hu]; exact hheld)]
  case clearAnswers =>
    have hclear : decideEventClear r.payload (granted b bs 1 .empty s) = _ :=
      (decideEventClear_clears (requestArgLength_eq_iff.mpr hl) h23).trans (if_neg (by simpa using hheld))
    rw [afterEventClear_granted] at hclear
    have honly : OnlySources s (afterEventClear (namedSet r.payload) s) := foldl_clearNamed_only _ _ s
    exact ⟨_, honly.eventUnit, honly.floor, honly.channels, source_afterEventClear _ s,
      congrArg _ (serve_succeeds h (by rw [honly]) (by rw [honly]) (by rw [honly]) hclear)⟩

/-! ### The codes of channels and bindings (R155) -/

@[simp] theorem channelOfByte_val (ch : ChannelId) : channelOfByte ch.val = some ch := dif_pos ch.isLt

theorem channelOfByte_eq_none {n : Nat} (h : 3 < n) : channelOfByte n = none := dif_neg (by omega)

theorem bindingOfCode_eq_none {n : Nat} (h : n = 0 ∨ 22 < n ∧ n < 254) : bindingOfCode n = none := by
  unfold bindingOfCode
  rw [if_neg (by omega), if_neg (by omega), dif_neg (by omega)]

/-- Every binding but one to FAULT is named by its code. -/
theorem bindingOfCode_bindingCode {bound : Option Binding} (h : bound ≠ some (.source srcFault)) :
    bindingOfCode (bindingCode bound) = some bound := by
  rcases bound with _ | i | _
  · rfl
  · have hi : i.val ≠ 0 := fun h0 => h (congrArg (fun i => some (Binding.source i)) (Fin.ext h0))
    have hcode : bindingCode (some (.source i)) = i.val := rfl
    unfold bindingOfCode
    rw [hcode, if_neg (by omega), if_neg (by omega), dif_pos (by omega)]
  · rfl

theorem total_eq (kind : ObjectKind) :
    kind.total = match kind with | .stream => 4096 | .lane => 42 | .port => 64 | .station => 6 := by
  cases kind <;> rfl

theorem clamp_mostItems (kind : ObjectKind) (n : Nat) : clamp n 1 (mostItems kind) = max 1 (min n (min 26 kind.total)) := by
  have hpos : 0 < kind.total := by cases kind <;> decide
  unfold clamp mostItems
  split
  · omega
  · split <;> omega

/-- The clamp byte of an answer: 0 when the value stands as it was asked for. -/
theorem flagByte_bne (m n : Nat) : flagByte (m != n) = if m = n then 0 else 1 := by
  by_cases h : m = n <;> simp [flagByte, h]

/-! ### What EXPORT SET and EXPORT READ decide -/

section Decides

variable {payload : List Byte} {s : State} {ch : ChannelId} {kind : ObjectKind} {bound : Option Binding}

/-- A code that names no channel, no binding or no kind. -/
theorem decideExportSet_wrong_code
    (h : 3 < requestArg payload 0 ∨ (requestArg payload 1 = 0 ∨ 22 < requestArg payload 1 ∧ requestArg payload 1 < 254) ∨
      3 < requestArg payload 2) :
    decideExportSet payload s = answer .badArgument [] s := by
  unfold decideExportSet
  dsimp only
  rcases h with hch | hbound | hkind
  · rw [channelOfByte_eq_none hch]
  · rw [bindingOfCode_eq_none hbound]
    cases channelOfByte (requestArg payload 0) <;> rfl
  · rw [ObjectKind.ofCode_eq_none hkind]
    cases channelOfByte (requestArg payload 0) <;> cases bindingOfCode (requestArg payload 1) <;> rfl

theorem decideExportSet_wrong_form (h : requestArgLength payload ≠ 9 ∨ 1 < requestArg payload 6) :
    decideExportSet payload s = answer .badArgument [] s := by
  unfold decideExportSet
  dsimp only
  split
  · exact if_pos (h.imp_right .inr)
  · rfl

/-- Codes that name a channel, a binding and a kind: the checks left, then the channel written whole. -/
theorem decideExportSet_named (hl : requestArgLength payload = 9) (hch : requestArg payload 0 = ch.val)
    (hbound : bindingOfCode (requestArg payload 1) = some bound) (hkind : kind.code = requestArg payload 2)
    (hstep : requestArg payload 6 ≤ 1) :
    decideExportSet payload s =
      if kind.total ≤ requestArg payload 3 * 256 + requestArg payload 4 then answer .badArgument [] s
      else if s.mga.held then answer .held [] s
      else answer .ok [flagByte (clamp (requestArg payload 5) 1 (mostItems kind) != requestArg payload 5)]
        (s.setChannel ch (newChannel bound kind (requestArg payload 3 * 256 + requestArg payload 4) (requestArg payload 5)
          (requestArg payload 6) (requestArg payload 7 * 256 + requestArg payload 8))) := by
  unfold decideExportSet
  dsimp only
  rw [hch, hbound, ← hkind, channelOfByte_val, ObjectKind.ofCode_code]
  simp [hl, Nat.not_lt.mpr hstep]

theorem decideExportRead_wrong (h : requestArgLength payload ≠ 1 ∨ 3 < requestArg payload 0) :
    decideExportRead payload s = answer .badArgument [] s := by
  unfold decideExportRead
  rcases h with hl | hch
  · split
    · rfl
    · exact if_pos hl
  · rw [channelOfByte_eq_none hch]

theorem decideExportRead_reads (hl : requestArgLength payload = 1) (hch : requestArg payload 0 = ch.val) :
    decideExportRead payload s = answer .ok (s.channel ch).readResult s := by
  unfold decideExportRead
  rw [hch, channelOfByte_val]
  exact if_neg (not_not_intro hl)

end Decides

/-- Settles O50: the checks of EXPORT SET in their order and the channel it writes, then the 12 bytes of EXPORT READ. -/
theorem exportSetAndRead : Obligations.ExportSetAndRead := by
  intro s r rest p b bs ch
  refine ⟨fun h => ⟨fun hbad hs => ?setWrong, fun kind bound hl hch hkind hstep hbound => ?setNamed⟩,
    fun h => ⟨fun hbad hs => ?readWrong, fun hl hch => ?readAnswers⟩⟩
  case setWrong =>
    refine congrArg _ (serve_refuses h rfl hs fun u _ => ?_)
    rcases hbad with hl | hch | h0 | hgap | hkind | hstep
    · exact decideExportSet_wrong_form (.inl (mt (requestArgLength_eq_iff (n := 9)).mp hl))
    · exact decideExportSet_wrong_code (.inl hch)
    · exact decideExportSet_wrong_code (.inr (.inl (.inl h0)))
    · exact decideExportSet_wrong_code (.inr (.inl (.inr hgap)))
    · exact decideExportSet_wrong_code (.inr (.inr hkind))
    · exact decideExportSet_wrong_form (.inr hstep)
  case setNamed =>
    obtain ⟨hcode, hfault⟩ : requestArg r.payload 1 = bindingCode bound ∧ bound ≠ some (.source srcFault) := by
      obtain ⟨harg, rfl⟩ | ⟨harg, rfl⟩ | ⟨i, hi, harg, rfl⟩ := hbound
      · exact ⟨harg, nofun⟩
      · exact ⟨harg, nofun⟩
      · exact ⟨harg, fun e => hi (Binding.source.inj (Option.some.inj e))⟩
    have hset := fun u => decideExportSet_named (s := u) (requestArgLength_eq_iff.mpr hl) hch
      (hcode ▸ bindingOfCode_bindingCode hfault) hkind hstep
    refine ⟨fun hrange hs => ?_, fun hrange hheld hs => ?_, fun hrange hheld => ?_⟩
    · exact congrArg _ (serve_refuses h rfl hs fun u _ => (hset u).trans (if_pos ((total_eq kind).trans_le hrange)))
    · have hrange := Nat.not_le.mpr (hrange.trans_eq (total_eq kind).symm)
      exact congrArg _ (serve_refuses h rfl hs fun u hu =>
        (hset u).trans ((if_neg hrange).trans (if_pos (by rw [hu]; exact hheld))))
    · have hrange := Nat.not_le.mpr (hrange.trans_eq (total_eq kind).symm)
      refine congrArg _ (serve_succeeds (t := s.setChannel ch _) h rfl rfl rfl ?_)
      refine (hset _).trans ((if_neg hrange).trans ((if_neg (by simpa using hheld)).trans ?_))
      rw [newChannel, flagByte_bne, clamp_mostItems, total_eq]
      rfl
  case readWrong =>
    have hbad := hbad.imp_left (mt (requestArgLength_eq_iff (n := 1)).mp)
    exact congrArg _ (serve_refuses h rfl hs fun u _ => decideExportRead_wrong hbad)
  case readAnswers =>
    exact congrArg _ (serve_succeeds h rfl rfl rfl (decideExportRead_reads (requestArgLength_eq_iff.mpr hl) hch))

end Sys2Proof.Machine
end

section
/-! ECHO (R163): what it decides by its argument length, and the statement about it. -/

namespace Sys2Proof.Machine

open Safety

section Decides

variable {payload : List Byte} {s : State}

/-- A payload of a good argument length carries all the argument bytes it declares (R8, check 2). -/
theorem length_requestArgs (h : argLengthBad payload = false) : (requestArgs payload).length = requestArgLength payload := by
  simp only [argLengthBad, Bool.or_eq_false_iff, decide_eq_false_iff_not] at h
  rw [requestArgs, List.length_take, List.length_drop]
  omega

theorem decideEcho_refuses (h : requestArgLength payload = 112) : decideEcho payload s = answer .badArgument [] s := if_pos h

theorem decideEcho_answers (h : requestArgLength payload ≠ 112) : decideEcho payload s = answer .ok (requestArgs payload) s :=
  if_neg h

end Decides

/-- Settles O36: up to 111 argument bytes are all there and come back with nothing else changed, held or not; 112 are refused. -/
theorem echoAnswers : Obligations.EchoAnswers := by
  intro s r rest p b bs h
  refine ⟨fun hle => ⟨length_requestArgs h.length, ?answers⟩, fun hl hs => ?refuses⟩
  case answers =>
    exact congrArg _ (serve_succeeds h rfl rfl rfl (decideEcho_answers (Nat.ne_of_lt (Nat.lt_succ_of_le hle))))
  case refuses =>
    exact congrArg _ (serve_refuses h rfl hs fun _ _ => decideEcho_refuses hl)

end Sys2Proof.Machine
end

section
/-! What every step keeps: the capacities of the queues, the canonical form of the buffers, the notice floor over the pending sources,
the buckets within their range, and posture and views as they are derived. One relation says it of two states, and one walk through
the model says it of every step. -/

namespace Sys2Proof.Machine

open Safety

/-- Every invariant of the part that `s` meets, `t` meets. -/
structure Keeps (s t : State) : Prop where
  queues : QueuesWithin s → QueuesWithin t
  pool : PoolCanonical s → PoolCanonical t
  floor : FloorCovers s → FloorCovers t
  buckets : BucketsWithin s → BucketsWithin t
  posture : PostureDerived s → PostureDerived t
  views : ViewsDerived s → ViewsDerived t

theorem viewByRule_eq (s : State) (l : Lane) : viewByRule s l = s.derivedView l := rfl

/-- The view by R55 depends on TXFAULT, the peer report and the lane's own receive state. -/
theorem viewByRule_congr {s t : State} {l : Lane} (hx : t.txfault l = s.txfault l) (hp : t.lrx.peer = s.lrx.peer)
    (hr : (t.rx l).state = (s.rx l).state) : viewByRule t l = viewByRule s l := by
  simp only [viewByRule, hx, hp, hr]

theorem postureDerived_iff (s : State) : PostureDerived s ↔ s.psc.effective = s.psc.derived := Iff.rfl

namespace Keeps

theorem refl (s : State) : Keeps s s := ⟨id, id, id, id, id, id⟩

theorem trans {s t u : State} (h : Keeps s t) (k : Keeps t u) : Keeps s u :=
  ⟨k.queues ∘ h.queues, k.pool ∘ h.pool, k.floor ∘ h.floor, k.buckets ∘ h.buckets, k.posture ∘ h.posture, k.views ∘ h.views⟩

/-- A fold keeps what each of its rounds keeps. -/
theorem foldl {α : Type} {f : State → α → State} (hf : ∀ s a, Keeps s (f s a)) (as : List α) (s : State) :
    Keeps s (as.foldl f s) := by
  induction as generalizing s with
  | nil => exact refl s
  | cons a as ih => exact (hf s a).trans (ih _)

/-- The same for a fold that gathers something beside the state. -/
theorem foldlPair {α β : Type} {f : State × β → α → State × β} (hf : ∀ x a, Keeps x.1 (f x a).1) (as : List α)
    (x : State × β) : Keeps x.1 (as.foldl f x).1 := by
  induction as generalizing x with
  | nil => exact refl _
  | cons a as ih => exact (hf x a).trans (ih _)

/-! ### One update -/

theorem setBfm {s : State} {x : BufferManager} (h : Pool.wf s.bfm.pool = true → Pool.wf x.pool = true) : Keeps s (s.setBfm x) :=
  { refl s with pool := h, queues := fun q => ⟨q.ingress, q.control, q.cls, q.egress, q.requests⟩ }

theorem setCounter (s : State) (r : CounterRef) (x : Counter) : Keeps s (s.setCounter r x) := by
  cases r <;> exact { refl s with queues := fun q => ⟨q.ingress, q.control, q.cls, q.egress, q.requests⟩ }

/-- A change of the Event Unit alone keeps all but, it may be, the floor over the pending sources. -/
theorem setEvu {s : State} {x : EventUnit} (h : FloorCovers s → FloorCovers { s with evu := x }) : Keeps s { s with evu := x } :=
  { refl s with floor := h, queues := fun q => ⟨q.ingress, q.control, q.cls, q.egress, q.requests⟩ }

theorem setChannel (s : State) (ch : ChannelId) (x : Channel) : Keeps s (s.setChannel ch x) := setEvu fun h => h

/-- A source whose flag, or else its level, stays. -/
theorem setSource {s : State} {i : Source} {x : SourceRecord}
    (h : i ≠ srcFault → x.flag = true → ((s.source i).flag = true ∧ x.level = (s.source i).level) ∨ x.level ≤ s.evu.floor) :
    Keeps s (s.setSource i x) :=
  setEvu fun hc j hj hf => by
    change ((s.setSource i x).source j).level ≤ _
    change ((s.setSource i x).source j).flag = true at hf
    rw [State.source_setSource] at hf ⊢
    split at hf
    · next e =>
      subst e
      rw [if_pos rfl]
      rcases h hj hf with ⟨hs, hl⟩ | hl
      · exact hl ▸ hc j hj hs
      · exact hl
    · next e => rw [if_neg e]; exact hc j hj hf

theorem repeatFlag (s : State) (src : Source) (hf : (s.source src).flag = true) : Keeps s (s.repeatFlag src) :=
  setSource fun _ _ => .inl ⟨hf, rfl⟩

theorem setEgress {s : State} {p : PortId} {q : List EgressEntry} (h : (s.egress p).length ≤ 512 → q.length ≤ 512) :
    Keeps s (s.setEgress p q) :=
  { refl s with
    queues := fun w => ⟨w.ingress, w.control, w.cls, fun o => by
      rw [State.egress_setEgress]
      split
      · exact h (w.egress p)
      · exact w.egress o, w.requests⟩ }

theorem setIngress {s : State} {p : PortId} {q : List (List Byte)} (h : (s.ingress p).length ≤ 16 → q.length ≤ 16) :
    Keeps s (s.setIngress p q) :=
  { refl s with
    queues := fun w => ⟨fun o => by
      rw [State.ingress_setIngress]
      split
      · exact h (w.ingress p)
      · exact w.ingress o, w.control, w.cls, w.egress, w.requests⟩ }

/-- A lane's transmit side with its view kept and its queues within their capacities. -/
theorem setTx {s : State} {l : Lane} {x : LaneTx} (hv : x.view = (s.tx l).view)
    (hc : (s.tx l).control.length ≤ 8 → x.control.length ≤ 8)
    (hk : ∀ k, ((s.tx l).classes.look k).length ≤ classDepth l → (x.classes.look k).length ≤ classDepth l) :
    Keeps s (s.setTx l x) :=
  { refl s with
    queues := fun w => ⟨w.ingress, fun m => by
      rw [State.tx_setTx]
      split
      · exact hc (w.control l)
      · exact w.control m, fun m k => by
      rw [State.classQueue, State.tx_setTx]
      split
      · next e => subst e; exact hk k (w.cls m k)
      · exact w.cls m k, w.egress, w.requests⟩
    views := fun w m => by
      rw [State.view, State.tx_setTx]
      split
      · next e => subst e; rw [hv]; exact w m
      · exact w m }

theorem setControl {s : State} {l : Lane} {q : List Nat} (h : (s.tx l).control.length ≤ 8 → q.length ≤ 8) :
    Keeps s (s.setControl l q) := setTx rfl h fun _ => id

theorem setClassQueue {s : State} {l : Lane} {k : Fin 4} {q : List QueueEntry}
    (h : (s.classQueue l k).length ≤ classDepth l → q.length ≤ classDepth l) : Keeps s (s.setClassQueue l k q) :=
  setTx rfl id fun j w => by
    rw [Bank.look_put]
    split
    · next e => subst e; exact h w
    · exact w

theorem setLoad (s : State) (l : Lane) (x : Nat × Nat) : Keeps s (s.setLoad l x) := setTx rfl id fun _ => id

theorem setRun {s : State} {n : StreamId} {x : RunRecord}
    (h : (s.run n).level ≤ 16 * (s.entry n).burst → x.level ≤ 16 * (s.entry n).burst) : Keeps s (s.setRun n x) :=
  { refl s with
    queues := fun q => ⟨q.ingress, q.control, q.cls, q.egress, q.requests⟩
    buckets := fun w m => by
      rw [State.run_setRun, State.entry_setRun]
      split
      · next e => subst e; exact h (w m)
      · exact w m }

theorem addQueued (s : State) (n : StreamId) : Keeps s (s.addQueued n) := setRun id

theorem subQueued (s : State) (n : StreamId) : Keeps s (s.subQueued n) := setRun id

theorem setEntry {s : State} {n : StreamId} {x : StreamEntry} (h : x.burst = (s.entry n).burst) : Keeps s (s.setEntry n x) :=
  { refl s with
    queues := fun q => ⟨q.ingress, q.control, q.cls, q.egress, q.requests⟩
    buckets := fun w m => by
      rw [State.run_setEntry, State.entry_setEntry]
      split
      · next e => subst e; rw [h]; exact w m
      · exact w m }

theorem setContext (s : State) (c : ContextId) (x : Context) : Keeps s (s.setContext c x) :=
  { refl s with queues := fun q => ⟨q.ingress, q.control, q.cls, q.egress, q.requests⟩ }

theorem setMga {s : State} {x : ManagementAgent} (h : s.mga.requests.length ≤ 4 → x.requests.length ≤ 4) :
    Keeps s (s.setMga x) :=
  { refl s with queues := fun q => ⟨q.ingress, q.control, q.cls, q.egress, h q.requests⟩ }

/-- The Posture Controller changed in what the effective posture does not derive from. -/
theorem setPsc {s : State} {x : PostureController} (hd : x.derived = s.psc.derived) (he : x.effective = s.psc.effective) :
    Keeps s (s.setPsc x) :=
  { refl s with
    queues := fun q => ⟨q.ingress, q.control, q.cls, q.egress, q.requests⟩
    posture := fun h => he.trans (h.trans hd.symm) }

/-- A lane's receive side with its receive state kept. -/
theorem setRx {s : State} {l : Lane} {x : LaneRx} (h : x.state = (s.rx l).state) : Keeps s (s.setRx l x) :=
  { refl s with
    queues := fun q => ⟨q.ingress, q.control, q.cls, q.egress, q.requests⟩
    views := fun w m => (w m).trans (viewByRule_congr (s := s) (t := s.setRx l x) rfl rfl (by
      rw [State.rx_setRx]
      split
      · next e => rw [e, h]
      · rfl)).symm }

theorem setLck (s : State) (x : LinkClock) : Keeps s (s.setLck x) :=
  { refl s with queues := fun q => ⟨q.ingress, q.control, q.cls, q.egress, q.requests⟩ }

/-- The pins changed in what no view derives from. -/
theorem setPins {s : State} {x : Pins} (ha : x.txfaultA = s.pins.txfaultA) (hb : x.txfaultB = s.pins.txfaultB) :
    Keeps s (s.setPins x) :=
  { refl s with
    queues := fun q => ⟨q.ingress, q.control, q.cls, q.egress, q.requests⟩
    views := fun w l => (w l).trans
      (viewByRule_congr (s := s) (t := s.setPins x) (by cases l <;> simp only [State.txfault, State.setPins_pins, ha, hb]) rfl rfl).symm }

theorem dropReference (s : State) (b : Nat) : Keeps s (s.dropReference b).1 := by
  rcases s.dropReference_cases b with ⟨_, e⟩ | ⟨_, e⟩ | ⟨k, _, e⟩ <;> rw [e]
  · exact refl s
  · exact setBfm fun h => Pool.wf_write h _ _
  · exact setBfm fun h => Pool.wf_write h _ _

theorem allocate {s t : State} {threshold refs b : Nat} {cell : Cell} (h : s.allocate threshold refs cell = some (b, t)) :
    Keeps s t := by
  obtain ⟨rest, -, -, rfl⟩ := State.allocate_eq_some.1 h
  exact setBfm fun h => Pool.wf_write h _ _

theorem storeCell (s : State) (b : Nat) (x : Cell) : Keeps s (s.storeCell b x) := setBfm fun h => Pool.wf_write h _ _

end Keeps

/-! ### Firings and what they bring about -/

/-- What decides inner firings keeps every invariant. -/
def Raise.Keep (raise : Raise) : Prop := ∀ src d s, Keeps s (raise src d s)

section WithRaise

variable {raise : Raise} (hr : Raise.Keep raise)

include hr

theorem countWith_keeps (r : CounterRef) (s : State) : Keeps s (countWith raise r s) := by
  unfold countWith
  dsimp only
  split
  · exact (Keeps.setCounter _ _ _).trans (hr _ _ _)
  · exact Keeps.setCounter _ _ _

theorem undeliverableWith_keeps (s : State) : Keeps s (undeliverableWith raise s) := (countWith_keeps hr _ s).trans (hr _ _ _)

theorem raiseIfLow_keeps (before s : State) : Keeps s (raiseIfLow raise before s) := by
  unfold raiseIfLow
  split
  · exact hr _ _ _
  · exact .refl s

theorem allocateWith_keeps {s t : State} {threshold refs b : Nat} {cell : Cell}
    (h : allocateWith raise threshold refs cell s = some (b, t)) : Keeps s t := by
  unfold allocateWith at h
  split at h
  · cases h
  · next b' t' ht =>
    obtain ⟨rfl, rfl⟩ := Prod.mk.inj (Option.some.inj h)
    exact (Keeps.allocate ht).trans (raiseIfLow_keeps hr _ _)

section LetGo

variable {letGo : LetGo} (hg : ∀ b s, Keeps s (letGo b s))

include hg

theorem discardWith_keeps (b : Nat) (s : State) : Keeps s (discardWith raise letGo b s) :=
  (hg b s).trans (undeliverableWith_keeps hr _)

theorem placeControlWith_keeps (b : Nat) (s : State) : Keeps s (placeControlWith raise letGo b s) := by
  unfold placeControlWith
  split
  · next l hl =>
    refine Keeps.setControl fun _ => ?_
    unfold State.placement at hl
    split at hl
    · cases hl
    · split at hl
      · next hd =>
        cases hl
        rw [List.length_append]
        exact hd
      · cases hl
  · exact discardWith_keeps hr hg b s

theorem controllerRouteWith_keeps (fromLane : Bool) (b : Nat) (s : State) :
    Keeps s (controllerRouteWith raise letGo fromLane b s) := by
  unfold controllerRouteWith
  split
  · unfold offerControlWith
    split
    · next hl =>
      refine Keeps.setEgress fun _ => ?_
      rw [List.length_append]
      exact hl
    · exact (hg b s).trans ((countWith_keeps hr _ _).trans (undeliverableWith_keeps hr _))
  · split
    · exact discardWith_keeps hr hg b s
    · exact placeControlWith_keeps hr hg b s

end LetGo

omit hr in
theorem dropFresh_keeps (b : Nat) (s : State) : Keeps s (dropFresh b s) := .dropReference s b

theorem sendNoticeWith_keeps (s : State) : Keeps s (sendNoticeWith raise s) := by
  unfold sendNoticeWith
  split
  · exact .refl s
  · split
    · exact undeliverableWith_keeps hr s
    · next b t ht =>
      exact (Keeps.allocate ht).trans ((controllerRouteWith_keeps hr dropFresh_keeps _ _ _).trans
        ((countWith_keeps hr _ _).trans (raiseIfLow_keeps hr _ _)))

theorem exportAttemptWith_keeps (id : ChannelId) (s : State) : Keeps s (exportAttemptWith raise id s) := by
  unfold exportAttemptWith
  dsimp only
  split
  · split
    · exact .refl s
    · next b t ht =>
      have hsent : ∀ x y z, Keeps s ((raiseIfLow raise s (controllerRouteWith raise dropFresh false b
          ((t.setChannel id x).storeCell b y))).setChannel id z) := fun x y z =>
        (Keeps.allocate ht).trans ((Keeps.setChannel t id x).trans ((Keeps.storeCell _ b y).trans
          ((controllerRouteWith_keeps hr dropFresh_keeps false b _).trans ((raiseIfLow_keeps hr s _).trans
            (Keeps.setChannel _ id z)))))
      split
      · exact (hsent _ _ _).trans (hr _ _ _)
      · exact hsent _ _ _
  · exact .refl s

theorem takeFiringWith_keeps (id : ChannelId) (s : State) : Keeps s (takeFiringWith raise id s) := by
  unfold takeFiringWith
  dsimp only
  split
  · exact countWith_keeps hr _ s
  · exact (Keeps.setChannel _ _ _).trans (exportAttemptWith_keeps hr _ _)

/-- A flag just set is covered by the floor: FAULT needs no cover, a source above the floor raises it (R151). -/
theorem noticeRuleWith_keeps (src : Source) (d : Detail) (s : State) :
    Keeps s (noticeRuleWith raise src (s.setFlag src d)) := by
  unfold noticeRuleWith
  split
  · next e => exact (Keeps.setSource fun h => absurd e h).trans (sendNoticeWith_keeps hr _)
  · split
    · refine Keeps.trans (t := (s.setFlag src d).setFloor ((s.setFlag src d).source src).level) ?_ (sendNoticeWith_keeps hr _)
      next hlt =>
      refine Keeps.setEvu fun hc j hj hf => ?_
      change ((s.setFlag src d).source j).flag = true at hf
      change ((s.setFlag src d).source j).level ≤ ((s.setFlag src d).source src).level
      by_cases e : j = src
      · rw [e]
      · have hs : (s.setFlag src d).source j = s.source j := by simp [State.setFlag, State.source_setSource, e]
        rw [hs] at hf ⊢
        exact (hc j hj hf).trans (Nat.le_of_lt hlt)
    · next hlt =>
      exact Keeps.setSource fun _ _ => .inr (by simpa [State.setFlag] using hlt)

theorem fireWith_keeps (src : Source) (d : Detail) (s : State) : Keeps s (fireWith raise src d s) := by
  unfold fireWith
  split
  · exact takeFiringWith_keeps hr _ s
  · split
    · next hf => exact .repeatFlag s src hf
    · exact noticeRuleWith_keeps hr src d s

end WithRaise

theorem fireTo_keeps (n : Nat) : Raise.Keep (fireTo n) := by
  induction n with
  | zero => intro src d s; exact .refl s
  | succ n ih => intro src d s; exact fireWith_keeps ih src d s

theorem fire_keeps : Raise.Keep fire := by
  unfold fire
  exact fireTo_keeps _

theorem count_keeps (r : CounterRef) (s : State) : Keeps s (count r s) := countWith_keeps fire_keeps r s

theorem countStream_keeps (n : StreamId) (c : StreamCounter) (s : State) : Keeps s (countStream n c s) := count_keeps _ s

theorem countLane_keeps (l : Lane) (c : LaneCounter) (s : State) : Keeps s (countLane l c s) := count_keeps _ s

theorem countPort_keeps (p : PortId) (c : PortCounter) (s : State) : Keeps s (countPort p c s) := count_keeps _ s

theorem countStation_keeps (c : StationCounter) (s : State) : Keeps s (countStation c s) := count_keeps _ s

theorem countTimes_keeps (r : CounterRef) (n : Nat) (s : State) : Keeps s (countTimes r n s) := by
  induction n generalizing s with
  | zero => exact .refl s
  | succ n ih => exact (count_keeps r s).trans (ih _)

theorem undeliverable_keeps (s : State) : Keeps s (undeliverable s) := undeliverableWith_keeps fire_keeps s

theorem allocateControl_keeps {cell : Cell} {s t : State} {b : Nat} (h : allocateControl cell s = some (b, t)) :
    Keeps s t := allocateWith_keeps fire_keeps h

theorem allocateMedia_keeps {cls : Fin 4} {refs : Nat} {cell : Cell} {s t : State} {b : Nat}
    (h : allocateMedia cls refs cell s = some (b, t)) : Keeps s t := allocateWith_keeps fire_keeps h

theorem sendNotice_keeps (s : State) : Keeps s (sendNotice s) := sendNoticeWith_keeps fire_keeps s

end Sys2Proof.Machine
end

section
/-! The same of a fault cause, a dereference, a recomputation of committed load, a requeue, and of views and posture derived again. -/

namespace Sys2Proof.Machine

open Safety

/-! ### Committed load and drains -/

theorem routeResponseWith_keeps {letGo : LetGo} (hg : ∀ b s, Keeps s (letGo b s)) (dest : Fin 8) (b : Nat) (s : State) :
    Keeps s (routeResponseWith letGo dest b s) := by
  unfold routeResponseWith
  split
  · exact controllerRouteWith_keeps fire_keeps hg _ _ _
  · split
    · exact placeControlWith_keeps fire_keeps hg _ _
    · exact discardWith_keeps fire_keeps hg _ _

theorem respondInOwnBufferWith_keeps {letGo : LetGo} (hg : ∀ b s, Keeps s (letGo b s)) (dest : Fin 8) (cell : Cell) (s : State) :
    Keeps s (respondInOwnBufferWith letGo dest cell s) := by
  unfold respondInOwnBufferWith
  split
  · exact undeliverable_keeps s
  · next b t ht => exact (allocateControl_keeps ht).trans (routeResponseWith_keeps hg _ _ _)

theorem recomputeLoad_keeps (s : State) : Keeps s (recomputeLoad s) :=
  (Keeps.foldl (fun _ _ => Keeps.setLoad _ _ _) _ s).trans (Keeps.foldl (fun _ _ => fire_keeps _ _ _) _ _)

theorem setDrain_keeps (s : State) (d : Option Drain) : Keeps s (s.setMga { s.mga with drain := d }) := Keeps.setMga id

theorem suspendDrained_keeps (d : Drain) (s : State) : Keeps s (suspendDrained d s) :=
  (setDrain_keeps s none).trans (Keeps.setEntry rfl)

theorem finishDrain_keeps {letGo : LetGo} (hg : ∀ b s, Keeps s (letGo b s)) (d : Drain) (s : State) :
    Keeps s (finishDrain letGo d s) :=
  (suspendDrained_keeps d s).trans ((respondInOwnBufferWith_keeps hg _ _ _).trans (recomputeLoad_keeps _))

/-! ### The FAULT-HOLD actions -/

theorem dropGathering_keeps (x : State × List Nat) (b : Nat) : Keeps x.1 (dropGathering x b).1 := .dropReference x.1 b

theorem flushEntry_keeps (l : Lane) (x : State × List Nat) (e : QueueEntry) : Keeps x.1 (flushEntry l x e).1 :=
  (dropGathering_keeps x e.buffer).trans ((Keeps.subQueued _ _).trans (countLane_keeps _ _ _))

theorem flushQueue_keeps (x : State × List Nat) (q : Lane × Fin 4) : Keeps x.1 (flushQueue x q).1 :=
  (Keeps.setClassQueue (s := x.1) (l := q.1) (k := q.2) (q := []) fun _ => Nat.zero_le _).trans
    (Keeps.foldlPair (flushEntry_keeps q.1) _ (x.1.setClassQueue q.1 q.2 [], x.2))

theorem emptyWindow_keeps (x : State × List Nat) (c : ContextId) : Keeps x.1 (emptyWindow x c).1 := by
  unfold emptyWindow
  dsimp only
  split
  · exact (Keeps.setContext x.1 c _).trans
      (Keeps.foldlPair dropGathering_keeps _ (x.1.setContext c (x.1.context c).emptied, x.2))
  · exact .refl _

theorem purgeEntry_keeps (p : PortId) (x : State × List Nat) (e : EgressEntry) : Keeps x.1 (purgeEntry p x e).1 := by
  unfold purgeEntry
  split
  · dsimp only
    exact (dropGathering_keeps x _).trans ((countStream_keeps _ _ _).trans (countPort_keeps _ _ _))
  · exact countPort_keeps _ _ _
  · exact .refl _

theorem purgePort_keeps (x : State × List Nat) (p : PortId) : Keeps x.1 (purgePort x p).1 :=
  (Keeps.setEgress fun h => (List.length_filter_le _ _).trans h).trans
    (Keeps.foldlPair (purgeEntry_keeps p) _ (x.1.setEgress p ((x.1.egress p).filter EgressEntry.isControl), x.2))

theorem holdActions_keeps (s : State) : Keeps s (holdActions s).1 :=
  (Keeps.foldlPair flushQueue_keeps _ (s, [])).trans
    ((Keeps.foldlPair emptyWindow_keeps _ _).trans (Keeps.foldlPair purgePort_keeps _ _))

theorem furtherFault_keeps (cause : FaultCause) (index : Nat) (s : State) : Keeps s (furtherFault cause index s) :=
  (Keeps.setMga (s := s) (x := { s.mga with furtherFaults := min (s.mga.furtherFaults + 1) 255 }) id).trans (fire_keeps _ _ _)

theorem enterHold_keeps (cause : FaultCause) (index : Nat) (s : State) : Keeps s (enterHold cause index s) := by
  have h := (Keeps.setMga (s := s)
    (x := { s.mga with faultCause := some cause, faultIndex := index, furtherFaults := 0, held := true }) id).trans
      (holdActions_keeps _)
  unfold enterHold
  dsimp only
  generalize holdActions (s.setMga _) = acted at h ⊢
  refine ((?_ : Keeps s _).trans (fire_keeps _ _ _)).trans (Keeps.foldl (fun _ _ => furtherFault_keeps _ _ _) _ _)
  cases acted.1.mga.drain with
  | none => exact h
  | some d => exact h.trans (finishDrain_keeps dropFresh_keeps d _)

theorem raiseFault_keeps (cause : FaultCause) (index : Nat) (s : State) : Keeps s (raiseFault cause index s) := by
  unfold raiseFault
  split
  · exact furtherFault_keeps _ _ _
  · exact enterHold_keeps _ _ _

theorem raiseAll_keeps (found : Found) (s : State) : Keeps s (raiseAll found s) :=
  Keeps.foldl (fun _ _ => raiseFault_keeps _ _ _) found s

theorem dereference_keeps (b : Nat) (s : State) : Keeps s (dereference b s) := by
  unfold dereference
  dsimp only
  split
  · exact (Keeps.dropReference s b).trans (raiseFault_keeps _ _ _)
  · exact Keeps.dropReference s b

theorem discard_keeps (b : Nat) (s : State) : Keeps s (discard b s) := discardWith_keeps fire_keeps dereference_keeps b s

theorem placeControl_keeps (b : Nat) (s : State) : Keeps s (placeControl b s) :=
  placeControlWith_keeps fire_keeps dereference_keeps b s

theorem controllerRoute_keeps (fromLane : Bool) (b : Nat) (s : State) : Keeps s (controllerRoute fromLane b s) :=
  controllerRouteWith_keeps fire_keeps dereference_keeps fromLane b s

theorem routeResponse_keeps (dest : Fin 8) (b : Nat) (s : State) : Keeps s (routeResponse dest b s) :=
  routeResponseWith_keeps dereference_keeps dest b s

theorem respondInOwnBuffer_keeps (dest : Fin 8) (tag : BitVec 16) (command : Byte) (status : Status) (result : List Byte)
    (s : State) : Keeps s (respondInOwnBuffer dest tag command status result s) :=
  respondInOwnBufferWith_keeps dereference_keeps _ _ _

theorem recompute_keeps (s : State) : Keeps s (recompute s) := (recomputeLoad_keeps s).trans (raiseAll_keeps _ _)

theorem completeDrain_keeps (s : State) : Keeps s (completeDrain s) := by
  unfold completeDrain
  split
  · exact .refl s
  · exact (setDrain_keeps s none).trans
      ((raiseAll_keeps _ _).trans ((finishDrain_keeps dereference_keeps _ _).trans (raiseAll_keeps _ _)))

/-! ### The protection requeue -/

theorem dropFlushed_keeps (l : Lane) (e : QueueEntry) (s : State) : Keeps s (dropFlushed l e s) :=
  (Keeps.subQueued s _).trans ((countLane_keeps _ _ _).trans (dereference_keeps _ _))

/-- A cell that joins the tail of a class queue with room. -/
theorem joinClass_keeps {s : State} {l : Lane} {k : Fin 4} (e : QueueEntry) (h : (s.classQueue l k).length < classDepth l) :
    Keeps s (s.setClassQueue l k (s.classQueue l k ++ [e])) :=
  Keeps.setClassQueue fun _ => by
    rw [List.length_append]
    exact h

theorem requeueEntry_keeps (l : Lane) (k : Fin 4) (e : QueueEntry) (s : State) : Keeps s (requeueEntry l k e s) := by
  unfold requeueEntry
  split
  · split
    · exact dropFlushed_keeps _ _ _
    · dsimp only
      split
      · exact dropFlushed_keeps _ _ _
      · split
        · next h => exact (joinClass_keeps e h).trans (countLane_keeps _ _ _)
        · exact (Keeps.subQueued s _).trans ((countStream_keeps _ _ _).trans (dereference_keeps _ _))
  · exact (dropFlushed_keeps _ _ _).trans (raiseFault_keeps _ _ _)

theorem requeueClass_keeps (l : Lane) (k : Fin 4) (fuel : Nat) (s : State) : Keeps s (requeueClass l k fuel s) := by
  induction fuel generalizing s with
  | zero => exact .refl s
  | succ n ih =>
    unfold requeueClass
    split
    · exact .refl s
    · next e rest hq =>
      refine (Keeps.setClassQueue fun h => ?_).trans ((requeueEntry_keeps _ _ _ _).trans (ih _))
      rw [hq] at h
      exact (Nat.le_succ _).trans h

theorem dropControl_keeps (l : Lane) (s : State) (b : Nat) : Keeps s (dropControl l s b) :=
  (countLane_keeps _ _ _).trans (dereference_keeps _ _)

theorem requeueControl_keeps (l : Lane) (s : State) : Keeps s (requeueControl l s) := by
  unfold requeueControl
  dsimp only
  have he : Keeps s (s.setControl l []) := Keeps.setControl fun _ => Nat.zero_le _
  split
  · exact he.trans (Keeps.foldl (dropControl_keeps l) _ _)
  · refine he.trans ((Keeps.setControl fun h => ?_).trans (Keeps.foldl (dropControl_keeps l) _ _))
    rw [List.length_append, List.length_take, Config.controlDepth]
    omega

theorem protectionRequeue_keeps (l : Lane) (s : State) : Keeps s (protectionRequeue l s) :=
  (Keeps.foldl (fun _ _ => requeueClass_keeps _ _ _ _) _ s).trans (requeueControl_keeps _ _)

/-! ### Views and posture derived again

What changes an input of a view or of the posture breaks the derivation until it is derived again. -/

/-- Every invariant but the derivation of the views. -/
structure KeepsButViews (s t : State) : Prop where
  queues : QueuesWithin s → QueuesWithin t
  pool : PoolCanonical s → PoolCanonical t
  floor : FloorCovers s → FloorCovers t
  buckets : BucketsWithin s → BucketsWithin t
  posture : PostureDerived s → PostureDerived t

theorem Keeps.butViews {s t : State} (h : Keeps s t) : KeepsButViews s t := ⟨h.queues, h.pool, h.floor, h.buckets, h.posture⟩

theorem KeepsButViews.trans {s t u : State} (h : KeepsButViews s t) (k : KeepsButViews t u) : KeepsButViews s u :=
  ⟨k.queues ∘ h.queues, k.pool ∘ h.pool, k.floor ∘ h.floor, k.buckets ∘ h.buckets, k.posture ∘ h.posture⟩

/-- Once the views are derived again, nothing is left broken. -/
theorem KeepsButViews.keeps {s t : State} (h : KeepsButViews s t) (hv : ViewsDerived t) : Keeps s t :=
  ⟨h.queues, h.pool, h.floor, h.buckets, h.posture, fun _ => hv⟩

theorem tx_setViews (s : State) (v : PerLane View) (l : Lane) : (s.setViews v).tx l = { s.tx l with view := v.get l } := by
  cases l <;> rfl

theorem setViews_butViews (s : State) (v : PerLane View) : KeepsButViews s (s.setViews v) where
  queues w := ⟨w.ingress, fun l => by rw [tx_setViews]; exact w.control l,
    fun l k => by rw [State.classQueue, tx_setViews]; exact w.cls l k, w.egress, w.requests⟩
  pool := id
  floor := id
  buckets := id
  posture := id

theorem derivedView_setViews (s : State) (v : PerLane View) (l : Lane) : (s.setViews v).derivedView l = s.derivedView l := by
  cases l <;> rfl

/-- What the derivation of the views does after it has stored them changes neither them nor what they derive from. -/
theorem deriveViews_cases (s : State) :
    (deriveViews s = s ∧ ∀ l, s.view l = s.derivedView l) ∨
      ∃ v : PerLane View, (∀ l, v.get l = s.derivedView l) ∧ OnlyHold (s.setViews v) (deriveViews s) ∧
        Keeps (s.setViews v) (deriveViews s) := by
  unfold deriveViews
  dsimp only
  split
  · next h =>
    refine .inl ⟨rfl, fun l => ?_⟩
    have hl := List.filter_eq_nil_iff.1 h l (by cases l <;> decide)
    cases l <;> simpa [PerLane.get] using hl
  · refine .inr ⟨{ a := s.derivedView .a, b := s.derivedView .b, c := s.derivedView .c }, fun l => by cases l <;> rfl, ?_, ?_⟩
    · exact (OnlyHold.foldl (fun _ _ => fire_hold _ _ _) _ _).trans
        ((OnlyHold.foldl (fun _ _ => protectionRequeue_hold _ _) _ _).trans (recompute_hold _))
    · exact (Keeps.foldl (fun _ _ => fire_keeps _ _ _) _ _).trans
        ((Keeps.foldl (fun _ _ => protectionRequeue_keeps _ _) _ _).trans (recompute_keeps _))

/-- The views derived again are as R55 derives them. -/
theorem viewsDerived_deriveViews (s : State) : ViewsDerived (deriveViews s) := by
  intro l
  rcases deriveViews_cases s with ⟨he, hv⟩ | ⟨v, hv, ho, -⟩
  · rw [he]
    exact hv l
  · rw [viewByRule_eq, ho.derivedView, derivedView_setViews, ho.view, State.view, tx_setViews]
    exact hv l

theorem deriveViews_butViews (s : State) : KeepsButViews s (deriveViews s) := by
  rcases deriveViews_cases s with ⟨he, -⟩ | ⟨v, -, -, hk⟩
  · rw [he]
    exact (Keeps.refl s).butViews
  · exact (setViews_butViews s v).trans hk.butViews

/-- A change that breaks the views at most, and then the views derived again. -/
theorem deriveViews_keeps {s t : State} (h : KeepsButViews s t) : Keeps s (deriveViews t) :=
  (h.trans (deriveViews_butViews t)).keeps (viewsDerived_deriveViews t)

/-- Every invariant but the derivation of the posture. -/
structure KeepsButPosture (s t : State) : Prop where
  queues : QueuesWithin s → QueuesWithin t
  pool : PoolCanonical s → PoolCanonical t
  floor : FloorCovers s → FloorCovers t
  buckets : BucketsWithin s → BucketsWithin t
  views : ViewsDerived s → ViewsDerived t

theorem setPsc_butPosture (s : State) (x : PostureController) : KeepsButPosture s (s.setPsc x) :=
  ⟨fun q => ⟨q.ingress, q.control, q.cls, q.egress, q.requests⟩, id, id, id, id⟩

theorem Keeps.butPosture {s t : State} (h : Keeps s t) : KeepsButPosture s t := ⟨h.queues, h.pool, h.floor, h.buckets, h.views⟩

theorem KeepsButPosture.trans {s t u : State} (h : KeepsButPosture s t) (k : KeepsButPosture t u) : KeepsButPosture s u :=
  ⟨k.queues ∘ h.queues, k.pool ∘ h.pool, k.floor ∘ h.floor, k.buckets ∘ h.buckets, k.views ∘ h.views⟩

theorem KeepsButPosture.keeps {s t : State} (h : KeepsButPosture s t) (hp : PostureDerived t) : Keeps s t :=
  ⟨h.queues, h.pool, h.floor, h.buckets, fun _ => hp, h.views⟩

/-- The Posture Controller once its effective posture is derived again (R130): nothing else of it changes. -/
theorem derivePosture_psc (s : State) : (derivePosture s).psc = { s.psc with effective := s.psc.derived } := by
  unfold derivePosture
  dsimp only
  split
  · next h => rw [h]
  · exact ((OnlyHold.trans (fire_hold _ _ _) (recompute_hold _)).psc)

theorem postureDerived_derivePosture (s : State) : PostureDerived (derivePosture s) := by
  have h := derivePosture_psc s
  show (derivePosture s).psc.effective = (derivePosture s).psc.derived
  rw [h]
  rfl

/-- A change that breaks the posture at most, and then the posture derived again. -/
theorem derivePosture_keeps {s t : State} (h : KeepsButPosture s t) : Keeps s (derivePosture t) := by
  refine KeepsButPosture.keeps (h.trans ?_) (postureDerived_derivePosture t)
  unfold derivePosture
  dsimp only
  split
  · exact (Keeps.refl t).butPosture
  · exact (setPsc_butPosture t _).trans (((fire_keeps _ _ _).trans (recompute_keeps _)).butPosture)

theorem derivePeerPosture_keeps (s : State) : Keeps s (derivePeerPosture s) := derivePosture_keeps (setPsc_butPosture s _)

theorem startStrike_keeps (s : State) : Keeps s (startStrike s) :=
  (fire_keeps _ _ s).trans (derivePosture_keeps (setPsc_butPosture _ _))

/-- The peer report changed, before the views that follow it. -/
theorem setPeer_butViews (s : State) (x : PeerReport) : KeepsButViews s (s.setPeer x) :=
  ⟨fun q => ⟨q.ingress, q.control, q.cls, q.egress, q.requests⟩, id, id, id, id⟩

theorem setRx_butViews (s : State) (l : Lane) (x : LaneRx) : KeepsButViews s (s.setRx l x) :=
  ⟨fun q => ⟨q.ingress, q.control, q.cls, q.egress, q.requests⟩, id, id, id, id⟩

theorem setPins_butViews (s : State) (x : Pins) : KeepsButViews s (s.setPins x) :=
  ⟨fun q => ⟨q.ingress, q.control, q.cls, q.egress, q.requests⟩, id, id, id, id⟩

/-- While the peer report is fresh no view derives from a lane's own receive state (R55). -/
theorem setRx_keeps_of_fresh {s : State} {l : Lane} {x : LaneRx} (h : s.lrx.peer.stale = false) : Keeps s (s.setRx l x) where
  queues := (setRx_butViews s l x).queues
  pool := id
  floor := id
  buckets := id
  posture := id
  views w m := by
    refine (w m).trans ?_
    have hp : (s.setRx l x).lrx.peer.stale = false := h
    have hx : (s.setRx l x).txfault m = s.txfault m := by cases m <;> rfl
    simp only [viewByRule, h, hp, hx, Bool.false_eq_true, if_false]
    rfl

/-- The entry to a receive state counted (R77). -/
def countEntry (l : Lane) (state : RxState) (s : State) : State :=
  match entryCounter state with
  | some c => countLane l c s
  | none => s

theorem countEntry_only (l : Lane) (state : RxState) (s : State) : OnlyEvents s (countEntry l state s) := by
  unfold countEntry
  split
  · exact countLane_only _ _ _
  · exact .refl s

/-- The record and the event of an entry to a receive state, with its count. -/
def enteredRx (l : Lane) (state : RxState) (s : State) : State :=
  countEntry l state (fire (srcLaneState l) .none (s.setRx l ((s.rx l).entered state)))

theorem enteredRx_only (l : Lane) (state : RxState) (s : State) :
    OnlyEvents (s.setRx l ((s.rx l).entered state)) (enteredRx l state s) :=
  (fire_only (srcLaneState l) .none _).trans (countEntry_only _ _ _)

theorem enterRxState_eq (l : Lane) (state : RxState) (s : State) :
    enterRxState l state s =
      if s.lrx.peer.stale then deriveViews (enteredRx l state s) else enteredRx l state s := by
  have hp : (enteredRx l state s).lrx.peer = s.lrx.peer := by
    rw [(enteredRx_only l state s).lrx]
    rfl
  rw [← hp]
  cases state <;> rfl

theorem countEntry_keeps (l : Lane) (state : RxState) (s : State) : Keeps s (countEntry l state s) := by
  unfold countEntry
  split
  · exact countLane_keeps _ _ _
  · exact .refl s

theorem enteredRx_keeps (l : Lane) (state : RxState) (s : State) :
    Keeps (s.setRx l ((s.rx l).entered state)) (enteredRx l state s) :=
  (fire_keeps _ _ _).trans (countEntry_keeps _ _ _)

theorem enterRxState_keeps (l : Lane) (state : RxState) (s : State) : Keeps s (enterRxState l state s) := by
  rw [enterRxState_eq]
  split
  · exact deriveViews_keeps ((setRx_butViews s l _).trans (enteredRx_keeps l state s).butViews)
  · next h => exact (setRx_keeps_of_fresh (Bool.eq_false_iff.2 h)).trans (enteredRx_keeps l state s)

end Sys2Proof.Machine
end

section
/-! The same of every step of the part that serves no request. -/

namespace Sys2Proof.Machine

open Safety

/-! ### The Merge Unit -/

theorem offerEgress_keeps (n : StreamId) (e : EgressEntry) (s : State) : Keeps s (offerEgress n e s) := by
  unfold offerEgress
  dsimp only
  split
  · next h =>
    simp only [Bool.and_eq_true, decide_eq_true_eq] at h
    refine Keeps.setEgress fun _ => ?_
    rw [List.length_append]
    exact h.2
  · split
    · exact (dereference_keeps _ s).trans ((countStream_keeps _ _ _).trans (countPort_keeps _ _ _))
    · exact countPort_keeps _ _ _

theorem offerGap_keeps (n : StreamId) (first : Seq) (lost : Nat) (discontinuity : Bool) (s : State) :
    Keeps s (offerGap n first lost discontinuity s) := by
  unfold offerGap
  split
  · exact offerEgress_keeps _ _ _
  · exact .refl s

theorem setDelivered_keeps (n : StreamId) (seq : Seq) (epoch : Epoch) (s : State) : Keeps s (setDelivered n seq epoch s) :=
  Keeps.setRun id

theorem declarePiece_keeps (c : ContextId) (n : StreamId) (lost : Nat) (s : State) : Keeps s (declarePiece c n lost s) :=
  (countTimes_keeps _ _ s).trans ((Keeps.setRun (by exact id)).trans ((fire_keeps _ _ _).trans ((offerGap_keeps _ _ _ _ _).trans
    (Keeps.setContext _ _ _))))

theorem declareLost_keeps (c : ContextId) (n : StreamId) (pieces run : Nat) (s : State) :
    Keeps s (declareLost c n pieces run s) := by
  induction pieces generalizing run s with
  | zero => exact .refl s
  | succ k ih =>
    unfold declareLost
    split
    · exact .refl s
    · exact (declarePiece_keeps _ _ _ _).trans (ih _ _)

theorem declareRun_keeps (c : ContextId) (n : StreamId) (run : Nat) (s : State) : Keeps s (declareRun c n run s) :=
  declareLost_keeps _ _ _ _ _

theorem deliver_keeps (n : StreamId) (b : Nat) (seq : Seq) (epoch : Epoch) (s : State) : Keeps s (deliver n b seq epoch s) :=
  (countStream_keeps _ _ s).trans ((setDelivered_keeps _ _ _ _).trans (offerEgress_keeps _ _ _))

theorem releaseHead_keeps (c : ContextId) (n : StreamId) (s : State) : Keeps s (releaseHead c n s) := by
  unfold releaseHead
  dsimp only
  split
  · exact Keeps.setContext _ _ _
  · exact (Keeps.setContext _ _ _).trans (deliver_keeps _ _ _ _ _)

theorem passSlots_keeps (c : ContextId) (n : StreamId) (slots : List (Option Held)) (run : Nat) (s : State) :
    Keeps s (passSlots c n slots run s) := by
  induction slots generalizing run s with
  | nil => exact declareRun_keeps _ _ _ _
  | cons x rest ih =>
    cases x with
    | none => exact ih _ _
    | some h => exact (declareRun_keeps _ _ _ _).trans ((releaseHead_keeps _ _ _).trans (ih _ _))

theorem releaseAll_keeps (c : ContextId) (n : StreamId) (fuel : Nat) (s : State) : Keeps s (releaseAll c n fuel s) := by
  induction fuel generalizing s with
  | zero => exact .refl s
  | succ k ih =>
    unfold releaseAll
    dsimp only
    split
    · exact .refl s
    · exact (Keeps.setContext _ _ _).trans ((releaseHead_keeps _ _ _).trans (ih _))

theorem expireDue_keeps (c : ContextId) (n : StreamId) (fuel : Nat) (s : State) : Keeps s (expireDue c n fuel s) := by
  induction fuel generalizing s with
  | zero => exact .refl s
  | succ k ih =>
    unfold expireDue
    dsimp only
    split
    · split
      · exact .refl s
      · exact (passSlots_keeps _ _ _ _ _).trans (ih _)
    · exact .refl s

theorem evaluateHold_keeps (c : ContextId) (n : StreamId) (hold : Nat) (s : State) : Keeps s (evaluateHold c n hold s) := by
  unfold evaluateHold
  dsimp only
  split
  · exact (Keeps.setContext _ _ _).trans (fire_keeps _ _ _)
  · exact Keeps.setContext _ _ _

theorem autoTick_keeps (s : State) (c : ContextId) : Keeps s (autoTick s c) := by
  unfold autoTick
  dsimp only
  split
  · split
    · split
      · exact evaluateHold_keeps _ _ _ _
      · exact raiseFault_keeps _ _ _
    · exact .refl s
  · exact .refl s

theorem applyHoldWrite_keeps (n : StreamId) (items : List (Nat × Nat)) (s : State) : Keeps s (applyHoldWrite n items s) := by
  unfold applyHoldWrite
  dsimp only
  split
  · exact .refl s
  · split
    · split
      · exact evaluateHold_keeps _ _ _ _
      · split
        · exact Keeps.setContext _ _ _
        · exact .refl s
    · split
      · exact Keeps.setContext _ _ _
      · split
        · exact Keeps.setContext _ _ _
        · exact .refl s

theorem detach_keeps (c : ContextId) (n : StreamId) (s : State) : Keeps s (detach c n s) :=
  (Keeps.setRun (by exact id)).trans (Keeps.setContext _ _ _)

theorem storeAt_keeps (c : ContextId) (n : StreamId) (d : Nat) (a : Arrival) (s : State) : Keeps s (storeAt c n d a s) := by
  unfold storeAt
  dsimp only
  split
  · split
    · exact dereference_keeps _ _
    · exact Keeps.setContext _ _ _
  · exact (countStream_keeps _ _ s).trans ((dereference_keeps _ _).trans (Keeps.setContext _ _ _))

theorem startRun_keeps (c : ContextId) (n : StreamId) (a : Arrival) (s : State) : Keeps s (startRun c n a s) :=
  (Keeps.setContext _ _ _).trans (storeAt_keeps _ _ _ _ _)

theorem announceResync_keeps (n : StreamId) (seq : Seq) (s : State) : Keeps s (announceResync n seq s) :=
  (countStream_keeps _ _ s).trans (offerGap_keeps _ _ _ _ _)

theorem resync_keeps (c : ContextId) (n : StreamId) (a : Arrival) (s : State) : Keeps s (resync c n a s) := by
  unfold resync
  exact (releaseAll_keeps _ _ _ s).trans ((announceResync_keeps _ _ _).trans (startRun_keeps _ _ _ _))

theorem jump_keeps (c : ContextId) (n : StreamId) (d : Nat) (a : Arrival) (s : State) : Keeps s (jump c n d a s) := by
  unfold jump
  exact (passSlots_keeps _ _ _ _ s).trans ((storeAt_keeps _ _ _ _ _).trans (countStream_keeps _ _ _))

theorem lateCell_keeps (n : StreamId) (b : Nat) (s : State) : Keeps s (dereference b (countStream n .late s)) :=
  (countStream_keeps _ _ s).trans (dereference_keeps _ _)

theorem classify_keeps (c : ContextId) (n : StreamId) (a : Arrival) (s : State) : Keeps s (classify c n a s) := by
  unfold classify
  dsimp only
  split
  · exact resync_keeps _ _ _ _
  · split
    · exact storeAt_keeps _ _ _ _ _
    · split
      · exact lateCell_keeps _ _ _
      · split
        · exact jump_keeps _ _ _ _ _
        · exact resync_keeps _ _ _ _

theorem arrive_keeps (c : ContextId) (n : StreamId) (a : Arrival) (s : State) : Keeps s (arrive c n a s) := by
  unfold arrive
  dsimp only
  have h := Keeps.setContext s c { s.context c with arrived := true }
  split
  · exact h.trans (classify_keeps _ _ _ _)
  · split
    · exact h.trans ((announceResync_keeps _ _ _).trans (startRun_keeps _ _ _ _))
    · exact h.trans (startRun_keeps _ _ _ _)

theorem attach_keeps (c : ContextId) (n : StreamId) (epoch : Epoch) (s : State) : Keeps s (attach c n epoch s) := by
  unfold attach
  dsimp only
  have h := (Keeps.setContext s c (attachedContext n (s.entry n) (s.run n) c epoch)).trans
    (Keeps.setRun (n := n) (x := { s.run n with context := some c }) id)
  split
  · exact h.trans (Keeps.setContext _ _ _)
  · exact h.trans (evaluateHold_keeps _ _ _ _)

theorem forwardFilter_keeps (n : StreamId) (a : Arrival) (s : State) : Keeps s (forwardFilter n a s) := by
  have hu : Keeps s (if (s.entry n).merge then countStream n .unmerged s else s) := by
    split
    · exact countStream_keeps _ _ _
    · exact .refl s
  unfold forwardFilter
  dsimp only
  split
  · split
    · exact hu.trans ((announceResync_keeps _ _ _).trans (deliver_keeps _ _ _ _ _))
    · exact hu.trans (deliver_keeps _ _ _ _ _)
  · exact hu.trans (lateCell_keeps _ _ _)

theorem mergeUnit_keeps (n : StreamId) (a : Arrival) (s : State) : Keeps s (mergeUnit n a s) := by
  unfold mergeUnit
  split
  · exact arrive_keeps _ _ _ _
  · split
    · split
      · exact (attach_keeps _ _ _ _).trans (arrive_keeps _ _ _ _)
      · exact (fire_keeps _ _ _).trans (forwardFilter_keeps _ _ _)
    · exact (raiseFault_keeps _ _ _).trans ((dereference_keeps _ _).trans (countLane_keeps _ _ _))

/-! ### Ticks and drains -/

theorem look_zipWith {n : Nat} {α β γ : Type} (f : α → β → γ) (a : Bank n α) (b : Bank n β) (i : Fin n) :
    Bank.look (Vector.zipWith f a b) i = f (a.look i) (b.look i) := by
  simp [Bank.look]

theorem run_refillAll (s : State) (n : StreamId) : (refillAll s).run n = refill (s.entry n) (s.run n) := look_zipWith _ _ _ _

theorem refillAll_keeps (s : State) : Keeps s (refillAll s) :=
  { Keeps.refl s with
    queues := fun q => ⟨q.ingress, q.control, q.cls, q.egress, q.requests⟩
    buckets := fun w n => by
      rw [run_refillAll, refill]
      split
      · exact Nat.min_le_right _ _
      · exact w n }

theorem ticked_get (p : PerLane LaneRx) (now : Time) (l : Lane) : (PerLane.ticked p now).get l = (p.get l).ticked now := by
  cases l <;> rfl

theorem PeerReport.aged_stale (r : PeerReport) : r.aged.stale = r.stale := by
  unfold PeerReport.aged
  split <;> rfl

theorem PeerReport.aged_rx (r : PeerReport) : r.aged.rx = r.rx := by
  unfold PeerReport.aged
  split <;> rfl

/-- A tick of the Lane Receiver changes no input of a view. -/
theorem tickedReceiver_keeps (s : State) (now : Time) :
    Keeps s { s with lrx := { lanes := s.lrx.lanes.ticked now, peer := s.lrx.peer.aged } } :=
  { Keeps.refl s with
    queues := fun q => ⟨q.ingress, q.control, q.cls, q.egress, q.requests⟩
    views := fun w l => by
      refine (w l).trans ?_
      have hx (x : LaneReceiver) : State.txfault { s with lrx := x } l = s.txfault l := by cases l <;> rfl
      simp only [viewByRule, hx, PeerReport.aged_stale, PeerReport.aged_rx, State.rx, ticked_get]
      rfl }

theorem execTick1ms_keeps {s t : State} (h : execTick1ms s = .next t) : Keeps s t := by
  unfold execTick1ms at h
  split at h
  · cases h
    exact .refl s
  · have hf := (refillAll_keeps s).trans (Keeps.foldl autoTick_keeps contextIds (refillAll s))
    generalize contextIds.foldl autoTick (refillAll s) = u at h hf
    obtain rfl := Host.Outcome.next.inj h
    exact hf.trans ((tickedReceiver_keeps u _).trans ((Keeps.setPsc (by rfl) (by rfl)).trans (Keeps.setMga (by exact id))))

theorem execPeerReportStale_keeps {s t : State} (h : execPeerReportStale s = .next t) : Keeps s t := by
  unfold execPeerReportStale at h
  dsimp only at h
  split at h
  · cases h
    exact (deriveViews_keeps ((setPeer_butViews s _).trans (fire_keeps _ _ _).butViews)).trans (derivePeerPosture_keeps _)
  · cases h
    exact .refl s

theorem execStrikeTimerExpiry_keeps {s t : State} (h : execStrikeTimerExpiry s = .next t) : Keeps s t := by
  unfold execStrikeTimerExpiry at h
  split at h
  · cases h
    exact derivePosture_keeps (setPsc_butPosture s _)
  · cases h
    exact .refl s

theorem LaneRx.judged_state (r : LaneRx) (errored : Bool) : (r.judged errored).state = r.state := rfl

theorem execErroredIntervalClose_keeps {l : Lane} {s t : State} (h : execErroredIntervalClose l s = .next t) : Keeps s t := by
  unfold execErroredIntervalClose at h
  dsimp only at h
  split at h
  · cases h
    exact .refl s
  · split at h
    · have hc (e : Bool) : Keeps s (if e then countLane l .erroredIntervals s else s) ∧
          ((if e then countLane l .erroredIntervals s else s).rx l = s.rx l) := by
        cases e
        · exact ⟨.refl s, rfl⟩
        · exact ⟨countLane_keeps _ _ _, (countLane_only _ _ _).rx l⟩
      obtain ⟨hk, hx⟩ := hc ((s.rx l).intervalErrored s.mga.settings.erroredThreshold)
      generalize (if (s.rx l).intervalErrored s.mga.settings.erroredThreshold = true then countLane l .erroredIntervals s
        else s) = u at h hk hx
      have hj := hk.trans (Keeps.setRx (s := u) (l := l)
        (x := (s.rx l).judged ((s.rx l).intervalErrored s.mga.settings.erroredThreshold)) (by rw [hx]; rfl))
      split at h
      · cases h
        exact hj.trans (enterRxState_keeps _ _ _)
      · cases h
        exact hj
    · cases h
      exact Keeps.setRx rfl

theorem execProbeDue_keeps {l : Lane} {s t : State} (h : execProbeDue l s = .next t) : Keeps s t := by
  unfold execProbeDue at h
  split at h <;> cases h
  · exact .refl s
  · exact Keeps.setTx rfl id fun _ => id

theorem purgeQueued_keeps (s : State) (e : QueueEntry) : Keeps s (purgeQueued s e) := by
  unfold purgeQueued
  exact (Keeps.subQueued s _).trans ((countStream_keeps _ _ _).trans ((setDrain_keeps _ _).trans (dereference_keeps _ _)))

theorem purgeClass_keeps (n : StreamId) (s : State) (q : Lane × Fin 4) : Keeps s (purgeClass n s q) := by
  unfold purgeClass
  exact (Keeps.setClassQueue fun h => (List.length_filter_le _ _).trans h).trans (Keeps.foldl purgeQueued_keeps _ _)

theorem purgeStream_keeps (n : StreamId) (s : State) : Keeps s (purgeStream n s) := Keeps.foldl (purgeClass_keeps n) _ s

theorem execDrainTimeout_keeps {s t : State} (h : execDrainTimeout s = .next t) : Keeps s t := by
  unfold execDrainTimeout at h
  split at h
  · cases h
    exact .refl s
  · split at h <;> obtain rfl := Host.Outcome.next.inj h
    · exact (purgeStream_keeps _ s).trans (completeDrain_keeps _)
    · exact .refl s

theorem execDrainCompletion_keeps {s t : State} (h : execDrainCompletion s = .next t) : Keeps s t := by
  unfold execDrainCompletion at h
  split at h
  · cases h
    exact .refl s
  · split at h <;> cases h
    · exact completeDrain_keeps s
    · exact .refl s

/-- A change of the merge contexts alone. -/
theorem setMrg_keeps (s : State) (x : Bank 64 Context) : Keeps s { s with mrg := x } :=
  { Keeps.refl s with queues := fun q => ⟨q.ingress, q.control, q.cls, q.egress, q.requests⟩ }

theorem execTick250ms_keeps {s t : State} (h : execTick250ms s = .next t) : Keeps s t := by
  unfold execTick250ms at h
  split at h <;> cases h
  · exact .refl s
  · exact setMrg_keeps s _

theorem census_keeps (s : State) : Keeps s (census s) := by
  unfold census
  split
  · exact .refl s
  · exact raiseFault_keeps _ _ _

theorem execTick1s_keeps {s t : State} (h : execTick1s s = .next t) : Keeps s t := by
  unfold execTick1s at h
  split at h <;> cases h
  · exact .refl s
  · exact (fire_keeps _ _ s).trans (census_keeps _)

theorem execContextAgeExpiry_keeps {c : ContextId} {s t : State} (h : execContextAgeExpiry c s = .next t) : Keeps s t := by
  unfold execContextAgeExpiry at h
  dsimp only at h
  split at h
  · cases h
    exact .refl s
  · split at h <;> cases h
    · exact detach_keeps _ _ _
    · exact .refl s

theorem execReleaseExpiry_keeps {c : ContextId} {s t : State} (h : execReleaseExpiry c s = .next t) : Keeps s t := by
  unfold execReleaseExpiry at h
  dsimp only at h
  split at h <;> cases h
  · exact .refl s
  · exact expireDue_keeps _ _ _ _

/-! ### Ingress and control cells -/

theorem enqueueRequest_keeps (b : Nat) (s : State) : Keeps s (enqueueRequest b s) := by
  unfold enqueueRequest
  dsimp only
  refine (countStation_keeps .mgmtRequests s).trans ?_
  generalize countStation .mgmtRequests s = u
  split
  · next h =>
    refine (Keeps.setMga fun _ => ?_).trans (dereference_keeps _ _)
    rw [List.length_append]
    exact h
  · exact (Keeps.setMga (by exact id)).trans ((countStation_keeps _ _).trans ((respondInOwnBuffer_keeps _ _ _ _ _ _).trans
      (dereference_keeps _ _)))

theorem routeControl_keeps (fromLane : Bool) (b : Nat) (s : State) : Keeps s (routeControl fromLane b s) := by
  unfold routeControl
  dsimp only
  split
  · split
    · exact enqueueRequest_keeps _ _
    · exact discard_keeps _ _
  · split
    · split
      · exact discard_keeps _ _
      · exact placeControl_keeps _ _
    · split
      · exact controllerRoute_keeps _ _ _
      · exact discard_keeps _ _

theorem execPortCellTake_keeps {p : PortId} {cell : List Byte} {s t : State} (h : execPortCellTake p cell s = .next t) :
    Keeps s t := by
  unfold execPortCellTake at h
  split at h
  · cases h
    split
    · next hs =>
      simp only [State.showsSpace, Bool.and_eq_true, decide_eq_true_eq] at hs
      refine Keeps.setIngress fun _ => ?_
      rw [List.length_append]
      exact hs.2
    · exact .refl s
  · cases h

theorem acceptRequest_keeps (p : PortId) (cell : List Byte) (s : State) : Keeps s (acceptRequest p cell s) := by
  unfold acceptRequest
  dsimp only
  refine (Keeps.setMga (s := s)
    (x := { s.mga with settings := { s.mga.settings with controllerPort := some p } }) id).trans ?_
  split
  · exact undeliverable_keeps _
  · next b t ht => exact (allocateControl_keeps ht).trans (routeControl_keeps _ _ _)

theorem offerCopy_keeps (b : Nat) (n : StreamId) (k : Fin 4) (s : State) (l : Lane) : Keeps s (offerCopy b n k s l) := by
  unfold offerCopy
  dsimp only
  split
  · exact (dereference_keeps _ s).trans (countLane_keeps _ _ _)
  · split
    · next h => exact (joinClass_keeps _ h).trans (Keeps.addQueued _ _)
    · exact (countStream_keeps _ _ s).trans (dereference_keeps _ _)

theorem offerCopies_keeps (b : Nat) (n : StreamId) (k : Fin 4) (ls : List Lane) (s : State) :
    Keeps s (offerCopies b n k ls s) := by
  unfold offerCopies
  dsimp only
  split
  · exact (Keeps.foldl (offerCopy_keeps b n k) ls s).trans (countStream_keeps _ _ _)
  · exact Keeps.foldl (offerCopy_keeps b n k) ls s

/-- An acceptance debits the bucket at most (R46). -/
theorem RunRecord.accepted_level_le (r : RunRecord) (debit : Bool) : (r.accepted debit).level ≤ r.level := by
  unfold RunRecord.accepted
  dsimp only
  split <;> omega

theorem acceptMedia_keeps (b : Nat) (n : StreamId) (demoted : Bool) (k : Fin 4) (ls : List Lane) (s : State) :
    Keeps s (acceptMedia b n demoted k ls s) := by
  unfold acceptMedia
  dsimp only
  have h : Keeps s (countStream n .txCells (s.setRun n ((s.run n).accepted ((s.entry n).rate != 0 && !demoted)))) :=
    (Keeps.setRun fun h => (RunRecord.accepted_level_le _ _).trans h).trans (countStream_keeps _ _ _)
  split
  · exact h.trans ((countStream_keeps _ _ _).trans (offerCopies_keeps _ _ _ _ _))
  · exact h.trans (offerCopies_keeps _ _ _ _ _)

theorem admitMedia_keeps (cell : List Byte) (n : StreamId) (demoted : Bool) (s : State) :
    Keeps s (admitMedia cell n demoted s) := by
  unfold admitMedia
  dsimp only
  split
  · exact countStream_keeps _ _ _
  · split
    · exact countStream_keeps _ _ _
    · next b t ht => exact (allocateMedia_keeps ht).trans (acceptMedia_keeps _ _ _ _ _ _)

theorem checkMedia_keeps (p : PortId) (cell : List Byte) (s : State) : Keeps s (checkMedia p cell s) := by
  unfold checkMedia
  dsimp only
  split
  · exact countPort_keeps _ _ _
  · split
    · exact (raiseFault_keeps _ _ s).trans (countPort_keeps _ _ _)
    · split
      · exact countPort_keeps _ _ _
      · split
        · exact countPort_keeps _ _ _
        · split
          · exact countPort_keeps _ _ _
          · split
            · exact countStream_keeps _ _ _
            · exact admitMedia_keeps _ _ _ _
            · exact admitMedia_keeps _ _ _ _

theorem acceptCell_keeps (p : PortId) (cell : List Byte) (s : State) : Keeps s (acceptCell p cell s) := by
  unfold acceptCell
  dsimp only
  refine (countPort_keeps p .inCells s).trans ?_
  split
  · exact countPort_keeps _ _ _
  · split
    · exact checkMedia_keeps _ _ _
    · split
      · exact acceptRequest_keeps _ _ _
      · exact countPort_keeps _ _ _

theorem execIngressAcceptance_keeps {p : PortId} {s t : State} (h : execIngressAcceptance p s = .next t) : Keeps s t := by
  unfold execIngressAcceptance at h
  split at h
  · cases h
    exact .refl s
  · next cell rest hq =>
    split at h <;> cases h
    · exact .refl s
    · refine (Keeps.setIngress fun hl => ?_).trans (acceptCell_keeps _ _ _)
      rw [hq] at hl
      exact (Nat.le_succ _).trans hl

/-! ### Transmission and reception -/

theorem transmit_keeps (l : Lane) (cell : Cell) (s : State) : Keeps s (transmit l cell s) :=
  { Keeps.refl s with queues := fun q => ⟨q.ingress, q.control, q.cls, q.egress, q.requests⟩ }

theorem setPortOut_keeps (p : PortId) (cell : List Byte) (s : State) : Keeps s (s.setPortOut p cell) :=
  { Keeps.refl s with queues := fun q => ⟨q.ingress, q.control, q.cls, q.egress, q.requests⟩ }

theorem sendFill_keeps (l : Lane) (s : State) : Keeps s (sendFill l s) := (transmit_keeps _ _ s).trans (countLane_keeps _ _ _)

theorem sendProbe_keeps (l : Lane) (s : State) : Keeps s (sendProbe l s) :=
  (transmit_keeps _ _ s).trans ((Keeps.setTx (by rfl) (by exact id) (by exact fun _ => id)).trans ((Keeps.setRx (by rfl)).trans (countLane_keeps _ _ _)))

theorem removeCandidate_keeps (l : Lane) (x : Candidate) (s : State) : Keeps s (removeCandidate l x s) := by
  have htail {α : Type} (q : List α) (m : Nat) (h : q.length ≤ m) : q.tail.length ≤ m := by
    rw [List.length_tail]
    omega
  cases x with
  | control b => exact Keeps.setControl (htail _ _)
  | media k e => exact (Keeps.setClassQueue (htail _ _)).trans (Keeps.subQueued _ _)

theorem arbitrate_keeps (l : Lane) (fuel : Nat) (s : State) : Keeps s (arbitrate l fuel s) := by
  induction fuel generalizing s with
  | zero => exact sendFill_keeps _ _
  | succ k ih =>
    unfold arbitrate
    split
    · exact sendFill_keeps _ _
    · dsimp only
      split
      · exact (removeCandidate_keeps _ _ _).trans ((transmit_keeps _ _ _).trans ((countLane_keeps _ _ _).trans
          (dereference_keeps _ _)))
      · exact (removeCandidate_keeps _ _ _).trans ((countLane_keeps _ _ _).trans ((dereference_keeps _ _).trans (ih _)))

theorem execLaneSlot_keeps {l : Lane} {s t : State} (h : execLaneSlot l s = .next t) : Keeps s t := by
  unfold execLaneSlot at h
  cases h
  split
  · exact sendFill_keeps _ _
  · split
    · exact sendProbe_keeps _ _
    · exact arbitrate_keeps _ _ _

theorem execTxfaultChange_keeps {l : OpticalLane} {asserted : Bool} {s t : State}
    (h : execTxfaultChange l asserted s = .next t) : Keeps s t := by
  unfold execTxfaultChange at h
  cases h
  exact deriveViews_keeps (setPins_butViews s _)

theorem setLoss_keeps (s : State) (l : Lane) (level : Bool) : Keeps s (s.setLoss l level) := Keeps.setPins rfl rfl

theorem execLossOfSignal_keeps {l : Lane} {s t : State} (h : execLossOfSignal l s = .next t) : Keeps s t := by
  unfold execLossOfSignal at h
  cases h
  split
  · exact setLoss_keeps _ _ _
  · exact (setLoss_keeps _ _ _).trans (enterRxState_keeps _ _ _)

theorem execSignalRestored_keeps {l : Lane} {s t : State} (h : execSignalRestored l s = .next t) : Keeps s t := by
  unfold execSignalRestored at h
  cases h
  split
  · exact setLoss_keeps _ _ _
  · exact (setLoss_keeps _ _ _).trans (enterRxState_keeps _ _ _)

theorem LaneRx.searched_state (r : LaneRx) (b : Byte) : (r.searched b).state = r.state := by
  unfold LaneRx.searched
  dsimp only
  split_ifs <;> rfl

theorem huntOn_keeps (l : Lane) (s : State) (b : Byte) : Keeps s (huntOn l s b) := by
  unfold huntOn
  dsimp only
  have h : Keeps s (s.setRx l ((s.rx l).searched b)) := Keeps.setRx (LaneRx.searched_state _ _)
  split
  · split
    · exact h.trans (enterRxState_keeps _ _ _)
    · exact h
  · exact .refl s

theorem execHuntByte_keeps {l : Lane} {b : Byte} {s t : State} (h : execHuntByte l b s = .next t) : Keeps s t := by
  unfold execHuntByte at h
  cases h
  split
  · exact .refl s
  · exact huntOn_keeps _ _ _

theorem takeSample_keeps (l : Lane) (p : Probe) (s : State) : Keeps s (takeSample l p s) := by
  unfold takeSample
  dsimp only
  split
  · exact Keeps.setRx rfl
  · exact countLane_keeps _ _ _

/-- A lane's record with a used probe as the last one seen and the one to echo (R80, steps 1 and 2). -/
def LaneRx.seeing (r : LaneRx) (p : Probe) (now : Time) : LaneRx :=
  { r with
    lastSeen := some { number := p.number, received := now, old := false }
    echo := some { number := p.number, sendTime := p.sendTime, received := now } }

/-- The receive side of the lane once a used probe is seen and its sample taken (R80, steps 1 to 3). -/
def seenProbe (l : Lane) (p : Probe) (s : State) : State :=
  let t := s.setRx l ((s.rx l).seeing p s.now)
  if p.echoValid then takeSample l p t else t

theorem useProbe_eq (l : Lane) (p : Probe) (epoch : Epoch) (s : State) :
    useProbe l p epoch s = derivePeerPosture (deriveViews ((seenProbe l p s).setPeer (p.report l epoch))) := rfl

theorem seenProbe_keeps (l : Lane) (p : Probe) (s : State) : Keeps s (seenProbe l p s) := by
  unfold seenProbe
  dsimp only
  have h : Keeps s (s.setRx l ((s.rx l).seeing p s.now)) := Keeps.setRx rfl
  split
  · exact h.trans (takeSample_keeps _ _ _)
  · exact h

theorem useProbe_keeps (l : Lane) (p : Probe) (epoch : Epoch) (s : State) : Keeps s (useProbe l p epoch s) := by
  rw [useProbe_eq]
  exact (seenProbe_keeps l p s).trans ((deriveViews_keeps (setPeer_butViews _ _)).trans (derivePeerPosture_keeps _))

theorem receiveProbe_keeps (l : Lane) (bs : List Byte) (s : State) : Keeps s (receiveProbe l bs s) := by
  unfold receiveProbe
  dsimp only
  split
  · exact useProbe_keeps _ _ _ _
  · exact countLane_keeps _ _ _

theorem takeMedia_keeps (l : Lane) (cell : Cell) (epoch : Epoch) (s : State) : Keeps s (takeMedia l cell epoch s) := by
  unfold takeMedia
  dsimp only
  refine (countStream_keeps cell.stream .rxCells s).trans ?_
  split
  · exact countStream_keeps _ _ _
  · next b t ht =>
    split
    · exact (allocateMedia_keeps ht).trans (mergeUnit_keeps _ _ _)
    · exact (allocateMedia_keeps ht).trans (forwardFilter_keeps _ _ _)

theorem dispatchMedia_keeps (l : Lane) (cell : Cell) (epoch : Epoch) (s : State) :
    Keeps s (dispatchMedia l cell epoch s) := by
  unfold dispatchMedia
  dsimp only
  split
  · exact countLane_keeps _ _ _
  · split
    · exact (raiseFault_keeps _ _ s).trans (countLane_keeps _ _ _)
    · split
      · exact countLane_keeps _ _ _
      · split
        · exact countLane_keeps _ _ _
        · exact takeMedia_keeps _ _ _ _

theorem dispatchControl_keeps (cell : Cell) (s : State) : Keeps s (dispatchControl cell s) := by
  unfold dispatchControl
  split
  · exact undeliverable_keeps s
  · next b t ht => exact (allocateControl_keeps ht).trans (routeControl_keeps _ _ _)

theorem dispatch_keeps (l : Lane) (kind : CellKind) (bs : List Byte) (s : State) : Keeps s (dispatch l kind bs s) := by
  cases kind with
  | fill => exact .refl s
  | media => exact dispatchMedia_keeps _ _ _ _
  | probe => exact receiveProbe_keeps _ _ _
  | mgmtReq => exact dispatchControl_keeps _ _
  | mgmtRsp => exact dispatchControl_keeps _ _
  | notice => exact dispatchControl_keeps _ _
  | exportCell => exact dispatchControl_keeps _ _

theorem headerFailed_keeps (l : Lane) (bs : List Byte) (s : State) : Keeps s (headerFailed l bs s) := by
  unfold headerFailed
  dsimp only
  refine (countLane_keeps l .rxHdrErr s).trans ?_
  generalize countLane l .rxHdrErr s = u
  split
  · exact (Keeps.setRx (by rfl)).trans ((enterRxState_keeps _ _ _).trans (Keeps.foldl (huntOn_keeps l) _ _))
  · exact Keeps.setRx rfl

theorem examineFields_keeps (l : Lane) (bs : List Byte) (s : State) : Keeps s (examineFields l bs s) := by
  unfold examineFields
  split
  · exact countLane_keeps _ _ _
  · split
    · exact countLane_keeps _ _ _
    · exact (countLane_keeps _ _ s).trans (dispatch_keeps _ _ _ _)

theorem examine_keeps (l : Lane) (bs : List Byte) (s : State) : Keeps s (examine l bs s) := by
  unfold examine
  split
  · dsimp only
    refine (Keeps.setRx (l := l) (x := { s.rx l with badHeaders := 0 }) rfl).trans ?_
    split
    · exact examineFields_keeps _ _ _
    · exact (countLane_keeps l .rxCrcErr _).trans (Keeps.setRx (by rfl))
  · exact headerFailed_keeps _ _ _

theorem execLaneCellReceive_keeps {l : Lane} {cell : List Byte} {s t : State} (h : execLaneCellReceive l cell s = .next t) :
    Keeps s t := by
  unfold execLaneCellReceive at h
  split at h
  · cases h
    split
    · exact examine_keeps _ _ _
    · exact .refl s
  · cases h

/-! ### Delivery -/

theorem handOver_keeps (p : PortId) (cell : List Byte) (s : State) : Keeps s (handOver p cell s) :=
  (setPortOut_keeps _ _ s).trans (countPort_keeps _ _ _)

theorem handBuffered_keeps (p : PortId) (b : Nat) (s : State) : Keeps s (handBuffered p b s).1 := by
  unfold handBuffered
  dsimp only
  split
  · exact (handOver_keeps _ _ s).trans (dereference_keeps _ _)
  · exact (countPort_keeps _ _ s).trans (dereference_keeps _ _)

theorem handEntry_keeps (p : PortId) (e : EgressEntry) (s : State) : Keeps s (handEntry p e s).1 := by
  cases e with
  | media b n seq => exact handBuffered_keeps _ _ _
  | control b => exact handBuffered_keeps _ _ _
  | gap n first lost d => exact (handOver_keeps _ _ s).trans (countPort_keeps _ _ _)

theorem handoverLoop_keeps (p : PortId) (fuel : Nat) (s : State) : Keeps s (handoverLoop p fuel s) := by
  induction fuel generalizing s with
  | zero => exact .refl s
  | succ k ih =>
    unfold handoverLoop
    split
    · exact .refl s
    · next e rest hq =>
      have h : Keeps s (handEntry p e (s.setEgress p rest)).1 := by
        refine (Keeps.setEgress fun hl => ?_).trans (handEntry_keeps _ _ _)
        rw [hq] at hl
        exact (Nat.le_succ _).trans hl
      dsimp only
      split
      · exact h
      · exact h.trans (ih _)

theorem execEgressHandover_keeps {p : PortId} {s t : State} (h : execEgressHandover p s = .next t) : Keeps s t := by
  unfold execEgressHandover at h
  cases h
  split
  · exact handoverLoop_keeps _ _ _
  · exact .refl s

theorem dropAbsent_keeps (p : PortId) (s : State) (e : EgressEntry) : Keeps s (dropAbsent p s e) := by
  cases e with
  | media b n seq => exact (dereference_keeps _ s).trans ((countStream_keeps _ _ _).trans (countPort_keeps _ _ _))
  | gap n first lost d => exact countPort_keeps _ _ _
  | control b => exact (dereference_keeps _ s).trans ((undeliverable_keeps _).trans (countPort_keeps _ _ _))

theorem setPresent_keeps (s : State) (p : PortId) (level : Bool) : Keeps s (s.setPresent p level) := Keeps.setPins rfl rfl

theorem execPresentNegated_keeps {p : PortId} {s t : State} (h : execPresentNegated p s = .next t) : Keeps s t := by
  unfold execPresentNegated at h
  cases h
  split
  · exact setPresent_keeps _ _ _
  · exact (setPresent_keeps _ _ _).trans ((Keeps.setEgress fun _ => Nat.zero_le _).trans
      (Keeps.foldl (dropAbsent_keeps p) _ _))

theorem execPresentAsserted_keeps {p : PortId} {s t : State} (h : execPresentAsserted p s = .next t) : Keeps s t := by
  unfold execPresentAsserted at h
  cases h
  exact setPresent_keeps _ _ _

theorem execStrikePulse_keeps {s t : State} (h : execStrikePulse s = .next t) : Keeps s t := by
  unfold execStrikePulse at h
  cases h
  split
  · exact .refl s
  · exact (Keeps.setPsc (s := s) (x := { s.psc with lastPulse := some s.now }) rfl rfl).trans
      ((countStation_keeps _ _).trans (startStrike_keeps _))

theorem execExportAttempt_keeps {ch : ChannelId} {s t : State} (h : execExportAttempt ch s = .next t) : Keeps s t := by
  unfold execExportAttempt at h
  cases h
  exact exportAttemptWith_keeps fire_keeps _ _

end Sys2Proof.Machine
end

section
/-! The same of the service of requests, of the two resets and of every step; and the statements about the invariants. -/

namespace Sys2Proof.Machine

open Safety

/-! ### The service of a request -/

theorem removeRequest_keeps (s : State) : Keeps s (removeRequest s) :=
  Keeps.setMga fun h => (by rw [List.length_tail]; omega : s.mga.requests.tail.length ≤ 4)

theorem raiseError_keeps (status : Status) (s : State) : Keeps s (raiseError status s) := by
  unfold raiseError
  split
  · exact fire_keeps _ _ _
  · exact .refl s

theorem conclude_keeps (b : Nat) (r : Request) (x : State × Answer) : Keeps x.1 (conclude b r x) := by
  unfold conclude
  split
  · exact (Keeps.storeCell _ _ _).trans ((routeResponse_keeps _ _ _).trans ((raiseError_keeps _ _).trans (removeRequest_keeps _)))
  · exact (dereference_keeps _ _).trans (removeRequest_keeps _)

theorem awaitBuffer_keeps (s : State) : Keeps s (awaitBuffer s) := by
  unfold awaitBuffer
  exact Keeps.setMga id

theorem serve_keeps {step : Instr} {decide : Decide} (hd : ∀ payload s, Keeps s (decide payload s).1) (s : State) :
    Keeps s (serve step decide s) := by
  unfold serve
  split
  · exact .refl s
  · split
    · exact awaitBuffer_keeps s
    · next b t ht => exact (allocateControl_keeps ht).trans ((hd _ _).trans (conclude_keeps _ _ _))

theorem checked_keeps {decide : Decide} (hd : ∀ payload s, Keeps s (decide payload s).1) (payload : List Byte) (s : State) :
    Keeps s (checked decide payload s).1 := by
  unfold checked
  split
  · exact .refl s
  · exact hd _ _

/-- An answer that changes nothing. -/
theorem answer_keeps (status : Status) (result : List Byte) (s : State) : Keeps s (answer status result s).1 := .refl s

theorem decideEcho_keeps (payload : List Byte) (s : State) : Keeps s (decideEcho payload s).1 := by
  unfold decideEcho
  split <;> exact .refl s

theorem decideUnknown_keeps (payload : List Byte) (s : State) : Keeps s (decideUnknown payload s).1 := .refl s

/-! ### Requests of the Stream Table -/

theorem setState_keeps (s : State) (n : StreamId) (state : StreamState) :
    Keeps s (s.setEntry n { s.entry n with state := state }) := Keeps.setEntry rfl

theorem changeState_keeps (n : StreamId) (state : StreamState) (s : State) : Keeps s (changeState n state s) :=
  (setState_keeps s n state).trans (recompute_keeps _)

theorem flushContext_keeps (n : StreamId) (s : State) : Keeps s (flushContext n s) := by
  unfold flushContext
  split
  · exact .refl s
  · exact (releaseAll_keeps _ _ _ _).trans (detach_keeps _ _ _)

theorem startDrain_keeps (payload : List Byte) (source : Fin 8) (n : StreamId) (s : State) :
    Keeps s (startDrain payload source n s).1 := by
  unfold startDrain
  dsimp only
  split
  · exact (changeState_keeps _ _ s).trans (changeState_keeps _ _ _)
  · exact (setDrain_keeps s _).trans (changeState_keeps _ _ _)

theorem transition_keeps (payload : List Byte) (source : Fin 8) (n : StreamId) (target : Nat) (s : State) :
    Keeps s (transition payload source n target s).1 := by
  unfold transition
  dsimp only
  split
  · split
    · exact (Keeps.setRun fun _ => le_rfl).trans (changeState_keeps _ _ _)
    · exact .refl s
  · exact .refl s
  · exact .refl s
  · split
    · exact (flushContext_keeps _ _).trans (changeState_keeps _ _ _)
    · split
      · exact countStation_keeps _ _
      · exact startDrain_keeps _ _ _ _
  · exact (Keeps.setRun fun _ => Nat.min_le_right _ _).trans (changeState_keeps _ _ _)
  · exact (Keeps.setRun fun _ => Nat.zero_le _).trans (changeState_keeps _ _ _)
  · exact .refl s

theorem decideStreamState_keeps (payload : List Byte) (s : State) : Keeps s (decideStreamState payload s).1 := by
  unfold decideStreamState
  dsimp only
  split
  · exact .refl s
  · split
    · exact .refl s
    · split
      · exact .refl s
      · split
        · exact raiseFault_keeps _ _ s
        · exact transition_keeps _ _ _ _ _

theorem movePin_only (n : StreamId) (old new : Option ContextId) (s : State) :
    movePin n old new s = { s with mrg := (movePin n old new s).mrg } := by
  unfold movePin
  split
  · rfl
  · cases old <;> cases new <;> rfl

/-- A write whose bucket is brought under the new burst (R32): the entry and its bucket change together. -/
theorem clampedWrite_keeps (n : StreamId) (e : StreamEntry) (old new : Option ContextId) (s : State) :
    Keeps s (clampLevel n (movePin n old new (s.setEntry n e))) := by
  rw [movePin_only]
  generalize (movePin n old new (s.setEntry n e)).mrg = x
  exact
    { Keeps.refl s with
      queues := fun q => ⟨q.ingress, q.control, q.cls, q.egress, q.requests⟩
      buckets := fun w m => by
        unfold clampLevel
        rw [State.run_setRun, State.entry_setRun]
        split
        · next h =>
          subst h
          exact Nat.min_le_right _ _
        · next h =>
          change (s.run m).level ≤ 16 * ((s.setEntry n e).entry m).burst
          rw [State.entry_setEntry, if_neg h]
          exact w m }

theorem writeStream_keeps (n : StreamId) (items : List (Nat × Nat)) (s : State) : Keeps s (writeStream n items s) :=
  (clampedWrite_keeps n _ _ _ s).trans (applyHoldWrite_keeps _ _ _)

theorem raiseIfHeld_keeps (n : StreamId) (status : Status) (s : State) : Keeps s (raiseIfHeld n status s) := by
  unfold raiseIfHeld
  split
  · exact raiseFault_keeps _ _ _
  · exact .refl s

theorem writeOne_keeps (n : StreamId) (items : List (Nat × Nat)) (s : State) : Keeps s (writeOne n items s).1 := by
  unfold writeOne
  split
  · exact .refl s
  · split
    · dsimp only [answer]
      split
      · exact (writeStream_keeps _ _ _).trans (recompute_keeps _)
      · exact writeStream_keeps _ _ _
    · exact raiseIfHeld_keeps _ _ _

theorem decideStreamWrite_keeps (payload : List Byte) (s : State) : Keeps s (decideStreamWrite payload s).1 := by
  unfold decideStreamWrite
  dsimp only
  split
  · exact .refl s
  · exact writeOne_keeps _ _ _

theorem fillStreams_keeps (items : List (Nat × Nat)) (ids : List StreamId) (k : Nat) (s : State) :
    Keeps s (fillStreams items ids k s).state := by
  induction ids generalizing k s with
  | nil => exact .refl s
  | cons n rest ih =>
    unfold fillStreams
    split
    · exact (writeStream_keeps _ _ _).trans (ih _ _)
    · exact raiseIfHeld_keeps _ _ _

theorem fillAll_keeps (ids : List StreamId) (items : List (Nat × Nat)) (s : State) : Keeps s (fillAll ids items s).1 := by
  unfold fillAll
  dsimp only [answer]
  split
  · exact (fillStreams_keeps _ _ _ _).trans (recompute_keeps _)
  · exact fillStreams_keeps _ _ _ _

theorem decideStreamFill_keeps (payload : List Byte) (s : State) : Keeps s (decideStreamFill payload s).1 := by
  unfold decideStreamFill
  dsimp only
  split
  · exact .refl s
  · split
    · exact .refl s
    · exact fillAll_keeps _ _ _

theorem decideStreamRead_keeps (payload : List Byte) (s : State) : Keeps s (decideStreamRead payload s).1 := by
  unfold decideStreamRead
  dsimp only [answer]
  split
  · exact .refl s
  · split
    · exact .refl s
    · exact raiseFault_keeps _ _ _

/-! ### Requests of the Merge Unit, the Lane Receiver, the counters and the posture -/

theorem verifyContext_keeps (c : ContextId) (s : State) : Keeps s (verifyContext c s) := by
  unfold verifyContext
  dsimp only
  split
  · exact Keeps.setContext _ _ _
  · exact raiseFault_keeps _ _ _

theorem decideContextRead_keeps (payload : List Byte) (s : State) : Keeps s (decideContextRead payload s).1 := by
  unfold decideContextRead
  dsimp only [answer]
  split
  · exact .refl s
  · exact verifyContext_keeps _ _

theorem clearSource_keeps (i : Source) (s : State) : Keeps s (clearSource i s) :=
  Keeps.setSource fun _ h => absurd h (by simp [SourceRecord.quiet])

theorem setOpenCount_keeps (s : State) (k : Nat) : Keeps s { s with openCount := k } :=
  { Keeps.refl s with queues := fun q => ⟨q.ingress, q.control, q.cls, q.egress, q.requests⟩ }

theorem decideLaneRead_keeps (payload : List Byte) (s : State) : Keeps s (decideLaneRead payload s).1 := by
  unfold decideLaneRead
  dsimp only [answer]
  split
  · exact .refl s
  · split
    · exact .refl s
    · exact (setOpenCount_keeps s _).trans (clearSource_keeps _ _)

theorem clearCounters_keeps (rs : List CounterRef) (s : State) : Keeps s (clearCounters rs s) :=
  Keeps.foldl (fun _ _ => Keeps.setCounter _ _ _) rs s

theorem readCounters_keeps (kind : ObjectKind) (index first count : Nat) (clear : Bool) (s : State) :
    Keeps s (readCounters kind index first count clear s).1 := by
  unfold readCounters
  dsimp only [answer]
  split
  · exact .refl s
  · split
    · exact clearCounters_keeps _ _
    · exact .refl s

theorem decideCounterRead_keeps (payload : List Byte) (s : State) : Keeps s (decideCounterRead payload s).1 := by
  unfold decideCounterRead
  split
  · exact .refl s
  · split
    · exact readCounters_keeps _ _ _ _ _ _
    · exact .refl s

theorem decideCounterClear_keeps (payload : List Byte) (s : State) : Keeps s (decideCounterClear payload s).1 := by
  unfold decideCounterClear
  dsimp only [answer]
  split
  · exact .refl s
  · split
    · split
      · exact .refl s
      · exact clearCounters_keeps _ _
    · exact .refl s

theorem decidePostureSet_keeps (payload : List Byte) (s : State) : Keeps s (decidePostureSet payload s).1 := by
  unfold decidePostureSet
  dsimp only [answer]
  split
  · exact .refl s
  · split
    · exact .refl s
    · split
      · exact .refl s
      · exact derivePosture_keeps (setPsc_butPosture s _)

theorem decideStrikeTest_keeps (payload : List Byte) (s : State) : Keeps s (decideStrikeTest payload s).1 := by
  unfold decideStrikeTest
  dsimp only [answer]
  split
  · exact .refl s
  · split
    · exact .refl s
    · exact startStrike_keeps s

/-! ### Requests of the Event Unit: the floor test -/

theorem decideEventRead_keeps (payload : List Byte) (s : State) : Keeps s (decideEventRead payload s).1 := by
  unfold decideEventRead
  split <;> exact .refl s

theorem clearNamed_keeps (set : Nat) (s : State) (i : Source) : Keeps s (clearNamed set s i) := by
  unfold clearNamed
  split
  · exact clearSource_keeps _ _
  · exact .refl s

theorem decideEventClear_keeps (payload : List Byte) (s : State) : Keeps s (decideEventClear payload s).1 := by
  unfold decideEventClear
  dsimp only [answer]
  split
  · exact .refl s
  · split
    · exact .refl s
    · exact Keeps.foldl (clearNamed_keeps _) _ s

/-- Among the sources gone through, and the best before them, none that is pending has a higher level than the one chosen. -/
theorem foldl_higherSource (s : State) (is : List Source) (best : Option Source) :
    (∀ b, best = some b → ∃ top, is.foldl s.higherSource best = some top ∧ (s.source b).level ≤ (s.source top).level) ∧
      (∀ i ∈ is, (s.source i).flag = true →
        ∃ top, is.foldl s.higherSource best = some top ∧ (s.source i).level ≤ (s.source top).level) := by
  induction is generalizing best with
  | nil => exact ⟨fun b hb => ⟨b, hb, le_rfl⟩, fun i hi => absurd hi List.not_mem_nil⟩
  | cons i rest ih =>
    have hbest (b : Source) (hb : best = some b) :
        ∃ j, s.higherSource best i = some j ∧ (s.source b).level ≤ (s.source j).level := by
      subst hb
      simp only [State.higherSource]
      split_ifs with hf hl
      · exact ⟨i, rfl, Nat.le_of_lt hl⟩
      · exact ⟨b, rfl, le_rfl⟩
      · exact ⟨b, rfl, le_rfl⟩
    have hhere (hf : (s.source i).flag = true) :
        ∃ j, s.higherSource best i = some j ∧ (s.source i).level ≤ (s.source j).level := by
      simp only [State.higherSource, hf, if_true]
      cases best with
      | none => exact ⟨i, rfl, le_rfl⟩
      | some b =>
        dsimp only
        split_ifs with hl
        · exact ⟨i, rfl, le_rfl⟩
        · exact ⟨b, rfl, Nat.le_of_not_lt hl⟩
    obtain ⟨ihb, ihi⟩ := ih (s.higherSource best i)
    have hlift {x : Nat} (h : ∃ j, s.higherSource best i = some j ∧ x ≤ (s.source j).level) :
        ∃ top, (i :: rest).foldl s.higherSource best = some top ∧ x ≤ (s.source top).level := by
      obtain ⟨j, hj, hx⟩ := h
      obtain ⟨top, ht, hl⟩ := ihb j hj
      exact ⟨top, ht, hx.trans hl⟩
    refine ⟨fun b hb => hlift (hbest b hb), fun m hm hf => ?_⟩
    rcases List.mem_cons.1 hm with rfl | hm
    · exact hlift (hhere hf)
    · exact ihi m hm hf

/-- The highest pending source has the highest level of those pending (R152). -/
theorem exists_highestOf (s : State) {is : List Source} {i : Source} (hi : i ∈ is) (hf : (s.source i).flag = true) :
    ∃ top, s.highestOf is = some top ∧ (s.source i).level ≤ (s.source top).level := (foldl_higherSource s is none).2 i hi hf

/-- The floor test covers the pending sources again, whatever the levels and the floor were set to (R154). -/
theorem floorTest_keeps {s t : State} (h : t = { s with evu := t.evu }) : Keeps s (floorTest t) := by
  have hmem (j : Source) (hj : j ≠ srcFault) : j ∈ sourceIds.filter (fun i => i != srcFault) := by
    simp [sourceIds, hj]
  have hk (x : EventUnit) (hx : FloorCovers { t with evu := x }) : Keeps s { t with evu := x } := by
    rw [h] at hx ⊢
    exact Keeps.setEvu fun _ => hx
  unfold floorTest
  split
  · next hn =>
    refine hk t.evu fun j hj hf => ?_
    obtain ⟨top, ht, -⟩ := exists_highestOf t (hmem j hj) hf
    rw [hn] at ht
    cases ht
  · next top ht =>
    have hle (j : Source) (hj : j ≠ srcFault) (hf : (t.source j).flag = true) : (t.source j).level ≤ (t.source top).level := by
      obtain ⟨top', ht', hl⟩ := exists_highestOf t (hmem j hj) hf
      rw [ht] at ht'
      cases ht'
      exact hl
    split
    · exact (hk { t.evu with floor := (t.source top).level } hle).trans (sendNotice_keeps _)
    · next hlt => exact hk t.evu fun j hj hf => (hle j hj hf).trans (Nat.le_of_not_lt hlt)

theorem setLevel_only (pairs : List (Nat × Nat)) (s : State) (i : Source) : OnlySources s (setLevel pairs s i) := by
  unfold setLevel
  split
  · split <;> rfl
  · rfl

theorem foldl_setLevel_only (pairs : List (Nat × Nat)) (is : List Source) (s : State) :
    OnlySources s (is.foldl (setLevel pairs) s) := by
  induction is generalizing s with
  | nil => rfl
  | cons i rest ih => exact (setLevel_only pairs s i).trans (ih _)

theorem decideFloorSet_keeps (payload : List Byte) (s : State) : Keeps s (decideFloorSet payload s).1 := by
  unfold decideFloorSet
  dsimp only [answer]
  split
  · exact .refl s
  · split
    · exact .refl s
    · exact floorTest_keeps rfl

theorem decideEventLevels_keeps (payload : List Byte) (s : State) : Keeps s (decideEventLevels payload s).1 := by
  unfold decideEventLevels
  dsimp only [answer]
  split
  · exact .refl s
  · split
    · exact .refl s
    · exact floorTest_keeps (foldl_setLevel_only _ _ s).eventUnit

theorem decideExportSet_keeps (payload : List Byte) (s : State) : Keeps s (decideExportSet payload s).1 := by
  unfold decideExportSet
  dsimp only [answer]
  split
  · split
    · exact .refl s
    · split
      · exact .refl s
      · exact Keeps.setChannel _ _ _
  · exact .refl s

theorem decideExportStart_keeps (payload : List Byte) (s : State) : Keeps s (decideExportStart payload s).1 := by
  unfold decideExportStart
  dsimp only [answer]
  split
  · exact .refl s
  · split
    · exact .refl s
    · split
      · exact .refl s
      · split
        · exact takeFiringWith_keeps fire_keeps _ _
        · exact .refl s

theorem decideExportRead_keeps (payload : List Byte) (s : State) : Keeps s (decideExportRead payload s).1 := by
  unfold decideExportRead
  split
  · exact .refl s
  · split <;> exact .refl s

/-! ### Requests of the station -/

theorem decideStationRead_keeps (payload : List Byte) (s : State) : Keeps s (decideStationRead payload s).1 := by
  unfold decideStationRead
  split <;> exact .refl s

theorem decideStationWrite_keeps (payload : List Byte) (s : State) : Keeps s (decideStationWrite payload s).1 := by
  unfold decideStationWrite
  dsimp only [answer]
  split
  · exact .refl s
  · split
    · exact .refl s
    · exact Keeps.setMga id

theorem endDrain_keeps (s : State) : Keeps s (endDrain s) := by
  unfold endDrain
  split
  · exact .refl s
  · exact suspendDrained_keeps _ s

theorem look_map {n : Nat} {α β : Type} (f : α → β) (a : Bank n α) (i : Fin n) : Bank.look (Vector.map f a) i = f (a.look i) := by
  simp [Bank.look]

theorem tx_emptyAll (s : State) (l : Lane) : (emptyAll s).tx l = (s.tx l).emptied := by cases l <;> rfl

theorem run_emptyAll (s : State) (n : StreamId) : (emptyAll s).run n = { s.run n with queued := 0 } := look_map _ _ _

theorem emptyAll_keeps (s : State) : Keeps s (emptyAll s) where
  queues w :=
    ⟨fun p => by rw [State.ingress]; simp [emptyAll], fun l => by rw [tx_emptyAll]; exact Nat.zero_le _,
      fun l k => by rw [State.classQueue, tx_emptyAll]; simp [LaneTx.emptied],
      fun p => by rw [State.egress]; simp [emptyAll], w.requests⟩
  pool := id
  floor := id
  buckets w n := by
    rw [run_emptyAll]
    exact w n
  posture := id
  views w l := by
    rw [State.view, tx_emptyAll]
    exact (w l).trans (by cases l <;> rfl)

theorem beginRestart_keeps (r : Request) (s : State) : Keeps s (beginRestart r s) :=
  (Keeps.setLck s _).trans ((endDrain_keeps _).trans ((Keeps.setMga fun _ => Nat.zero_le _).trans (emptyAll_keeps _)))

theorem execRestart_keeps {s t : State} (h : execRestart s = .next t) : Keeps s t := by
  unfold execRestart at h
  split at h
  · obtain rfl := Host.Outcome.next.inj h
    exact .refl s
  · split at h
    · obtain rfl := Host.Outcome.next.inj h
      exact awaitBuffer_keeps s
    · next b u hu =>
      split at h <;> obtain rfl := Host.Outcome.next.inj h
      · exact (allocateControl_keeps hu).trans (conclude_keeps b _ (answer .badArgument [] u))
      · exact (allocateControl_keeps hu).trans ((dereference_keeps _ _).trans (beginRestart_keeps _ _))

/-! ### The two resets -/

/-- A queue of a bank of empty ones is empty. -/
theorem length_look_replicate_nil {α : Type} {n : Nat} (i : Fin n) (m : Nat) :
    (Bank.look (Vector.replicate n ([] : List α)) i).length ≤ m := by
  rw [Bank.look_replicate]
  exact Nat.zero_le m

theorem BasePosture.higher_clear (x : BasePosture) : x.higher .clear = x := by cases x <;> rfl

/-- A Posture Controller after a reset is as R129 derives it (R133). -/
theorem PostureController.reset_derived (base : BasePosture) : (PostureController.reset base base.posture).derived = base.posture := by
  simp [PostureController.reset, PostureController.derived, BasePosture.higher_clear]

/-- After either reset every view is UNUSABLE, and with every lane DOWN or HUNT and the peer report stale R55 says the same. -/
theorem viewByRule_of_reset {s : State} {l : Lane} {loss : Bool} {seen : Option LastSeen} (hp : s.lrx.peer.stale = true)
    (hr : s.rx l = .reset loss seen) : viewByRule s l = .unusable := by
  simp only [viewByRule, hp, hr, LaneRx.reset, if_true]
  cases loss <;> simp [viewOf]

theorem powerOn_queues (strap : Fin 2) (pins : Pins) (pool : Pool) (k : Nat) (q : List Instr) :
    QueuesWithin (State.powerOn strap pins pool k q) where
  ingress _ := length_look_replicate_nil _ _
  control l := by cases l <;> exact Nat.zero_le _
  cls l k := by cases l <;> exact length_look_replicate_nil _ _
  egress _ := length_look_replicate_nil _ _
  requests := Nat.zero_le _

theorem powerOn_source (strap : Fin 2) (pins : Pins) (pool : Pool) (k : Nat) (q : List Instr) (i : Source) :
    (State.powerOn strap pins pool k q).source i = .quiet (if i = srcFault then 7 else 0) := by
  show Bank.look (Bank.put (Vector.replicate 23 (SourceRecord.quiet 0)) 0 (.quiet 7)) i = _
  rw [Bank.look_put, Bank.look_replicate]
  exact (apply_ite SourceRecord.quiet (i = srcFault) 7 0).symm

theorem powerOn_floor (strap : Fin 2) (pins : Pins) (pool : Pool) (k : Nat) (q : List Instr) :
    FloorCovers (State.powerOn strap pins pool k q) := fun i _ hf => by
  rw [powerOn_source] at hf
  cases hf

theorem powerOn_buckets (strap : Fin 2) (pins : Pins) (pool : Pool) (k : Nat) (q : List Instr) :
    BucketsWithin (State.powerOn strap pins pool k q) := fun n => by
  have h : (State.powerOn strap pins pool k q).run n = .cleared := Bank.look_replicate _ _
  rw [h]
  exact Nat.zero_le _

theorem powerOn_posture (strap : Fin 2) (pins : Pins) (pool : Pool) (k : Nat) (q : List Instr) :
    PostureDerived (State.powerOn strap pins pool k q) := rfl

theorem powerOn_views (strap : Fin 2) (pins : Pins) (pool : Pool) (k : Nat) (q : List Instr) :
    ViewsDerived (State.powerOn strap pins pool k q) := fun l => by
  cases l <;> exact (viewByRule_of_reset rfl rfl).symm

theorem execPowerOnReset_keeps {strap : Fin 2} {s t : State} (h : execPowerOnReset strap s = .next t) : Keeps s t := by
  obtain rfl := Host.Outcome.next.inj h
  exact ⟨fun _ => powerOn_queues _ _ _ _ _, fun w => Pool.wf_freed w, fun _ => powerOn_floor _ _ _ _ _,
    fun _ => powerOn_buckets _ _ _ _ _, fun _ => powerOn_posture _ _ _ _ _, fun _ => powerOn_views _ _ _ _ _⟩

theorem run_restartedBlocks (s : State) (n : StreamId) :
    (restartedBlocks s).run n = (s.run n).restarted (s.entry n) (s.keepsContext (s.run n)) := look_zipWith _ _ _ _

theorem source_restartedBlocks (s : State) (i : Source) : (restartedBlocks s).source i = (s.source i).restarted := look_map _ _ _

theorem restartedBlocks_keeps (s : State) : Keeps s (restartedBlocks s) where
  queues w := ⟨w.ingress, fun l => by cases l <;> exact Nat.zero_le _,
    fun l k => by cases l <;> exact length_look_replicate_nil _ _, w.egress, w.requests⟩
  pool w := Pool.wf_freed w
  floor _ i _ hf := by
    rw [source_restartedBlocks] at hf
    cases hf
  buckets _ n := by
    rw [run_restartedBlocks]
    exact le_rfl
  posture _ := (PostureController.reset_derived s.psc.base).symm
  views _ l := by
    cases l <;> exact (viewByRule_of_reset rfl rfl).symm

theorem completedLoad_keeps (s : State) : Keeps s (completedLoad s) := Keeps.foldl (fun _ _ => Keeps.setLoad _ _ _) _ s

theorem execRestartCompletion_keeps {s t : State} (h : execRestartCompletion s = .next t) : Keeps s t := by
  unfold execRestartCompletion at h
  split at h
  · obtain rfl := Host.Outcome.next.inj h
    exact (restartedBlocks_keeps s).trans ((completedLoad_keeps _).trans (Keeps.setMga (by exact id)))
  · obtain rfl := Host.Outcome.next.inj h
    exact .refl s

theorem execRestartResponse_keeps {s t : State} (h : execRestartResponse s = .next t) : Keeps s t := by
  unfold execRestartResponse at h
  split at h
  · split at h
    · split at h
      · obtain rfl := Host.Outcome.next.inj h
        exact .refl s
      · next b u hu =>
        obtain rfl := Host.Outcome.next.inj h
        exact (Keeps.allocate hu).trans ((routeResponse_keeps _ _ _).trans ((raiseIfLow_keeps fire_keeps _ _).trans
          (Keeps.setMga (by exact id))))
    · obtain rfl := Host.Outcome.next.inj h
      exact .refl s
  · obtain rfl := Host.Outcome.next.inj h
    exact .refl s

/-! ### Every step -/

/-- The service of a request by a step of its own. -/
theorem served_keeps {step : Instr} {decide : Decide} (hd : ∀ payload s, Keeps s (decide payload s).1) {s t : State}
    (h : Host.Outcome.next (serve step decide s) = (.next t : Host.Outcome State Fault Refusal)) : Keeps s t := by
  obtain rfl := Host.Outcome.next.inj h
  exact serve_keeps hd s

theorem exec_keeps {c : Instr} {s t : State} (h : exec c s = .next t) : Keeps s t := by
  cases c with
  | powerOnReset strap => exact execPowerOnReset_keeps h
  | tick1ms => exact execTick1ms_keeps h
  | peerReportStale => exact execPeerReportStale_keeps h
  | erroredIntervalClose l => exact execErroredIntervalClose_keeps h
  | probeDue l => exact execProbeDue_keeps h
  | strikeTimerExpiry => exact execStrikeTimerExpiry_keeps h
  | drainTimeout => exact execDrainTimeout_keeps h
  | drainCompletion => exact execDrainCompletion_keeps h
  | tick250ms => exact execTick250ms_keeps h
  | contextAgeExpiry c => exact execContextAgeExpiry_keeps h
  | tick1s => exact execTick1s_keeps h
  | portCellTake p cell => exact execPortCellTake_keeps h
  | ingressAcceptance p => exact execIngressAcceptance_keeps h
  | laneSlot l => exact execLaneSlot_keeps h
  | lossOfSignal l => exact execLossOfSignal_keeps h
  | signalRestored l => exact execSignalRestored_keeps h
  | huntByte l b => exact execHuntByte_keeps h
  | laneCellReceive l cell => exact execLaneCellReceive_keeps h
  | releaseExpiry c => exact execReleaseExpiry_keeps h
  | egressHandover p => exact execEgressHandover_keeps h
  | presentNegated p => exact execPresentNegated_keeps h
  | presentAsserted p => exact execPresentAsserted_keeps h
  | txfaultChange l asserted => exact execTxfaultChange_keeps h
  | strikePulse => exact execStrikePulse_keeps h
  | exportAttempt ch => exact execExportAttempt_keeps h
  | echo => exact served_keeps (checked_keeps decideEcho_keeps) h
  | streamRead => exact served_keeps (checked_keeps decideStreamRead_keeps) h
  | streamWrite => exact served_keeps (checked_keeps decideStreamWrite_keeps) h
  | streamFill => exact served_keeps (checked_keeps decideStreamFill_keeps) h
  | streamState => exact served_keeps decideStreamState_keeps h
  | contextRead => exact served_keeps (checked_keeps decideContextRead_keeps) h
  | laneRead => exact served_keeps (checked_keeps decideLaneRead_keeps) h
  | counterRead => exact served_keeps (checked_keeps decideCounterRead_keeps) h
  | counterClear => exact served_keeps (checked_keeps decideCounterClear_keeps) h
  | postureSet => exact served_keeps (checked_keeps decidePostureSet_keeps) h
  | strikeTest => exact served_keeps (checked_keeps decideStrikeTest_keeps) h
  | eventRead => exact served_keeps (checked_keeps decideEventRead_keeps) h
  | eventClear => exact served_keeps (checked_keeps decideEventClear_keeps) h
  | eventLevels => exact served_keeps (checked_keeps decideEventLevels_keeps) h
  | floorSet => exact served_keeps (checked_keeps decideFloorSet_keeps) h
  | exportSet => exact served_keeps (checked_keeps decideExportSet_keeps) h
  | exportStart => exact served_keeps (checked_keeps decideExportStart_keeps) h
  | exportRead => exact served_keeps (checked_keeps decideExportRead_keeps) h
  | stationRead => exact served_keeps (checked_keeps decideStationRead_keeps) h
  | stationWrite => exact served_keeps (checked_keeps decideStationWrite_keeps) h
  | unknownCommand => exact served_keeps decideUnknown_keeps h
  | restart => exact execRestart_keeps h
  | restartCompletion => exact execRestartCompletion_keeps h
  | restartResponse => exact execRestartResponse_keeps h

theorem withPending_keeps (s : State) (q : List Instr) : Keeps s (s.withPending q) :=
  { Keeps.refl s with queues := fun w => ⟨w.ingress, w.control, w.cls, w.egress, w.requests⟩ }

theorem idle_keeps (s : State) : Keeps s (idle s) := by
  unfold idle
  split
  · exact (Keeps.setLck s _).trans (withPending_keeps _ _)
  · exact withPending_keeps s _

/-- A step keeps every invariant that the state before it meets. -/
theorem step_keeps {s t : State} (h : step s = .next t) : Keeps s t := by
  unfold step at h
  split at h
  · obtain rfl := Host.Outcome.next.inj h
    exact idle_keeps s
  · exact (withPending_keeps s _).trans (exec_keeps h)

/-! ### The statements -/

/-- Settles O58: every step keeps every invariant, the capacities of the queues and the form of the buffers among them. -/
theorem everyStepKeepsStores : Obligations.EveryStepKeepsStores :=
  ⟨fun _ _ hs h => (step_keeps h).queues hs, fun _ _ hs h => (step_keeps h).pool hs⟩

/-- Settles O59: the same of the floor over the pending sources and of the buckets. -/
theorem everyStepKeepsLevels : Obligations.EveryStepKeepsLevels :=
  ⟨fun _ _ hs h => (step_keeps h).floor hs, fun _ _ hs h => (step_keeps h).buckets hs⟩

/-- Settles O60: the same of the effective posture and of the views. -/
theorem everyStepKeepsDerived : Obligations.EveryStepKeepsDerived :=
  ⟨fun _ _ hs h => (step_keeps h).posture hs, fun _ _ hs h => (step_keeps h).views hs⟩

/-- Settles O57: the reset state is one power-on state, whatever strap, pins and pool. -/
theorem resetSound : Obligations.ResetSound :=
  ⟨powerOn_queues _ _ _ _ _, powerOn_floor _ _ _ _ _, powerOn_buckets _ _ _ _ _, powerOn_posture _ _ _ _ _,
    powerOn_views _ _ _ _ _, rfl⟩

/-- Settles O1: by the definition of a step, for a queue that is not empty. -/
theorem stepRunsFront : Obligations.StepRunsFront := fun _ _ _ => rfl

end Sys2Proof.Machine
end

section
/-! The effects that the statements are built of: a count away from the half mark, a buffer granted and given back, a firing of a silent
source. One equation says what each of the model's operations then does, and one where each stands in the state. -/

namespace Sys2Proof.Machine

open Safety

/-! ### Counters -/

/-- The counter block with one counter written. -/
def CounterBlock.put (c : CounterBlock) (r : CounterRef) (x : Counter) : CounterBlock :=
  match r with
  | .stream n i => { c with streams := Bank.put c.streams n ((Bank.look c.streams n).put i x) }
  | .lane l i => { c with lanes := c.lanes.set l ((c.lanes.get l).put i x) }
  | .port p i => { c with ports := Bank.put c.ports p ((Bank.look c.ports p).put i x) }
  | .station i => { c with station := Bank.put c.station i x }

/-- The counter block's value of a counter. -/
def CounterBlock.get (c : CounterBlock) : CounterRef → Counter
  | .stream n i => (Bank.look c.streams n).look i
  | .lane l i => (c.lanes.get l).look i
  | .port p i => (Bank.look c.ports p).look i
  | .station i => Bank.look c.station i

theorem setCounter_eq (s : State) (r : CounterRef) (x : Counter) : s.setCounter r x = s.setCnt (s.cnt.put r x) := by
  cases r <;> rfl

theorem counter_eq (s : State) (r : CounterRef) : s.counter r = s.cnt.get r := by
  cases r <;> rfl

/-- A bump touches the counter block alone. -/
theorem bump_eq (r : CounterRef) (s : State) : bump r s = s.setCnt (s.cnt.put r (s.cnt.get r).increment) := by
  rw [bump, setCounter_eq, counter_eq]

theorem counter_bump (r q : CounterRef) (s : State) :
    (bump r s).counter q = if q = r then (s.counter r).increment else s.counter q := State.counter_setCounter _ _ _ _

theorem count_bump {s : State} {r : CounterRef} (h : (s.counter r).atHalf = false) : count r s = bump r s := count_calm h

/-- Counters other than the one bumped stay away from their half marks. -/
theorem atHalf_bump_ne {s : State} {r q : CounterRef} (hne : q ≠ r) (h : (s.counter q).atHalf = false) :
    ((bump r s).counter q).atHalf = false := by
  rw [counter_bump, if_neg hne]
  exact h

/-! ### Buffers -/

/-- The last reference let go (R10). -/
theorem dereference_returned {s : State} {b : Nat} (h : (s.buffer b).refs = 1) : dereference b s = returned b s := by
  simp only [dereference, State.dropReference, h]
  rfl

/-- One of several references let go (R10). -/
theorem dereference_shared {s : State} {b k : Nat} (h : (s.buffer b).refs = k + 2) :
    dereference b s = s.setBuffer b { s.buffer b with refs := k + 1 } := by
  simp only [dereference, State.dropReference, h]
  rfl

theorem allocateMedia_granted {s : State} {k : Fin 4} {b : Nat} {bs : List Nat} (h : Grants s (Config.mediaThreshold k) b bs)
    (refs : Nat) (cell : Cell) : allocateMedia k refs cell s = some (b, granted b bs refs cell s) := by
  have ha : s.allocate (Config.mediaThreshold k) refs cell = some (b, _) :=
    State.allocate_eq_some.2 ⟨bs, h.above, h.free, rfl⟩
  simp [allocateMedia, allocateWith, ha, raiseIfLow, Config.bufferLowMark, h.notLow, granted]

theorem allocateMedia_none {s : State} {k : Fin 4} (h : s.bfm.freeCount ≤ Config.mediaThreshold k) (refs : Nat) (cell : Cell) :
    allocateMedia k refs cell s = none := by
  simp [allocateMedia, allocateWith, State.allocate, Nat.not_lt.2 h]

/-- A buffer just granted with a reference holds what it was granted for. -/
theorem buffer_granted (b : Nat) (bs : List Nat) {refs : Nat} (hr : refs ≠ 0) (cell : Cell) (s : State) :
    (granted b bs refs cell s).buffer b = { refs := refs, cell := cell, checkAgrees := true } :=
  Pool.read_write_self_of_ne _ _ (Buffer.ne_unlisted_of_refs hr)

/-! ### Events -/

theorem undeliverable_silent {s : State} (hc : (s.counter (.station StationCounter.undeliverable.id)).atHalf = false)
    (hs : Silent s srcUndeliverable) : undeliverable s = undelivered s := by
  have hs' : Silent (bump (.station StationCounter.undeliverable.id) s) srcUndeliverable := ⟨hs.notFault, hs.unbound, hs.quiet⟩
  unfold undeliverable undeliverableWith
  rw [← count, count_bump hc, fire_flagged hs']
  rfl

theorem flaggedAs_setFlag {s : State} {src : Source} (h : (s.source src).flag = false) (d : Detail) :
    flaggedAs src d s = s.setFlag src d := by simp [flaggedAs, h]

theorem flaggedAs_repeatFlag {s : State} {src : Source} (h : (s.source src).flag = true) (d : Detail) :
    flaggedAs src d s = s.repeatFlag src := by simp [flaggedAs, h]

/-- A firing of a silent source writes its own record. -/
theorem flaggedAs_eq (src : Source) (d : Detail) (s : State) :
    flaggedAs src d s = s.setSource src (if (s.source src).flag
      then { s.source src with repeats := min ((s.source src).repeats + 1) 65535 }
      else { s.source src with flag := true, repeats := 0, detail := d }) := by
  unfold flaggedAs
  split <;> rfl

end Sys2Proof.Machine
end

section
/-! The passing of time with nothing due (R15), and what power-on sets (R36 and the reset table of each chapter). -/

namespace Sys2Proof.Machine

open Safety

/-! ### The steps of one microsecond -/

section Steps

variable (s : State)

theorem tick1ms_mem_millisecondSteps : Instr.tick1ms ∈ s.millisecondSteps := by simp [State.millisecondSteps]

/-- The slower ticks are no part of the 1 ms tick. -/
theorem not_mem_millisecondSteps {i : Instr} (h : i = .tick250ms ∨ i = .tick1s) : i ∉ s.millisecondSteps := by
  unfold State.millisecondSteps
  cases s.mga.restart <;> cases s.mga.drain <;> rcases h with rfl | rfl <;> simp

theorem not_mem_slotSteps {i : Instr} (h : ∀ l, i ≠ .laneSlot l) : i ∉ s.slotSteps := by
  unfold State.slotSteps
  split <;> simp [List.replicate, h]

theorem not_mem_acceptanceSteps {i : Instr} (h : ∀ p, i ≠ .ingressAcceptance p) : i ∉ s.acceptanceSteps := by
  unfold State.acceptanceSteps
  split <;> simp [h]

/-- Outside a warm restart each tick comes at its multiple (R15). -/
theorem mem_tickSteps (hr : s.restarting = false) :
    (Instr.tick1ms ∈ s.tickSteps ↔ s.lck.phase % 1000 = 0) ∧ (Instr.tick250ms ∈ s.tickSteps ↔ s.lck.phase % 250000 = 0) ∧
      (Instr.tick1s ∈ s.tickSteps ↔ s.lck.phase = 0) := by
  have h250 := not_mem_millisecondSteps s (.inl rfl)
  have h1s := not_mem_millisecondSteps s (.inr rfl)
  unfold State.tickSteps
  by_cases h : s.lck.phase % 1000 = 0
  · have hd : s.lck.phase = 0 → s.lck.phase % 250000 = 0 := fun e => by rw [e]
    simp only [h, ne_eq, not_true_eq_false, if_false, hr, Bool.false_eq_true, List.mem_append]
    refine ⟨iff_of_true (.inl (.inl (tick1ms_mem_millisecondSteps s))) trivial, ?_, ?_⟩
    · by_cases h2 : s.lck.phase % 250000 = 0 <;> by_cases h3 : s.lck.phase = 0 <;> simp [h250, h2, h3]
    · by_cases h2 : s.lck.phase % 250000 = 0 <;> by_cases h3 : s.lck.phase = 0 <;> simp [h1s, h2, h3]
  · simp only [h, ne_eq, not_false_eq_true, if_true, List.not_mem_nil, false_iff]
    refine ⟨trivial, ?_, ?_⟩ <;> omega

end Steps

/-- Settles O2: an empty queue with nothing due lets one microsecond pass, and its ticks are those of the new phase. -/
theorem idleMicrosecond : Obligations.IdleMicrosecond := by
  intro s hp hi
  let t := s.setLck s.lck.advanced
  refine ⟨t.tickSteps ++ t.slotSteps ++ t.acceptanceSteps, ?_, fun hr => ?_⟩
  · rw [step, hp]
    exact congrArg Host.Outcome.next (if_pos hi)
  · have hmem (i : Instr) (hl : ∀ l, i ≠ .laneSlot l) (ha : ∀ p, i ≠ .ingressAcceptance p) :
        i ∈ t.tickSteps ++ t.slotSteps ++ t.acceptanceSteps ↔ i ∈ t.tickSteps := by
      simp [not_mem_slotSteps t hl, not_mem_acceptanceSteps t ha]
    obtain ⟨h1ms, h250ms, h1s⟩ := mem_tickSteps t hr
    exact ⟨(hmem .tick1ms nofun nofun).trans h1ms, (hmem .tick250ms nofun nofun).trans h250ms, (hmem .tick1s nofun nofun).trans h1s⟩

/-! ### Power-on -/

/-- No buffer of a freed pool has a reference (R14). -/
theorem Pool.read_freed_refs (p : Pool) (b : Nat) : (Pool.read (Pool.freed p) b).refs = 0 := by
  induction p with
  | nil => rfl
  | cons e rest ih =>
    obtain ⟨k, x⟩ := e
    simp only [Pool.freed]
    split
    · exact ih
    · simp only [Pool.read]
      split
      · rfl
      · exact ih

/-- Settles O3: each bank holds its one power-on value at every place. -/
theorem powerOnReset : Obligations.PowerOnReset := by
  intro strap s
  refine ⟨_, rfl, rfl, rfl, ?free, rfl, fun b => Pool.read_freed_refs _ b, fun n => Bank.look_replicate _ _,
    fun n => Bank.look_replicate _ _, fun p => ⟨Bank.look_replicate _ _, Bank.look_replicate _ _⟩, fun l => ?tx, fun l => ?rx, rfl,
    fun c => Bank.look_replicate _ _, rfl, fun r => ?counter, fun i => powerOn_source _ _ _ _ _ i, rfl,
    fun ch => Bank.look_replicate _ _, rfl⟩
  case free => exact List.range_eq_range'.symm
  case tx => cases l <;> rfl
  case rx => cases l <;> rfl
  case counter =>
    cases r with
    | stream n i => exact (congrArg (Bank.look · i) (Bank.look_replicate n _)).trans (Bank.look_replicate i _)
    | lane l i => cases l <;> exact Bank.look_replicate i _
    | port p i => exact (congrArg (Bank.look · i) (Bank.look_replicate p _)).trans (Bank.look_replicate i _)
    | station i => exact Bank.look_replicate i _

end Sys2Proof.Machine
end

section
/-! Plan evaluation against the views (R57), and the layout of the cells and probes that a lane carries (R1, R3, section 1.4). -/

namespace Sys2Proof.Machine

open Safety

/-! ### The choice of a lane (R57, R61) -/

section Views

variable {s : State}

theorem mem_working {ls : List Lane} {l : Lane} : l ∈ s.working ls ↔ l ∈ ls ∧ s.view l ≠ .unusable := by
  simp [State.working]

/-- The first lane of an order with a view is found, whatever stands before it with another. -/
theorem find_first_view {ls before after : List Lane} {l : Lane} {good : View} (h : ls = before ++ l :: after)
    (hl : s.view l = good) (hb : ∀ m ∈ before, s.view m ≠ good) : ls.find? (fun m => s.view m == good) = some l := by
  rw [h, List.find?_append, List.find?_eq_none.2 (by simpa using hb), List.find?_cons, hl]
  simp

theorem preferred_of_firstOf {ls : List Lane} {l : Lane} (h : FirstOf s.view ls l) : s.preferred ls = some l := by
  unfold State.preferred
  rcases h with ⟨before, after, ho, hl, hb⟩ | ⟨hn, before, after, ho, hl, hb⟩
  · rw [find_first_view ho hl hb]
  · rw [List.find?_eq_none.2 (by simpa using hn)]
    exact find_first_view ho hl hb

theorem preferred_none {ls : List Lane} (h : ∀ l ∈ ls, s.view l = .unusable) : s.preferred ls = none := by
  have hn (good : View) (hg : good ≠ .unusable) : ls.find? (fun l => s.view l == good) = none :=
    List.find?_eq_none.2 fun l hl => by simp [h l hl, Ne.symm hg]
  rw [State.preferred, hn .usable nofun]
  exact hn .degraded nofun

theorem evaluate_nodup (p : Plan) : (s.evaluate p).Nodup := by
  have hw (ls : List Lane) (h : ls.Nodup) : (s.working ls).Nodup := h.filter _
  have ho (x : Option Lane) : x.toList.Nodup := by cases x <;> simp
  cases p with
  | off => exact List.nodup_nil
  | a | b | c | aAndB | aAndBAndC => exact hw _ (by decide)
  | aThenB | bThenA | aThenBThenC => exact ho _
  | aAndBElseC =>
    simp only [State.evaluate]
    split <;> exact hw _ (by decide)

/-- A single plan yields its lane while that is not UNUSABLE. -/
theorem working_single (l : Lane) :
    (s.view l ≠ .unusable → s.working [l] = [l]) ∧ (¬ s.view l ≠ .unusable → s.working [l] = []) := by
  constructor <;> intro h <;> simpa [State.working] using h

/-- A protected plan yields the preferred lane of its order. -/
theorem evaluate_protected {p : Plan} (h : p ∈ [Plan.aThenB, .bThenA, .aThenBThenC]) :
    s.evaluate p = (s.preferred (planNames p)).toList := by
  simp only [List.mem_cons, List.not_mem_nil, or_false] at h
  rcases h with rfl | rfl | rfl <;> rfl

theorem working_eq_nil {ls : List Lane} : s.working ls = [] ↔ ∀ l ∈ ls, s.view l = .unusable := by
  simp [State.working]

theorem mem_evaluate_aAndBElseC (l : Lane) : l ∈ s.evaluate .aAndBElseC ↔
    ((l = .a ∨ l = .b) ∧ s.view l ≠ .unusable) ∨
      (l = .c ∧ ¬ s.view .a ≠ .unusable ∧ ¬ s.view .b ≠ .unusable ∧ s.view .c ≠ .unusable) := by
  have hnil : s.working [.a, .b] = [] ↔ s.view .a = .unusable ∧ s.view .b = .unusable := by simp [working_eq_nil]
  simp only [State.evaluate]
  by_cases h : s.working [.a, .b] = []
  · rw [if_pos h, mem_working]
    obtain ⟨ha, hb⟩ := hnil.1 h
    cases l <;> simp [ha, hb]
  · rw [if_neg h, mem_working]
    have hn := mt hnil.2 h
    cases l <;> simp_all

end Views

/-- Settles O15: the table of R57 by the plans' three shapes. -/
theorem plansEvaluate : Obligations.PlansEvaluate := by
  intro s
  refine ⟨evaluate_nodup, rfl, fun p l h => ?single, fun p hp => ⟨fun l hl => ?first, fun hn => ?none⟩, fun l => ?both,
    mem_evaluate_aAndBElseC, fun l => ?three⟩
  case single =>
    simp only [List.mem_cons, List.not_mem_nil, or_false, Prod.mk.injEq] at h
    rcases h with ⟨rfl, rfl⟩ | ⟨rfl, rfl⟩ | ⟨rfl, rfl⟩ <;> exact working_single _
  case first => rw [evaluate_protected hp, preferred_of_firstOf hl]; rfl
  case none =>
    rw [evaluate_protected hp, preferred_none fun l hl => not_not.1 (hn l hl)]
    rfl
  case both => exact mem_working.trans (and_congr_left' (by simp))
  case three => exact mem_working.trans (and_iff_right (by cases l <;> decide))

/-! ### Bytes and their places -/

theorem byte_toNat {n : Nat} (h : n < 256) : (byte n).toNat = n := Nat.mod_eq_of_lt h

theorem byteAt_append_left {xs ys : List Byte} {i : Nat} (h : i < xs.length) : byteAt (xs ++ ys) i = byteAt xs i :=
  List.getD_append _ _ _ _ h

theorem byteAt_append_right {xs ys : List Byte} {i : Nat} (h : xs.length ≤ i) :
    byteAt (xs ++ ys) i = byteAt ys (i - xs.length) :=
  List.getD_append_right _ _ _ _ h

theorem byte_lo (n : Nat) : (byte n).toNat = n % 256 := rfl

/-- A 16-bit number is read back from its two bytes. -/
theorem nat16At_be16 {n : Nat} (h : n < 65536) (xs ys : List Byte) : nat16At (xs ++ be16 n ++ ys) xs.length = n := by
  have h0 : byteAt (xs ++ be16 n ++ ys) xs.length = byte (n / 256) := by simp [byteAt, be16]
  have h1 : byteAt (xs ++ be16 n ++ ys) (xs.length + 1) = byte n := by simp [byteAt, be16]
  rw [nat16At, h0, h1, byte_lo, byte_lo]
  omega

/-- A 32-bit number is read back from its four bytes. -/
theorem nat32At_be32 {n : Nat} (h : n < 4294967296) (xs ys : List Byte) : nat32At (xs ++ be32 n ++ ys) xs.length = n := by
  have h0 : byteAt (xs ++ be32 n ++ ys) xs.length = byte (n / 16777216) := by simp [byteAt, be32]
  have h1 : byteAt (xs ++ be32 n ++ ys) (xs.length + 1) = byte (n / 65536) := by simp [byteAt, be32]
  have h2 : byteAt (xs ++ be32 n ++ ys) (xs.length + 2) = byte (n / 256) := by simp [byteAt, be32]
  have h3 : byteAt (xs ++ be32 n ++ ys) (xs.length + 3) = byte n := by simp [byteAt, be32]
  rw [nat32At, nat16At, nat16At, h0, h1, h2, h3, byte_lo, byte_lo, byte_lo, byte_lo]
  omega

theorem length_padTo {n : Nat} {bs : List Byte} (h : bs.length ≤ n) : (padTo n bs).length = n := by
  simp [padTo, h]

/-! ### The link cell -/

section LinkCell

variable (c : Cell) (l : Lane) (epoch : Epoch)

theorem length_linkHeader : (linkHeader c l epoch).length = 7 := by
  unfold linkHeader
  split <;> rfl

/-- The 124 bytes that the cell CRC covers. -/
def linkBody : List Byte := linkHeader c l epoch ++ [crc8 (linkHeader c l epoch)] ++ padTo 116 c.payload

theorem linkCell_eq : linkCell c l epoch = linkBody c l epoch ++ be32 (crc32 (linkBody c l epoch)).toNat := rfl

theorem length_linkBody {c : Cell} (h : c.payload.length ≤ 116) : (linkBody c l epoch).length = 124 := by
  simp [linkBody, length_linkHeader, length_padTo h]

/-- The header and its check stand before everything else. -/
theorem linkCell_eq_header : linkCell c l epoch =
    linkHeader c l epoch ++ (crc8 (linkHeader c l epoch) :: (padTo 116 c.payload ++ be32 (crc32 (linkBody c l epoch)).toNat)) := by
  simp [linkCell_eq, linkBody]

theorem byteAt_linkCell_header {i : Nat} (h : i < 7) : byteAt (linkCell c l epoch) i = byteAt (linkHeader c l epoch) i := by
  rw [linkCell_eq_header]
  exact byteAt_append_left (by rw [length_linkHeader]; exact h)

/-- From place 8 on come the payload, zeros and the CRC. -/
theorem drop_linkCell : (linkCell c l epoch).drop 8 = padTo 116 c.payload ++ be32 (crc32 (linkBody c l epoch)).toNat := by
  rw [linkCell_eq_header, List.drop_append, length_linkHeader]
  simp [List.drop_eq_nil_of_le (Nat.le_of_eq (length_linkHeader c l epoch) |>.trans (by omega : 7 ≤ 8))]

/-- The bits of the header's flag byte. -/
theorem flagByte_bits (e d : Bool) : (byte (flagBit e 7 + flagBit d 6)).getLsbD 7 = e ∧
    (byte (flagBit e 7 + flagBit d 6)).getLsbD 6 = d ∧ (byte (flagBit e 7 + flagBit d 6)).toNat % 64 = 0 := by
  cases e <;> cases d <;> decide

/-- Kind, lane and class fit in the first byte. -/
theorem headByte_lt (k : CellKind) (l : Lane) (cls : Fin 4) : k.code * 16 + laneCode l * 4 + cls.val < 256 := by
  have hk : k.code ≤ 6 := by cases k <;> decide
  have hl : laneCode l ≤ 2 := by cases l <;> decide
  omega

end LinkCell

/-! ### Probes -/

/-- The flag byte of a probe: echo valid, strike, base posture. -/
theorem probeFlags_bits (e d : Bool) (base : BasePosture) :
    (byte (flagBit e 7 + flagBit d 6 + base.code)).getLsbD 7 = e ∧ (byte (flagBit e 7 + flagBit d 6 + base.code)).getLsbD 6 = d ∧
      (byte (flagBit e 7 + flagBit d 6 + base.code)).toNat % 64 = base.code ∧
      BasePosture.ofProbe (byte (flagBit e 7 + flagBit d 6 + base.code)).toNat = base := by
  cases e <;> cases d <;> cases base <;> decide

/-- The receive states of a probe in one byte, and what a receiver takes from it. -/
theorem probeStates_read (a b c : RxState) :
    (byte (a.code * 16 + b.code * 4 + c.code)).toNat = a.code * 16 + b.code * 4 + c.code ∧
      RxState.ofCode ((byte (a.code * 16 + b.code * 4 + c.code)).toNat / 16) = a ∧
      RxState.ofCode ((byte (a.code * 16 + b.code * 4 + c.code)).toNat / 4) = b ∧
      RxState.ofCode (byte (a.code * 16 + b.code * 4 + c.code)).toNat = c := by
  cases a <;> cases b <;> cases c <;> decide

/-- Four bytes of a time read back. -/
theorem nat32_bytes (t : Time) : ((byte (t.toNat / 16777216)).toNat * 256 + (byte (t.toNat / 65536)).toNat) * 65536 +
    ((byte (t.toNat / 256)).toNat * 256 + (byte t.toNat).toNat) = t.toNat := by
  have h := t.isLt
  simp only [byte_lo]
  omega

/-- The 19 bytes of a probe's payload, one by one. -/
theorem probePayload_eq (station : Fin 2) (l : Lane) (number : Byte) (now : Time) (echo : Option EchoRecord)
    (rx : PerLane RxState) (base : BasePosture) (strike : Bool) (epoch : Epoch) :
    let e : EchoRecord := echo.getD { number := 0, sendTime := 0, received := now }
    let x := probePayload station l number now echo rx base strike epoch
    x.length = 19 ∧ byteAt x 0 = byte station.val ∧ byteAt x 1 = byte (laneCode l) ∧ byteAt x 2 = number ∧ byteAt x 3 = e.number ∧
      nat32At x 4 = now.toNat ∧ nat32At x 8 = e.sendTime.toNat ∧ nat32At x 12 = (now - e.received).toNat ∧
      byteAt x 16 = byte (rx.a.code * 16 + rx.b.code * 4 + rx.c.code) ∧
      byteAt x 17 = byte (flagBit echo.isSome 7 + flagBit strike 6 + base.code) ∧ byteAt x 18 = epoch :=
  ⟨rfl, rfl, rfl, rfl, rfl, nat32_bytes _, nat32_bytes _, nat32_bytes _, rfl, rfl, rfl⟩

/-- Settles O14: the header by its places, the body before the CRC, and a probe's bytes one by one. -/
theorem linkCellsLaidOut : Obligations.LinkCellsLaidOut := by
  refine ⟨fun c l epoch hlen => ?cell, fun station l number now echo rx base strike epoch => ?probe⟩
  case cell =>
    obtain ⟨hend, hdem, hzero⟩ := flagByte_bits c.frameEnd c.demoted
    have hbody := length_linkBody l epoch hlen
    have hhead {i : Nat} (h : i < 7) := byteAt_linkCell_header c l epoch h
    have hflags : byteAt (linkCell c l epoch) 1 = byte (flagBit c.frameEnd 7 + flagBit c.demoted 6) := by
      rw [hhead (by omega)]; rfl
    refine ⟨?length, ?head, by rw [hflags, hend], by rw [hflags, hdem], by rw [hflags, hzero], ?addr, ?len, ?seq, ?epoch, ?check,
      ?payload, fun i h8 h124 => ?zeros, ?crc⟩
    case length => rw [linkCell_eq, List.length_append, hbody]; rfl
    case head => rw [hhead (by omega)]; exact byte_toNat (headByte_lt _ _ _)
    case addr => rw [hhead (by omega)]; rfl
    case len => rw [hhead (by omega)]; exact byte_toNat (by omega)
    case seq =>
      have h4 := hhead (i := 4) (by omega)
      have h5 := hhead (i := 5) (by omega)
      have hseq := c.seq.isLt
      rw [nat16At, h4, h5]
      by_cases hk : c.kind = .media
      · rw [if_pos hk]
        simp only [byteAt, linkHeader, hk, if_true, be16]
        show (byte (c.seq.toNat / 256)).toNat * 256 + (byte c.seq.toNat).toNat = c.seq.toNat
        rw [byte_lo, byte_lo]
        omega
      · rw [if_neg hk]
        simp only [byteAt, linkHeader, hk, if_false]
        show (0 : Byte).toNat * 256 + (0 : Byte).toNat = 0
        decide
    case epoch =>
      rw [hhead (by omega)]
      unfold linkHeader
      split <;> rfl
    case check =>
      have ht : (linkCell c l epoch).take 7 = linkHeader c l epoch := by
        rw [linkCell_eq_header]
        exact List.take_left' (length_linkHeader c l epoch)
      rw [ht, linkCell_eq_header, byteAt_append_right (Nat.le_of_eq (length_linkHeader c l epoch)), length_linkHeader]
      rfl
    case payload => rw [drop_linkCell, padTo, List.append_assoc]; exact List.take_left' rfl
    case zeros =>
      have hi : byteAt (linkCell c l epoch) i = byteAt ((linkCell c l epoch).drop 8) (i - 8) := by
        simp [byteAt, List.getD_eq_getElem?_getD, List.getElem?_drop, Nat.add_sub_cancel' (by omega : 8 ≤ i)]
      have hp : i - 8 < (padTo 116 c.payload).length := by rw [length_padTo hlen]; omega
      rw [hi, drop_linkCell, byteAt_append_left hp, padTo, byteAt_append_right (by omega)]
      simp [byteAt, List.getD_eq_getElem?_getD, List.getElem?_replicate]
      split <;> rfl
    case crc =>
      have ht : (linkCell c l epoch).take 124 = linkBody c l epoch := by
        rw [linkCell_eq]
        exact List.take_left' hbody
      have h := nat32At_be32 (crc32 (linkBody c l epoch)).isLt (linkBody c l epoch) []
      rw [List.append_nil, ← linkCell_eq, hbody] at h
      rw [ht, h]
  case probe =>
    obtain ⟨hlen, h0, h1, h2, h3, h4, h8, h12, h16, h17, h18⟩ := probePayload_eq station l number now echo rx base strike epoch
    obtain ⟨hecho, hstrike, hbase, hofProbe⟩ := probeFlags_bits echo.isSome strike base
    obtain ⟨hcodes, ha, hb, hc⟩ := probeStates_read rx.a rx.b rx.c
    refine ⟨hlen, ?_, ?_, h2, h4, ?_, ?_, ?_, ?_, h18, ?none, ?some, ?read⟩
    · rw [h0, byte_toNat (by omega)]
    · rw [h1]; cases l <;> rfl
    · rw [h16, hcodes]
    · rw [h17, hecho]
    · rw [h17, hstrike]
    · rw [h17, hbase]
    case none =>
      rintro rfl
      exact ⟨h3, h8, by rw [h12]; simp⟩
    case some =>
      rintro e rfl
      exact ⟨h3, h8, h12⟩
    case read =>
      simp only [readProbe, h2, h4, h16, h17, hecho, hstrike, hofProbe, ha, hb, hc, BitVec.ofNat_toNat, BitVec.setWidth_eq]

end Sys2Proof.Machine
end

section
/-! The slot arbiter (R62 to R64): probes, queued cells, skipped buffers and fills. -/

namespace Sys2Proof.Machine

open Safety

section Slots

variable {s : State} {l : Lane}

theorem execLaneSlot_arbitrates (hr : s.restarting = false) (hp : (s.tx l).probeDue = false) :
    exec (.laneSlot l) s = .next (arbitrate l (s.waiting l + 1) s) := by
  show Host.Outcome.next _ = _
  rw [hr, hp]
  rfl

/-- A lane with nothing queued has no candidate (R62). -/
theorem candidate_none (hc : (s.tx l).control = []) (hk : ∀ k, s.classQueue l k = []) : s.candidate l = none := by
  simp [State.candidate, hc, classes, State.classHead, hk]

theorem candidate_control {b : Nat} {q : List Nat} (hc : (s.tx l).control = b :: q) : s.candidate l = some (.control b) := by
  rw [State.candidate, hc]

/-- The head of the lowest-numbered class queue that holds an entry (R62). -/
theorem candidate_media {k : Fin 4} {e : QueueEntry} {q : List QueueEntry} (hc : (s.tx l).control = [])
    (hj : ∀ j, j < k → s.classQueue l j = []) (hk : s.classQueue l k = e :: q) : s.candidate l = some (.media k e) := by
  have h0 (j : Fin 4) (h : j < k) : s.classHead l j = none := by rw [State.classHead, hj j h]; rfl
  have h1 : s.classHead l k = some (.media k e) := by rw [State.classHead, hk]; rfl
  rw [State.candidate, hc]
  show [0, 1, 2, 3].findSome? (s.classHead l) = _
  have hall : ∀ j : Fin 4, j = 0 ∨ j = 1 ∨ j = 2 ∨ j = 3 := by decide
  rcases hall k with rfl | rfl | rfl | rfl
  · simp [h1]
  · simp [h0 0 (by decide), h1]
  · simp [h0 0 (by decide), h0 1 (by decide), h1]
  · simp [h0 0 (by decide), h0 1 (by decide), h0 2 (by decide), h1]

theorem waiting_nil (hc : (s.tx l).control = []) (hk : ∀ k, s.classQueue l k = []) : s.waiting l = 0 := by
  simp [State.waiting, hc, hk, classes]

/-- The fill of an idle slot (R62). -/
def filled (l : Lane) (s : State) : State := transmit l (peerCell .fill s.mga.station []) s

theorem sendFill_calm (h : (s.counter (.lane l LaneCounter.txFill.id)).atHalf = false) :
    sendFill l s = bump (.lane l LaneCounter.txFill.id) (filled l s) := count_bump h

theorem arbitrate_idle {fuel : Nat} (h : s.candidate l = none) : arbitrate l (fuel + 1) s = sendFill l s := by
  rw [arbitrate, h]

theorem removeCandidate_buffer (x : Candidate) (b : Nat) : (removeCandidate l x s).buffer b = s.buffer b := by
  cases x <;> rfl

theorem removeCandidate_counter (x : Candidate) (r : CounterRef) : (removeCandidate l x s).counter r = s.counter r := by
  cases x <;> rfl

/-- A candidate whose buffer's check agrees is sent, and its last reference let go (R62, R63). -/
theorem arbitrate_sends {fuel : Nat} {x : Candidate} (hx : s.candidate l = some x) (ha : (s.buffer x.buffer).checkAgrees = true)
    (hr : (s.buffer x.buffer).refs = 1) (hc : (s.counter (.lane l LaneCounter.txCells.id)).atHalf = false) :
    arbitrate l (fuel + 1) s = returned x.buffer
      (bump (.lane l LaneCounter.txCells.id) (transmit l (s.buffer x.buffer).cell (removeCandidate l x s))) := by
  rw [arbitrate, hx]
  dsimp only
  have hcount : countLane l .txCells (transmit l (s.buffer x.buffer).cell (removeCandidate l x s)) = _ :=
    count_bump ((congrArg Counter.atHalf (removeCandidate_counter x _)).trans hc)
  rw [if_pos ha, hcount]
  refine dereference_returned ?_
  rw [bump, State.setCounter_buffer]
  exact (congrArg Buffer.refs (removeCandidate_buffer x _)).trans hr

/-- A candidate whose buffer's check disagrees is counted and its last reference let go, and the slot goes on (R63). -/
theorem arbitrate_skips {fuel : Nat} {x : Candidate} (hx : s.candidate l = some x) (ha : (s.buffer x.buffer).checkAgrees = false)
    (hr : (s.buffer x.buffer).refs = 1) (hc : (s.counter (.lane l LaneCounter.txBufCheck.id)).atHalf = false) :
    arbitrate l (fuel + 1) s = arbitrate l fuel
      (returned x.buffer (bump (.lane l LaneCounter.txBufCheck.id) (removeCandidate l x s))) := by
  rw [arbitrate, hx]
  dsimp only
  have hcount : countLane l .txBufCheck (removeCandidate l x s) = _ :=
    count_bump ((congrArg Counter.atHalf (removeCandidate_counter x _)).trans hc)
  rw [if_neg (by rw [ha]; exact Bool.false_ne_true), hcount, dereference_returned]
  rw [bump, State.setCounter_buffer]
  exact (congrArg Buffer.refs (removeCandidate_buffer x _)).trans hr

end Slots

/-- Settles O16: the due state is set, a due probe is sent whole, and a lane with no candidate carries FILL. -/
theorem slotProbeAndFill : Obligations.SlotProbeAndFill := by
  intro s l hr
  refine ⟨if_neg (by rw [hr]; exact Bool.false_ne_true), fun hp hc => ?probe, fun hp hc hk hcalm => ?fill⟩
  case probe =>
    have hslot : exec (.laneSlot l) s = .next (sendProbe l s) := by
      show Host.Outcome.next _ = _
      rw [hr, hp]
      rfl
    rw [hslot]
    refine congrArg _ ((count_bump ?_).trans rfl)
    exact hc _ (List.mem_singleton_self _)
  case fill =>
    rw [execLaneSlot_arbitrates hr hp, arbitrate_idle (candidate_none hc hk), sendFill_calm (hcalm _ (List.mem_singleton_self _))]
    rfl

/-- Settles O17: the first candidate of the slot is sent, or skipped when its buffer is spoiled. -/
theorem slotSendsQueued : Obligations.SlotSendsQueued := by
  intro s l hr hp hcalm
  rw [execLaneSlot_arbitrates hr hp]
  refine ⟨fun b q hq hrefs ha => ?control, fun k e q hc hj hk hrefs ha => ?media, fun b hq hk hrefs ha => ?spoiled⟩
  case control =>
    rw [arbitrate_sends (candidate_control hq) ha hrefs (hcalm _ (by simp))]
    have hrem : removeCandidate l (.control b) s = s.setControl l q := by rw [removeCandidate, hq]; rfl
    rw [hrem]
    rfl
  case media =>
    rw [arbitrate_sends (candidate_media hc hj hk) ha hrefs (hcalm _ (by simp))]
    have hrem : removeCandidate l (.media k e) s = (s.setClassQueue l k q).subQueued e.stream := by
      rw [removeCandidate, hk]
      rfl
    rw [hrem]
    rfl
  case spoiled =>
    have hw : s.waiting l + 1 = s.waiting l - 1 + 1 + 1 := by
      have : 0 < s.waiting l := by simp [State.waiting, hq]
      omega
    rw [hw, arbitrate_skips (candidate_control hq) ha hrefs (hcalm _ (by simp))]
    have hrem : removeCandidate l (.control b) s = s.setControl l [] := by rw [removeCandidate, hq]; rfl
    rw [hrem]
    have hnone : (returned b (bump (.lane l LaneCounter.txBufCheck.id) (s.setControl l []))).candidate l = none :=
      candidate_none (by simp [returned, bump, State.setControl]) fun k => by simp [returned, bump, hk]
    have hfill : ((returned b (bump (.lane l LaneCounter.txBufCheck.id) (s.setControl l []))).counter
        (.lane l LaneCounter.txFill.id)).atHalf = false :=
      atHalf_bump_ne (s := s.setControl l []) (r := .lane l LaneCounter.txBufCheck.id) (q := .lane l LaneCounter.txFill.id)
        (by simp [LaneCounter.id]) (hcalm (.lane l LaneCounter.txFill.id) (by simp))
    have hcand : (Candidate.control b).buffer = b := rfl
    rw [hcand, arbitrate_idle hnone, sendFill_calm hfill]
    have hst : (returned b (bump (.lane l LaneCounter.txBufCheck.id) (s.setControl l []))).mga.station = s.mga.station := by
      simp [returned, bump, State.setControl]
    have hep : (returned b (bump (.lane l LaneCounter.txBufCheck.id) (s.setControl l []))).lck.epoch = s.lck.epoch := by
      simp [returned, bump, State.setControl]
    rw [filled, transmit, hst, hep]
    rfl

end Sys2Proof.Machine
end

section
/-! Views and posture derived again: what they leave (R55, R56, R129, R130), and what is left of it all when every event in it is
silent, every entry agrees and the falling lane has nothing queued. -/

namespace Sys2Proof.Machine

open Safety

/-! ### What a derivation of the views leaves -/

/-- `t` is `s` but for the views and what a protection requeue, a recomputation and their faults may touch. -/
def HoldButViews (s t : State) : Prop := ∃ v, OnlyHold (s.setViews v) t

theorem setViews_self (s : State) : s.setViews { a := s.view .a, b := s.view .b, c := s.view .c } = s := rfl

theorem OnlyHold.butViews {s t : State} (h : OnlyHold s t) : HoldButViews s t := ⟨_, (setViews_self s).symm ▸ h⟩

theorem run_setViews (s : State) (v : PerLane View) (n : StreamId) : (s.setViews v).run n = s.run n := rfl

theorem entry_setViews (s : State) (v : PerLane View) (n : StreamId) : (s.setViews v).entry n = s.entry n := rfl

namespace HoldButViews

variable {s t : State} (h : HoldButViews s t)

include h

theorem pins : t.pins = s.pins := h.elim fun _ k => k.pins
theorem lck : t.lck = s.lck := h.elim fun _ k => k.lck
theorem tin : t.tin = s.tin := h.elim fun _ k => k.tin
theorem lrx : t.lrx = s.lrx := h.elim fun _ k => k.lrx
theorem psc : t.psc = s.psc := h.elim fun _ k => k.psc
theorem out : t.out = s.out := h.elim fun _ k => k.out
theorem settings : t.mga.settings = s.mga.settings := h.elim fun _ k => k.settings
theorem station : t.mga.station = s.mga.station := h.elim fun _ k => k.station
theorem requests : t.mga.requests = s.mga.requests := h.elim fun _ k => k.requests
theorem restart : t.mga.restart = s.mga.restart := h.elim fun _ k => k.restart
theorem run (n : StreamId) : ∃ q, t.run n = { s.run n with queued := q } := h.elim fun _ k => k.run n

theorem trans_hold {u : State} (k : OnlyHold t u) : HoldButViews s u := h.elim fun v hv => ⟨v, hv.trans k⟩

end HoldButViews

theorem deriveViews_rel (s : State) : HoldButViews s (deriveViews s) := by
  rcases deriveViews_cases s with ⟨he, -⟩ | ⟨v, -, ho, -⟩
  · rw [he]
    exact (OnlyHold.refl s).butViews
  · exact ⟨v, ho⟩

/-- A posture derived again changes the effective posture, and beside it no more than a recomputation may. -/
theorem derivePosture_hold (s : State) : ∃ x, OnlyHold (s.setPsc x) (derivePosture s) := by
  unfold derivePosture
  dsimp only
  split
  · exact ⟨s.psc, OnlyHold.refl s⟩
  · exact ⟨_, (fire_hold _ _ _).trans (recompute_hold _)⟩

theorem derivePeerPosture_hold (s : State) : ∃ x, OnlyHold (s.setPsc x) (derivePeerPosture s) := by
  unfold derivePeerPosture
  obtain ⟨x, hx⟩ := derivePosture_hold (s.setPsc { s.psc with
    peerBase := if s.lrx.peer.stale then .clear else s.lrx.peer.base
    peerStrike := if s.lrx.peer.stale then false else s.lrx.peer.strike })
  exact ⟨x, hx⟩

/-- The entry to a receive state: the lane's own record, and beside it no more than views derived again may touch (R77). -/
theorem enterRxState_rel (l : Lane) (state : RxState) (s : State) :
    HoldButViews (s.setRx l ((s.rx l).entered state)) (enterRxState l state s) := by
  have he := OnlyHold.ofEvents (enteredRx_only l state s)
  rw [enterRxState_eq]
  split
  · obtain ⟨v, hv⟩ := deriveViews_rel (enteredRx l state s)
    refine ⟨v, OnlyHold.trans ?_ hv⟩
    exact
      { he with
        tx := fun m => by
          obtain ⟨q, cl, a, u, o, hm⟩ := he.tx m
          exact ⟨q, cl, a, u, o, by rw [tx_setViews, tx_setViews, hm]⟩ }
  · exact he.butViews

/-! ### Flags alone

A step whose events are silent leaves nothing of them but their flags. -/

/-- `t` is `s` but for flags of the named sources, now set or counted as repeats, and for the views and loads of the lanes. -/
structure OnlyFlags (named : Source → Prop) (s t : State) : Prop where
  rest : t = { s with ltx := t.ltx, evu := { s.evu with sources := t.evu.sources } }
  tx : ∀ l, t.tx l = { s.tx l with view := (t.tx l).view, load := (t.tx l).load, unpoliced := (t.tx l).unpoliced,
                                   overcommitted := (t.tx l).overcommitted }
  others : ∀ i, ¬ named i → t.source i = s.source i
  level : ∀ i, (t.source i).level = (s.source i).level
  flag : ∀ i, (s.source i).flag = true → (t.source i).flag = true

namespace OnlyFlags

variable {named : Source → Prop} {s t u : State}

theorem refl (s : State) : OnlyFlags named s s := ⟨rfl, fun _ => rfl, fun _ _ => rfl, fun _ => rfl, fun _ h => h⟩

theorem trans (h : OnlyFlags named s t) (k : OnlyFlags named t u) : OnlyFlags named s u where
  rest := by rw [k.rest, h.rest]
  tx l := by rw [k.tx l, h.tx l]
  others i hi := (k.others i hi).trans (h.others i hi)
  level i := (k.level i).trans (h.level i)
  flag i hi := k.flag i (h.flag i hi)

theorem mono {wide : Source → Prop} (h : OnlyFlags named s t) (hw : ∀ i, named i → wide i) : OnlyFlags wide s t :=
  { h with others := fun i hi => h.others i (mt (hw i) hi) }

section

variable (h : OnlyFlags named s t)

include h

theorem pins : t.pins = s.pins := by rw [h.rest]
theorem lck : t.lck = s.lck := by rw [h.rest]
theorem bfm : t.bfm = s.bfm := by rw [h.rest]
theorem stb : t.stb = s.stb := by rw [h.rest]
theorem tin : t.tin = s.tin := by rw [h.rest]
theorem lrx : t.lrx = s.lrx := by rw [h.rest]
theorem mrg : t.mrg = s.mrg := by rw [h.rest]
theorem psc : t.psc = s.psc := by rw [h.rest]
theorem dlv : t.dlv = s.dlv := by rw [h.rest]
theorem cnt : t.cnt = s.cnt := by rw [h.rest]
theorem mga : t.mga = s.mga := by rw [h.rest]
theorem out : t.out = s.out := by rw [h.rest]
theorem openCount : t.openCount = s.openCount := by rw [h.rest]
theorem floor : t.evu.floor = s.evu.floor := by rw [h.rest]
theorem channels : t.evu.channels = s.evu.channels := by rw [h.rest]
theorem control (l : Lane) : (t.tx l).control = (s.tx l).control := by rw [h.tx l]
theorem classQueue (l : Lane) (k : Fin 4) : t.classQueue l k = s.classQueue l k := by
  show (t.tx l).classes.look k = _
  rw [h.tx l]
  rfl

/-- A source stays silent. -/
theorem silent {src : Source} (hs : Silent s src) : Silent t src where
  notFault := hs.notFault
  unbound := by
    have hc (c : ChannelId) : t.channel c = s.channel c := by rw [State.channel, h.channels]; rfl
    have hu := hs.unbound
    unfold State.takerOf at hu ⊢
    simpa only [hc] using hu
  quiet := hs.quiet.imp (h.flag src) fun hl => by rw [h.level, h.floor]; exact hl

theorem agrees (ha : TableAgrees s) : TableAgrees t := fun n => by
  rw [State.entry, h.stb]
  exact ha n

end

/-- A silent source fired. -/
theorem flaggedAs {src : Source} (hn : named src) (d : Detail) (s : State) : OnlyFlags named s (flaggedAs src d s) := by
  rw [flaggedAs_eq]
  have hsrc (i : Source) (x : SourceRecord) : (s.setSource src x).source i = if i = src then x else s.source i :=
    State.source_setSource _ _ _ _
  refine ⟨rfl, fun _ => rfl, fun i hi => ?_, fun i => ?_, fun i hi => ?_⟩ <;> rw [hsrc]
  · exact if_neg (by rintro rfl; exact hi hn)
  · by_cases e : i = src
    · rw [if_pos e, e]
      split <;> rfl
    · rw [if_neg e]
  · by_cases e : i = src
    · rw [if_pos e]
      split
      · next hf => exact hf
      · rfl
    · rw [if_neg e]
      exact hi

theorem fire {src : Source} (hn : named src) (hs : Silent s src) (d : Detail) : OnlyFlags named s (fire src d s) := by
  rw [fire_flaggedAs hs]
  exact flaggedAs hn d s

theorem setTx (s : State) (l : Lane) (v : View) (a b : Nat) (o : Bool) :
    OnlyFlags named s (s.setTx l { s.tx l with view := v, load := a, unpoliced := b, overcommitted := o }) where
  rest := rfl
  tx m := by
    rw [State.tx_setTx]
    split
    · next e => rw [e]
    · rfl
  others _ _ := rfl
  level _ := rfl
  flag _ h := h

theorem setLoad (s : State) (l : Lane) (x : Nat × Nat) : OnlyFlags named s (s.setLoad l x) := setTx s l _ _ _ _

theorem foldl {α : Type} {f : State → α → State} {as : List α} (hf : ∀ a ∈ as, ∀ t, OnlyFlags named s t → OnlyFlags named t (f t a)) :
    OnlyFlags named s (as.foldl f s) := by
  suffices h : ∀ t, OnlyFlags named s t → OnlyFlags named s (as.foldl f t) from h s (refl s)
  intro t ht
  induction as generalizing t with
  | nil => exact ht
  | cons a rest ih =>
    exact ih (fun b hb => hf b (List.mem_cons_of_mem _ hb)) _ (ht.trans (hf a List.mem_cons_self t ht))

end OnlyFlags

theorem disagreeing_nil {s : State} (h : TableAgrees s) : s.disagreeing = [] := by
  unfold State.disagreeing
  rw [List.map_eq_nil_iff, List.filter_eq_nil_iff]
  rintro ⟨n, e⟩ he
  obtain ⟨i, hi, he⟩ := List.getElem_of_mem he
  simp only [State.entriesList, List.getElem_zip, Prod.mk.injEq, List.getElem_finRange, Vector.getElem_toList] at he
  have hlt : i < 256 := by simpa [State.entriesList] using hi
  have := h ⟨i, hlt⟩
  rw [State.entry, Bank.look] at this
  simp only at this
  simp [← he.2, this]

/-- Committed load derived again with OVERCOMMIT silent (R69). -/
theorem recomputeLoad_flags {named : Source → Prop} {s : State} (hn : named srcOvercommit) (hs : Silent s srcOvercommit) :
    OnlyFlags named s (recomputeLoad s) :=
  have hl : OnlyFlags named s (lanes.foldl (fun u l => u.setLoad l (s.tally.get l)) s) :=
    OnlyFlags.foldl fun _ _ t _ => OnlyFlags.setLoad t _ _
  hl.trans (OnlyFlags.foldl fun _ _ _ ht => OnlyFlags.fire hn (ht.silent (hl.silent hs)) _)

/-- With every entry agreeing nothing else comes of a recomputation (R22). -/
theorem recompute_flags {named : Source → Prop} {s : State} (hn : named srcOvercommit) (hs : Silent s srcOvercommit)
    (ha : TableAgrees s) : OnlyFlags named s (recompute s) := by
  rw [recompute, disagreeing_nil ha]
  exact recomputeLoad_flags hn hs

theorem setControl_self {s : State} {l : Lane} {q : List Nat} (h : (s.tx l).control = q) : s.setControl l q = s := by
  subst h
  cases l <;> rfl

theorem requeueClass_nil {l : Lane} {k : Fin 4} {s : State} (fuel : Nat) (h : s.classQueue l k = []) : requeueClass l k fuel s = s := by
  cases fuel with
  | zero => rfl
  | succ n => rw [requeueClass, h]

/-- A lane with nothing queued has nothing to requeue (R65, R66). -/
theorem protectionRequeue_idle {s : State} {l : Lane} (hc : (s.tx l).control = []) (hk : ∀ k, s.classQueue l k = []) :
    protectionRequeue l s = s := by
  have hcls : classes.foldl (fun s k => requeueClass l k (s.classQueue l k).length s) s = s := by
    simp only [classes, List.foldl_cons, List.foldl_nil, requeueClass_nil _ (hk _)]
  rw [protectionRequeue, hcls, requeueControl]
  dsimp only
  rw [hc, setControl_self hc]
  split
  · rfl
  · rw [List.take_nil, List.append_nil, setControl_self rfl]
    simp

/-- Views derived again with their events silent and nothing queued on a lane that falls (R56). -/
theorem deriveViews_flags {named : Source → Prop} {s : State} (ha : TableAgrees s) (ho : Silent s srcOvercommit)
    (hno : named srcOvercommit)
    (hv : ∀ l, s.view l ≠ s.derivedView l → named (srcLaneView l) ∧ Silent s (srcLaneView l) ∧
      (s.derivedView l = .unusable → (s.tx l).control = [] ∧ ∀ k, s.classQueue l k = [])) :
    OnlyFlags named s (deriveViews s) := by
  let v : PerLane View := { a := s.derivedView .a, b := s.derivedView .b, c := s.derivedView .c }
  let changed := lanes.filter (fun l => s.view l != v.get l)
  have hvl (l : Lane) : v.get l = s.derivedView l := by cases l <;> rfl
  have hch (l : Lane) (hl : l ∈ changed) : s.view l ≠ s.derivedView l := by
    have := (List.mem_filter.1 hl).2
    rwa [bne_iff_ne, hvl] at this
  unfold deriveViews
  dsimp only
  split
  · exact OnlyFlags.refl s
  · have h1 : OnlyFlags named s (s.setViews v) := OnlyFlags.foldl fun l _ t _ => OnlyFlags.setTx t l _ _ _ _
    have h2 : OnlyFlags named s (changed.foldl (fun s l => fire (srcLaneView l) .none s) (s.setViews v)) :=
      h1.trans (OnlyFlags.foldl fun l hl t ht =>
        OnlyFlags.fire (hv l (hch l hl)).1 ((h1.trans ht).silent (hv l (hch l hl)).2.1) _)
    have h3 : OnlyFlags named s ((changed.filter (fun l => v.get l == .unusable)).foldl (fun s l => protectionRequeue l s)
        (changed.foldl (fun s l => fire (srcLaneView l) .none s) (s.setViews v))) := by
      refine h2.trans (OnlyFlags.foldl fun l hl t ht => ?_)
      obtain ⟨hl, hu⟩ := List.mem_filter.1 hl
      rw [beq_iff_eq, hvl] at hu
      obtain ⟨hc, hk⟩ := (hv l (hch l hl)).2.2 hu
      have hst := h2.trans ht
      rw [protectionRequeue_idle ((hst.control l).trans hc) fun k => (hst.classQueue l k).trans (hk k)]
      exact OnlyFlags.refl t
    exact h3.trans (recompute_flags hno (h3.silent ho) (h3.agrees ha))

/-! ### The five inputs of a view or of the posture -/

/-- Settles O19: the views are derived from the new input, and the requeue and recomputation leave the rest. -/
theorem txfaultDerivesViews : Obligations.TxfaultDerivesViews := by
  intro s l level
  have h := deriveViews_rel (s.setPins (s.pins.withTxfault l level))
  refine ⟨_, rfl, ?pins, viewsDerived_deriveViews _, h.lrx, h.psc, h.lck, h.tin, h.out, fun n => ?run⟩
  case pins =>
    rw [h.pins]
    cases l <;> rfl
  case run =>
    obtain ⟨q, hq⟩ := h.run n
    rw [hq]
    exact ⟨rfl, rfl⟩

/-- The views of a state are the derived ones again after a change that `OnlyHold` permits, apart from the posture. -/
theorem view_derivePosture (s : State) (l : Lane) : (derivePosture s).view l = s.view l := by
  obtain ⟨x, hx⟩ := derivePosture_hold s
  rw [hx.view]
  rfl

theorem execPeerReportStale_acts {s : State} (hr : s.restarting = false) (hs : s.lrx.peer.stale = false) (ha : 299 ≤ s.lrx.peer.age) :
    exec .peerReportStale s = .next (derivePeerPosture (deriveViews (fire srcPeerStale .none
      (s.setPeer { s.lrx.peer with age := 300, stale := true })))) := by
  refine if_pos ?_
  show (!s.lrx.peer.stale && decide (300 ≤ s.lrx.peer.age + 1) && !s.restarting) = true
  simp only [hs, hr, Bool.not_false, Bool.true_and, Bool.and_true, decide_eq_true_eq]
  omega

/-- A posture derived again with its events silent (R130). -/
theorem derivePosture_flags {named : Source → Prop} {s : State} (hp : named srcPosture) (ho : named srcOvercommit)
    (hsp : Silent s srcPosture) (hso : Silent s srcOvercommit) (ha : TableAgrees s) :
    OnlyFlags named (s.setPsc { s.psc with effective := s.psc.derived }) (derivePosture s) := by
  unfold derivePosture
  dsimp only
  split
  · next h =>
    rw [h]
    exact OnlyFlags.refl s
  · have h1 : OnlyFlags named (s.setPsc { s.psc with effective := s.psc.derived })
        (fire srcPosture .none (s.setPsc { s.psc with effective := s.psc.derived })) :=
      OnlyFlags.fire (s := s.setPsc { s.psc with effective := s.psc.derived }) hp ⟨hsp.notFault, hsp.unbound, hsp.quiet⟩ _
    exact h1.trans (recompute_flags ho (h1.silent ⟨hso.notFault, hso.unbound, hso.quiet⟩) (h1.agrees ha))

/-- Settles O6: the report is set stale, then the views and the posture derive from it. -/
theorem peerReportGoesStale : Obligations.PeerReportGoesStale := by
  intro s hr hstale hage
  refine ⟨_, execPeerReportStale_acts hr hstale hage, ?_⟩
  have hu : OnlyEvents (s.setPeer { s.lrx.peer with age := 300, stale := true })
      (fire srcPeerStale .none (s.setPeer { s.lrx.peer with age := 300, stale := true })) := fire_only _ _ _
  generalize hfire : fire srcPeerStale .none (s.setPeer { s.lrx.peer with age := 300, stale := true }) = u at hu ⊢
  have hv := deriveViews_rel u
  obtain ⟨x, hx⟩ := derivePeerPosture_hold (deriveViews u)
  have hlrx : (derivePeerPosture (deriveViews u)).lrx = { s.lrx with peer := { s.lrx.peer with age := 300, stale := true } } := by
    rw [hx.lrx, State.setPsc_lrx, hv.lrx, hu.lrx]
    rfl
  have hpins : (derivePeerPosture (deriveViews u)).pins = s.pins := by
    rw [hx.pins, State.setPsc_pins, hv.pins, hu.pins]
    rfl
  refine ⟨by rw [hlrx], by rw [hlrx], ?psc, fun l => ?view, hpins, ?lck, ?tin, ?out,
    fun ha hps hvs hpo hoc hq => ?quiet⟩
  case psc =>
    have hst : (deriveViews u).lrx.peer.stale = true := by rw [hv.lrx, hu.lrx]; rfl
    have hp : (deriveViews u).psc = s.psc := by rw [hv.psc, hu.psc]; rfl
    rw [derivePeerPosture, derivePosture_psc]
    simp only [State.setPsc_psc, hst, hp, if_true]
    simp only [PostureController.derived, Bool.or_false, BasePosture.higher_clear]
  case view =>
    have hd := viewsDerived_deriveViews u l
    rw [derivePeerPosture, view_derivePosture]
    refine hd.trans ?_
    have hxf : (deriveViews u).txfault l = s.txfault l := by
      cases l <;> simp only [State.txfault, hv.pins, hu.pins] <;> rfl
    have hst : (deriveViews u).lrx.peer.stale = true := by rw [hv.lrx, hu.lrx]; rfl
    have hrx : (deriveViews u).rx l = s.rx l := by rw [State.rx, hv.lrx, hu.lrx]; rfl
    simp only [viewByRule, hxf, hst, hrx, if_true]
  case lck => rw [hx.lck, State.setPsc_lck, hv.lck, hu.lck]; rfl
  case tin => rw [hx.tin, State.setPsc_tin, hv.tin, hu.tin]; rfl
  case out => rw [hx.out, State.setPsc_out, hv.out, hu.out]; rfl
  case quiet =>
    let named (i : Source) : Prop := i = srcOvercommit ∨ i = srcPosture ∨ ∃ l, i = srcLaneView l
    have hfu : u = flagged srcPeerStale (s.setPeer { s.lrx.peer with age := 300, stale := true }) :=
      hfire.symm.trans (fire_flagged ⟨hps.notFault, hps.unbound, hps.quiet⟩)
    have h0 : OnlyFlags (fun _ => True) (s.setPeer { s.lrx.peer with age := 300, stale := true }) u := by
      rw [hfu]
      exact OnlyFlags.flaggedAs trivial _ _
    have hsil {src : Source} (h : Silent s src) : Silent u src := h0.silent ⟨h.notFault, h.unbound, h.quiet⟩
    have h1 : OnlyFlags named u (deriveViews u) := by
      refine deriveViews_flags (h0.agrees ha) (hsil hoc) (.inl rfl) fun l _ => ⟨.inr (.inr ⟨l, rfl⟩), hsil (hvs l), fun _ => ?_⟩
      exact ⟨(h0.control l).trans (hq l).1, fun k => (h0.classQueue l k).trans ((hq l).2 k)⟩
    let w := (deriveViews u).setPsc { (deriveViews u).psc with
      peerBase := if (deriveViews u).lrx.peer.stale then .clear else (deriveViews u).lrx.peer.base
      peerStrike := if (deriveViews u).lrx.peer.stale then false else (deriveViews u).lrx.peer.strike }
    have hw {src : Source} (h : Silent s src) : Silent w src :=
      have := h1.silent (hsil h)
      ⟨this.notFault, this.unbound, this.quiet⟩
    have h2 := derivePosture_flags (named := named) (s := w) (.inr (.inl rfl)) (.inl rfl) (hw hpo) (hw hoc)
      (h1.agrees (h0.agrees ha))
    have hne : ¬ named srcPeerStale := by
      rintro (h | h | ⟨l, h⟩)
      · cases h
      · cases h
      · cases l <;> cases h
    constructor
    · have hsrc := (h2.others _ hne).trans (h1.others _ hne)
      refine hsrc.trans ?_
      rw [hfu, flagged, flagged, flaggedAs_eq, flaggedAs_eq, State.source_setSource_self, State.source_setSource_self]
      rfl
    · exact h2.cnt.trans (h1.cnt.trans h0.cnt)

end Sys2Proof.Machine
end

section
/-! The close of an errored interval, the search for a cell boundary and the aging of contexts (R75 to R83, R114, R115). -/

namespace Sys2Proof.Machine

open Safety

/-! ### Receive states entered -/

theorem lrx_enterRxState (l : Lane) (state : RxState) (s : State) :
    (enterRxState l state s).lrx = (s.setRx l ((s.rx l).entered state)).lrx := (enterRxState_rel l state s).lrx

theorem rx_enterRxState_self (l : Lane) (state : RxState) (s : State) :
    (enterRxState l state s).rx l = (s.rx l).entered state := by
  rw [State.rx, lrx_enterRxState]
  exact State.rx_setRx_self _ _ _

theorem rx_enterRxState_ne {l m : Lane} (h : m ≠ l) (state : RxState) (s : State) :
    (enterRxState l state s).rx m = s.rx m := by
  rw [State.rx, lrx_enterRxState]
  exact (State.rx_setRx _ _ _ _).trans (if_neg h)

theorem peer_enterRxState (l : Lane) (state : RxState) (s : State) : (enterRxState l state s).lrx.peer = s.lrx.peer := by
  rw [lrx_enterRxState]
  rfl

/-! ### Errored intervals (R81 to R83) -/

section

variable {s : State} {l : Lane}

/-- The lane's interval judged and a new one open, before the run moves the lane (R82). -/
def closedInterval (l : Lane) (s : State) : State :=
  let errored := (s.rx l).intervalErrored s.mga.settings.erroredThreshold
  (if errored then countLane l .erroredIntervals s else s).setRx l ((s.rx l).judged errored)

theorem closedInterval_only (l : Lane) (s : State) :
    OnlyEvents (s.setRx l ((s.rx l).judged ((s.rx l).intervalErrored s.mga.settings.erroredThreshold))) (closedInterval l s) := by
  have hc := countLane_only l .erroredIntervals s
  unfold closedInterval
  dsimp only
  split
  · exact { hc with lrx := by rw [State.setRx, State.setRx, hc.lrx] }
  · exact OnlyEvents.refl _

theorem exec_intervalClose_first (hr : s.restarting = false) (hj : (s.rx l).judging = false) :
    exec (.erroredIntervalClose l) s = .next (s.setRx l { s.rx l with
      judging := (s.rx l).delineated, crcFailures := 0, headerFailure := false }) := by
  show execErroredIntervalClose l s = _
  rw [execErroredIntervalClose, if_neg (by simp [hr]), if_neg (by simp [hj])]

theorem exec_intervalClose_judged (hr : s.restarting = false) (hj : (s.rx l).judging = true) :
    exec (.erroredIntervalClose l) s = .next
      (match (closedInterval l s).judgement ((s.rx l).judged ((s.rx l).intervalErrored s.mga.settings.erroredThreshold)) with
      | some state => enterRxState l state (closedInterval l s)
      | none => closedInterval l s) := by
  show execErroredIntervalClose l s = _
  rw [execErroredIntervalClose, if_neg (by simp [hr]), if_pos hj]
  show (match (closedInterval l s).judgement ((s.rx l).judged ((s.rx l).intervalErrored s.mga.settings.erroredThreshold)) with
    | some state => Host.Outcome.next (enterRxState l state (closedInterval l s))
    | none => .next (closedInterval l s)) = _
  cases (closedInterval l s).judgement ((s.rx l).judged ((s.rx l).intervalErrored s.mga.settings.erroredThreshold)) <;> rfl

theorem judgement_closedInterval (r : LaneRx) : (closedInterval l s).judgement r = s.judgement r := by
  have h := closedInterval_only l s
  unfold State.judgement State.recoverCount
  rw [h.mga, h.psc]
  rfl

theorem rx_closedInterval_self :
    (closedInterval l s).rx l = (s.rx l).judged ((s.rx l).intervalErrored s.mga.settings.erroredThreshold) := by
  rw [(closedInterval_only l s).rx, State.rx_setRx_self]

theorem rx_closedInterval_ne {m : Lane} (h : m ≠ l) : (closedInterval l s).rx m = s.rx m := by
  rw [(closedInterval_only l s).rx, State.rx_setRx, if_neg h]

theorem peer_closedInterval : (closedInterval l s).lrx.peer = s.lrx.peer := by
  rw [(closedInterval_only l s).lrx]
  rfl

/-- The close of a judged interval: the lane's own record, entering the judged state or not, and nothing else of the receiver. -/
theorem exec_intervalClose_receiver (hr : s.restarting = false) (hj : (s.rx l).judging = true) :
    let x := (s.rx l).judged ((s.rx l).intervalErrored s.mga.settings.erroredThreshold)
    ∃ t, exec (.erroredIntervalClose l) s = .next t ∧ (∀ m, m ≠ l → t.rx m = s.rx m) ∧ t.lrx.peer = s.lrx.peer ∧
      t.rx l = match s.judgement x with
        | some state => x.entered state
        | none => x := by
  refine ⟨_, exec_intervalClose_judged hr hj, ?_⟩
  rw [judgement_closedInterval]
  cases s.judgement ((s.rx l).judged ((s.rx l).intervalErrored s.mga.settings.erroredThreshold)) with
  | none => exact ⟨fun m hm => rx_closedInterval_ne hm, peer_closedInterval, rx_closedInterval_self⟩
  | some state =>
    refine ⟨fun m hm => ?_, ?_, ?_⟩
    · exact (rx_enterRxState_ne hm _ _).trans (rx_closedInterval_ne hm)
    · exact (peer_enterRxState _ _ _).trans peer_closedInterval
    · rw [rx_enterRxState_self, rx_closedInterval_self]

end

/-- Settles O7. -/
theorem intervalCloses : Obligations.IntervalCloses := by
  intro s l hr
  refine ⟨fun hj => ?first, fun hj => ?judged⟩
  case first =>
    rw [exec_intervalClose_first hr hj]
    simp only [LaneRx.delineated, Bool.decide_or, beq_eq_decide]
  case judged =>
    intro errored recover up clean
    have herr : (s.rx l).intervalErrored s.mga.settings.erroredThreshold = errored := rfl
    obtain ⟨t, ht, hother, hpeer, hself⟩ := exec_intervalClose_receiver hr hj
    rw [herr] at hself
    refine ⟨fun hs => ⟨t, ht, hother, hpeer, hself.trans ?up⟩, fun hs => ⟨t, ht, hother, hpeer, hself.trans ?impaired⟩⟩
    case up =>
      have hx : (s.rx l).judged errored = { s.rx l with crcFailures := 0, headerFailure := false, erroredRun := up } := by
        simp [LaneRx.judged, hs, up]
      have hjudge : s.judgement ((s.rx l).judged errored) = if s.mga.settings.impairCount ≤ up then some .impaired else none := by
        rw [hx]
        simp [State.judgement, hs]
      rw [hjudge, hx]
      by_cases h : s.mga.settings.impairCount ≤ up
      · rw [if_pos h, if_pos h]
        rfl
      · rw [if_neg h, if_neg h]
    case impaired =>
      have hx : (s.rx l).judged errored = { s.rx l with crcFailures := 0, headerFailure := false, cleanRun := clean } := by
        simp [LaneRx.judged, hs, clean]
      have hjudge : s.judgement ((s.rx l).judged errored) = if recover ≤ clean then some .up else none := by
        rw [hx]
        simp only [State.judgement, hs]
        rfl
      rw [hjudge, hx]
      by_cases h : recover ≤ clean
      · rw [if_pos h, if_pos h]
        simp [LaneRx.entered, hs]
      · rw [if_neg h, if_neg h]

/-! ### The search for a cell boundary (R75) -/

section

variable {s : State} {l : Lane} {x : Byte}

theorem slideWindow_eq (w : List Byte) (x : Byte) : slideWindow w x = (w ++ [x]).drop (w.length + 1 - 8) := by
  rw [slideWindow, List.length_append, List.length_singleton]

theorem candidatePasses_iff (w : List Byte) : candidatePasses w = true ↔ w.length = 8 ∧ crc8 (w.take 7) = byteAt w 7 := by
  simp [candidatePasses, headerPasses]

theorem exec_huntByte (hr : s.restarting = false) (h : (s.rx l).state = .hunt) :
    exec (.huntByte l x) s = .next
      (if ((s.rx l).searched x).goodHeaders = 8 then enterRxState l .up (s.setRx l ((s.rx l).searched x))
       else s.setRx l ((s.rx l).searched x)) := by
  show execHuntByte l x s = _
  rw [execHuntByte, if_neg (by simp [hr]), huntOn, if_pos h]
  rfl

/-- Outside a provisional boundary each byte ends a candidate. -/
theorem LaneRx.searched_free {r : LaneRx} (h : r.goodHeaders = 0) (x : Byte) :
    r.searched x =
      if candidatePasses (slideWindow r.huntWindow x) then
        { r with huntWindow := slideWindow r.huntWindow x, goodHeaders := 1, huntWait := 128 }
      else { r with huntWindow := slideWindow r.huntWindow x, huntWait := 0 } := if_pos h

/-- The byte that completes the next header of a provisional boundary. -/
theorem LaneRx.searched_header {r : LaneRx} (h : r.goodHeaders ≠ 0) (hw : r.huntWait = 1) (x : Byte) :
    r.searched x =
      if candidatePasses (slideWindow r.huntWindow x) then
        { r with huntWindow := slideWindow r.huntWindow x, goodHeaders := min (r.goodHeaders + 1) 8, huntWait := 128 }
      else { r with huntWindow := slideWindow r.huntWindow x, goodHeaders := 0, huntWait := 0 } := by
  rw [LaneRx.searched, if_neg h, if_neg (by omega)]
  rfl

end

/-- Settles O22. -/
theorem huntFindsBoundary : Obligations.HuntFindsBoundary := by
  intro s l x hr w passes
  have hwin : slideWindow (s.rx l).huntWindow x = w := slideWindow_eq _ _
  have hpass : candidatePasses w = true ↔ passes := candidatePasses_iff w
  refine ⟨fun hs => ?other, fun hs hg hp => ?failing, fun hs hg hp => ?first, fun hs hg hw hp => ?lost, fun hs hg hw hp => ?eighth⟩
  case other =>
    show execHuntByte l x s = _
    rw [execHuntByte, if_neg (by simp [hr]), huntOn, if_neg hs]
  case failing =>
    rw [exec_huntByte hr hs, LaneRx.searched_free hg, hwin, if_neg (mt hpass.1 hp), if_neg (by simp [hg])]
  case first =>
    rw [exec_huntByte hr hs, LaneRx.searched_free hg, hwin, if_pos (hpass.2 hp), if_neg (by simp)]
  case lost =>
    rw [exec_huntByte hr hs, LaneRx.searched_header (by omega) hw, hwin, if_neg (mt hpass.1 hp), if_neg (by simp)]
  case eighth =>
    rw [exec_huntByte hr hs, LaneRx.searched_header (by omega) hw, hwin, if_pos (hpass.2 hp), if_pos (by simp [hg])]
    have h := enterRxState_rel l .up (s.setRx l { s.rx l with
      huntWindow := w, goodHeaders := min ((s.rx l).goodHeaders + 1) 8, huntWait := 128 })
    refine ⟨_, rfl, ?_, fun m hm => ?_, h.pins, h.psc, peer_enterRxState _ _ _⟩
    · rw [rx_enterRxState_self, State.rx_setRx_self]
      simp [LaneRx.entered, hs, hg]
    · rw [rx_enterRxState_ne hm, State.rx_setRx, if_neg hm]

/-! ### Aging (R114, R115) -/

/-- Settles O8. -/
theorem contextsAge : Obligations.ContextsAge := by
  refine ⟨fun s hr => ?tick, fun s c n hr hatt howner hpin harr hheld hage => ?expiry⟩
  case tick =>
    refine ⟨{ s with mrg := s.mrg.map Context.aged }, if_neg (by simp [hr]), rfl, fun c => ?_⟩
    have hc : State.context { s with mrg := s.mrg.map Context.aged } c = (s.context c).aged := look_map _ _ _
    rw [hc]
    refine ⟨fun hatt => if_neg hatt, fun hatt => ?_⟩
    rw [Context.aged, if_pos hatt]
    refine ⟨rfl, rfl, hatt, rfl, rfl, rfl, ?_, ?_⟩
    · simp only [List.isEmpty_iff]
    · by_cases ha : (s.context c).arrived = true
      · simp [ha]
      · simp [ha, Config.contextAge]
  case expiry =>
    show execContextAgeExpiry c s = _
    have hexp : ((s.context c).expires && !s.restarting) = true := by
      simp [Context.expires, hatt, hpin, harr, hheld, hr, Config.contextAge]
      omega
    rw [execContextAgeExpiry, howner]
    dsimp only
    rw [if_pos hexp, detach, hpin]
    rfl

end Sys2Proof.Machine
end

section
/-! Loss of signal and its end, and what an entry to a receive state raises and counts (R74 to R77). -/

namespace Sys2Proof.Machine

open Safety

/-! ### A lane whose entry raises and counts its own alone -/

/-- The lane's events are silent, the views are the derived ones, and nothing is queued on the lane where its view may fall with its
receive state: an entry to a receive state raises the lane's event and leaves nothing else of the Event Unit but flags. -/
structure QuietLane (s : State) (l : Lane) : Prop where
  views : ViewsDerived s
  table : TableAgrees s
  entry : Silent s (srcLaneState l)
  view : Silent s (srcLaneView l)
  overcommit : Silent s srcOvercommit
  idle : s.lrx.peer.stale = true → (s.tx l).control = [] ∧ ∀ k, s.classQueue l k = []

theorem silent_congr {s t : State} {src : Source} (h : Silent s src) (he : t.evu = s.evu) : Silent t src where
  notFault := h.notFault
  unbound := by
    have hc (c : ChannelId) : t.channel c = s.channel c := by rw [State.channel, he]; rfl
    have hu := h.unbound
    unfold State.takerOf at hu ⊢
    simpa only [hc] using hu
  quiet := by
    have hq := h.quiet
    unfold State.source at hq ⊢
    rwa [he]

theorem QuietLane.congr {s t : State} {l : Lane} (h : QuietLane s l) (hstb : t.stb = s.stb) (hltx : t.ltx = s.ltx)
    (hevu : t.evu = s.evu) (hpeer : t.lrx.peer = s.lrx.peer) (hrx : ∀ m, (t.rx m).state = (s.rx m).state)
    (hxf : ∀ m, t.txfault m = s.txfault m) : QuietLane t l where
  views m := by
    rw [viewByRule_congr (hxf m) hpeer (hrx m), State.view, State.tx, hltx]
    exact h.views m
  table n := by
    rw [State.entry, hstb]
    exact h.table n
  entry := silent_congr h.entry hevu
  view := silent_congr h.view hevu
  overcommit := silent_congr h.overcommit hevu
  idle hs := by
    have hi := h.idle (hpeer ▸ hs)
    unfold State.classQueue State.tx at hi ⊢
    rwa [hltx]

theorem flagged_flags {named : Source → Prop} {src : Source} (hn : named src) (s : State) :
    OnlyFlags named s (flagged src s) := OnlyFlags.flaggedAs hn _ _

theorem cnt_flagged (src : Source) (s : State) : (flagged src s).cnt = s.cnt := by
  rw [flagged, flaggedAs_eq]
  rfl

theorem source_flagged_self (src : Source) (s : State) :
    (flagged src s).source src =
      if (s.source src).flag then { s.source src with repeats := min ((s.source src).repeats + 1) 65535 }
      else { s.source src with flag := true, repeats := 0, detail := .none } := by
  rw [flagged, flaggedAs_eq, State.source_setSource_self]

theorem source_flagged_congr {s t : State} (h : t.evu = s.evu) (src : Source) :
    (flagged src t).source src = (flagged src s).source src := by
  have hs : t.source src = s.source src := by
    rw [State.source, h]
    rfl
  rw [source_flagged_self, source_flagged_self, hs]

theorem bump_evu (r : CounterRef) (s : State) : (bump r s).evu = s.evu := by
  rw [bump_eq]
  rfl

/-- The entry counted (R77). -/
def entryCounted (l : Lane) (state : RxState) (s : State) : State :=
  match entryCounter state with
  | some c => bump (.lane l c.id) s
  | none => s

theorem entryCounted_eq (l : Lane) (state : RxState) (s : State) :
    entryCounted l state s = s.setCnt (entryCounted l state s).cnt := by
  unfold entryCounted
  cases entryCounter state with
  | none => rfl
  | some c => simp only [bump_eq]; rfl

theorem cnt_entryCounted_congr {s t : State} (h : t.cnt = s.cnt) (l : Lane) (state : RxState) :
    (entryCounted l state t).cnt = (entryCounted l state s).cnt := by
  unfold entryCounted
  cases entryCounter state with
  | none => exact h
  | some c => simp only [bump_eq, State.setCnt_cnt, h]

section

variable {s : State} {l : Lane} {state : RxState}

theorem enteredRx_quiet (h : QuietLane s l)
    (hc : ∀ c, entryCounter state = some c → (s.counter (.lane l c.id)).atHalf = false) :
    enteredRx l state s = entryCounted l state (flagged (srcLaneState l) (s.setRx l ((s.rx l).entered state))) := by
  have hs : Silent (s.setRx l ((s.rx l).entered state)) (srcLaneState l) := silent_congr h.entry rfl
  unfold enteredRx countEntry entryCounted
  rw [fire_flagged hs]
  cases hec : entryCounter state with
  | none => rfl
  | some c =>
    refine count_bump ?_
    rw [counter_eq, cnt_flagged]
    exact hc c hec

/-- An entry to a receive state on a quiet lane: the entry's count and the lane's flag (R77). -/
theorem enterRxState_quiet (h : QuietLane s l)
    (hc : ∀ c, entryCounter state = some c → (s.counter (.lane l c.id)).atHalf = false) :
    (enterRxState l state s).cnt = (entryCounted l state s).cnt ∧
      (enterRxState l state s).source (srcLaneState l) = (flagged (srcLaneState l) s).source (srcLaneState l) := by
  let named (i : Source) : Prop := i = srcLaneView l ∨ i = srcOvercommit
  have hne : ¬ named (srcLaneState l) := by
    rintro (h | h) <;> cases l <;> cases h
  have heq := enteredRx_quiet h hc
  have hflag := flagged_flags (named := fun _ => True) (src := srcLaneState l) trivial (s.setRx l ((s.rx l).entered state))
  have hcnt : (enteredRx l state s).cnt = (entryCounted l state s).cnt := by
    rw [heq]
    exact (cnt_entryCounted_congr (cnt_flagged _ _) _ _).trans (cnt_entryCounted_congr (s := s) (t := s.setRx l ((s.rx l).entered state)) rfl _ _)
  have hsrc : (enteredRx l state s).source (srcLaneState l) = (flagged (srcLaneState l) s).source (srcLaneState l) := by
    rw [heq, entryCounted_eq, State.setCnt_source]
    exact source_flagged_congr (by rfl) _
  rw [enterRxState_eq]
  split
  · next hst =>
    have hevu : (enteredRx l state s).evu = (flagged (srcLaneState l) (s.setRx l ((s.rx l).entered state))).evu := by
      rw [heq, entryCounted_eq]
      rfl
    have hltx : (enteredRx l state s).ltx = (flagged (srcLaneState l) (s.setRx l ((s.rx l).entered state))).ltx := by
      rw [heq, entryCounted_eq]
      rfl
    have hsil {src : Source} (k : Silent s src) : Silent (enteredRx l state s) src :=
      silent_congr (hflag.silent (silent_congr k rfl)) hevu
    have hq := enteredRx_only l state s
    have hown (m : Lane) (hv : (enteredRx l state s).view m ≠ (enteredRx l state s).derivedView m) : m = l := by
      by_contra hml
      refine hv ?_
      rw [hq.view, hq.derivedView, ← viewByRule_eq]
      refine (h.views m).trans ?_
      exact (viewByRule_congr (s := s) (t := s.setRx l ((s.rx l).entered state)) rfl rfl (by rw [State.rx_setRx, if_neg hml])).symm
    have hd : OnlyFlags named (enteredRx l state s) (deriveViews (enteredRx l state s)) := by
      refine deriveViews_flags (fun n => ?_) (hsil h.overcommit) (.inr rfl) fun m hv => ?_
      · rw [hq.entry]
        exact h.table n
      · obtain rfl := hown m hv
        refine ⟨.inl rfl, hsil h.view, fun _ => ?_⟩
        obtain ⟨hi, hk⟩ := h.idle hst
        refine ⟨?_, fun k => (hq.classQueue m k).trans (hk k)⟩
        rw [State.tx, hltx]
        exact (hflag.control m).trans hi
    exact ⟨hd.cnt.trans hcnt, (hd.others _ hne).trans hsrc⟩
  · exact ⟨hcnt, hsrc⟩

end

/-! ### The search over the bytes of one cell (R75, R76) -/

/-- A search that cannot delineate within `k` more bytes: at most one good header, and the next one beyond them. -/
def LaneRx.Early (r : LaneRx) (k : Nat) : Prop := r.goodHeaders = 0 ∨ (r.goodHeaders = 1 ∧ k < r.huntWait)

theorem LaneRx.Early.searched {r : LaneRx} {k : Nat} (h : r.Early (k + 1)) (hk : k < 128) (b : Byte) :
    (r.searched b).Early k := by
  rcases h with h | ⟨h, hw⟩
  · rw [LaneRx.searched_free h]
    split
    · exact .inr ⟨rfl, hk⟩
    · exact .inl h
  · have : r.searched b = { r with huntWindow := slideWindow r.huntWindow b, huntWait := r.huntWait - 1 } := by
      rw [LaneRx.searched, if_neg (by omega), if_pos (by omega)]
    rw [this]
    exact .inr ⟨h, by show k < r.huntWait - 1; omega⟩

theorem LaneRx.Early.goodHeaders_le {r : LaneRx} {k : Nat} (h : r.Early k) : r.goodHeaders ≤ 1 := by
  rcases h with h | ⟨h, -⟩ <;> omega

theorem setRx_self (s : State) (l : Lane) : s.setRx l (s.rx l) = s := by cases l <;> rfl

theorem setRx_setRx (s : State) (l : Lane) (x y : LaneRx) : (s.setRx l x).setRx l y = s.setRx l y := by cases l <;> rfl

/-- Fewer than 129 bytes searched from a fresh start: the search moves on and the lane still hunts. -/
theorem foldl_huntOn_early {l : Lane} (bs : List Byte) {s : State} (hs : (s.rx l).state = .hunt)
    (he : (s.rx l).Early bs.length) (hb : bs.length ≤ 128) :
    bs.foldl (huntOn l) s = s.setRx l (bs.foldl LaneRx.searched (s.rx l)) ∧
      (bs.foldl LaneRx.searched (s.rx l)).goodHeaders ≤ 1 := by
  induction bs generalizing s with
  | nil => exact ⟨(setRx_self s l).symm, he.goodHeaders_le⟩
  | cons b rest ih =>
    rw [List.length_cons] at he hb
    have hnext := he.searched (by omega) b
    have hstep : huntOn l s b = s.setRx l ((s.rx l).searched b) := by
      have := hnext.goodHeaders_le
      rw [huntOn, if_pos hs]
      exact if_neg (by rw [goodHeadersNeeded]; omega)
    have hrx : (s.setRx l ((s.rx l).searched b)).rx l = (s.rx l).searched b := State.rx_setRx_self _ _ _
    obtain ⟨hfold, hle⟩ := ih (s := s.setRx l ((s.rx l).searched b)) (by rw [hrx, LaneRx.searched_state, hs])
      (by rw [hrx]; exact hnext) (by omega)
    rw [hrx] at hfold hle
    exact ⟨by rw [List.foldl_cons, hstep, hfold, setRx_setRx]; rfl, hle⟩

theorem LaneRx.searched_only (r : LaneRx) (b : Byte) :
    ∃ g w k, r.searched b = { r with goodHeaders := g, huntWindow := w, huntWait := k } := by
  unfold LaneRx.searched
  dsimp only
  split_ifs <;> exact ⟨_, _, _, rfl⟩

theorem foldl_searched_only (bs : List Byte) (r : LaneRx) :
    ∃ g w k, bs.foldl LaneRx.searched r = { r with goodHeaders := g, huntWindow := w, huntWait := k } := by
  induction bs generalizing r with
  | nil => exact ⟨_, _, _, rfl⟩
  | cons b rest ih =>
    obtain ⟨g, w, k, h⟩ := r.searched_only b
    obtain ⟨g', w', k', h'⟩ := ih (r.searched b)
    exact ⟨g', w', k', by rw [List.foldl_cons, h', h]⟩

/-! ### The examination of a cell (R3) -/

section

variable {s : State} {l : Lane} {cell : List Byte}

theorem exec_cellReceive (hl : cell.length = 128) (hr : s.restarting = false)
    (hs : (s.rx l).state = .up ∨ (s.rx l).state = .impaired) :
    exec (.laneCellReceive l cell) s = .next (examine l cell s) := by
  have hd : ((s.rx l).delineated && !s.restarting) = true := by
    rcases hs with hs | hs <;> simp [LaneRx.delineated, hs, hr]
  show execLaneCellReceive l cell s = _
  rw [execLaneCellReceive, if_pos (show cell.length = linkCellSize from hl), if_pos hd]

theorem examine_headerFailed (h : crc8 (cell.take 7) ≠ byteAt cell 7) : examine l cell s = headerFailed l cell s := by
  rw [examine, if_neg (by simpa [headerPasses] using h)]

/-- The lane's record with one header failure more (R76, R81). -/
def failedHeader (l : Lane) (s : State) : State :=
  (countLane l .rxHdrErr s).setRx l { s.rx l with headerFailure := true, badHeaders := (s.rx l).badHeaders + 1 }

theorem headerFailed_counts (h : (s.rx l).badHeaders < 3) : headerFailed l cell s = failedHeader l s := by
  have hrx := (countLane_only l .rxHdrErr s).rx l
  rw [headerFailed, hrx, if_neg (by rw [badHeadersAllowed]; omega)]
  rfl

/-- On the fourth failing header in a row the lane hunts, and searches the cell's other bytes without finding more than one header. -/
theorem headerFailed_hunts (hl : cell.length = 128) (h : (s.rx l).badHeaders = 3) :
    ∃ r : LaneRx, headerFailed l cell s = (enterRxState l .hunt (failedHeader l s)).setRx l r ∧ r.goodHeaders ≤ 1 ∧
      ∃ g w k, r = { (s.rx l).lost .hunt with goodHeaders := g, huntWindow := w, huntWait := k } := by
  have hrx := (countLane_only l .rxHdrErr s).rx l
  have hlost : (enterRxState l .hunt (failedHeader l s)).rx l = (s.rx l).lost .hunt := by
    rw [rx_enterRxState_self, failedHeader, State.rx_setRx_self]
    rfl
  have hfail : headerFailed l cell s = (cell.drop 1).foldl (huntOn l) (enterRxState l .hunt (failedHeader l s)) := by
    rw [headerFailed, hrx, if_pos (by rw [badHeadersAllowed]; omega)]
    rfl
  have hlen : (cell.drop 1).length = 127 := by rw [List.length_drop, hl]
  obtain ⟨hfold, hle⟩ := foldl_huntOn_early (cell.drop 1) (s := enterRxState l .hunt (failedHeader l s)) (l := l)
    (by rw [hlost]; rfl) (by rw [hlost]; exact .inl rfl) (by omega)
  rw [hlost] at hfold hle
  exact ⟨_, hfail.trans hfold, hle, foldl_searched_only _ _⟩

end

/-! ### The pins (R74) -/

section

variable {s : State} {l : Lane}

theorem exec_lossOfSignal (hr : s.restarting = false) :
    exec (.lossOfSignal l) s = .next
      (if (s.rx l).state = .down then s.setLoss l true else enterRxState l .down (s.setLoss l true)) := by
  show execLossOfSignal l s = _
  have hr' : (s.setLoss l true).restarting = false := hr
  have hx : (s.setLoss l true).rx l = s.rx l := rfl
  simp only [execLossOfSignal, hr', hx, Bool.false_or, beq_iff_eq]

theorem exec_signalRestored (hr : s.restarting = false) :
    exec (.signalRestored l) s = .next
      (if (s.rx l).state = .down then enterRxState l .hunt (s.setLoss l false) else s.setLoss l false) := by
  show execSignalRestored l s = _
  have hr' : (s.setLoss l false).restarting = false := hr
  have hx : (s.setLoss l false).rx l = s.rx l := rfl
  simp only [execSignalRestored, hr', hx, Bool.false_or, bne_iff_ne, ne_eq, ite_not]

/-- An entry brought about by a loss input: the lane's record, and beside it no more than views derived again may touch. -/
theorem enterRxState_setLoss (level : Bool) (state : RxState) :
    let t := enterRxState l state (s.setLoss l level)
    t.pins = { s.pins with loss := s.pins.loss.set l level } ∧ t.rx l = (s.rx l).entered state ∧
      (∀ m, m ≠ l → t.rx m = s.rx m) ∧ t.lrx.peer = s.lrx.peer ∧ t.psc = s.psc ∧ t.lck = s.lck ∧ t.tin = s.tin := by
  have h := enterRxState_rel l state (s.setLoss l level)
  exact ⟨h.pins, rx_enterRxState_self _ _ _, fun m hm => rx_enterRxState_ne hm _ _, peer_enterRxState _ _ _, h.psc, h.lck, h.tin⟩

theorem QuietLane.setLoss (h : QuietLane s l) (level : Bool) : QuietLane (s.setLoss l level) l :=
  h.congr rfl rfl rfl rfl (fun _ => rfl) fun m => by cases m <;> rfl

theorem QuietLane.setRx (h : QuietLane s l) {x : LaneRx} (hx : x.state = (s.rx l).state) : QuietLane (s.setRx l x) l :=
  h.congr rfl rfl rfl rfl (fun m => by rw [State.rx_setRx]; split <;> simp_all) fun m => by cases m <;> rfl

theorem QuietLane.bump (h : QuietLane s l) (r : CounterRef) : QuietLane (bump r s) l := by
  rw [bump_eq]
  exact h.congr rfl rfl rfl rfl (fun _ => rfl) fun m => by cases m <;> rfl

/-- A close that judges an interval good changes the lane's record alone; an errored one is counted too (R82). -/
theorem closedInterval_good {s : State} {l : Lane} (h : (s.rx l).intervalErrored s.mga.settings.erroredThreshold = false) :
    closedInterval l s = s.setRx l ((s.rx l).judged false) := by
  rw [closedInterval, h]
  rfl

theorem closedInterval_errored {s : State} {l : Lane} (h : (s.rx l).intervalErrored s.mga.settings.erroredThreshold = true)
    (hc : (s.counter (.lane l LaneCounter.erroredIntervals.id)).atHalf = false) :
    closedInterval l s = (bump (.lane l LaneCounter.erroredIntervals.id) s).setRx l ((s.rx l).judged true) := by
  rw [closedInterval, h, if_pos rfl, countLane, count_bump hc]

end

/-- Settles O21: the pins and the record by what an entry leaves, the events by the entry to a state of a quiet lane. -/
theorem signalMovesLane : Obligations.SignalMovesLane := by
  intro s l hr fresh loss
  refine ⟨fun hs => ?_, fun hs => ?_, fun hs => ?_, fun hs => ?_, fun hviews htable hentry hview hover hidle hcalm => ?events⟩
  · exact ⟨_, by rw [exec_lossOfSignal hr, if_neg hs], enterRxState_setLoss true .down⟩
  · rw [exec_lossOfSignal hr, if_pos hs]
    rfl
  · exact ⟨_, by rw [exec_signalRestored hr, if_pos hs], enterRxState_setLoss false .hunt⟩
  · rw [exec_signalRestored hr, if_neg hs]
    rfl
  case events =>
    intro x enters isErrored recover
    have hq : QuietLane s l := ⟨hviews, htable, hentry, hview, hover, hidle⟩
    have hdown := hcalm (.lane l LaneCounter.downEntries.id) (by simp)
    have hhunt := hcalm (.lane l LaneCounter.huntEntries.id) (by simp)
    have himp := hcalm (.lane l LaneCounter.impairedEntries.id) (by simp)
    have herr := hcalm (.lane l LaneCounter.erroredIntervals.id) (by simp)
    have hhdr := hcalm (.lane l LaneCounter.rxHdrErr.id) (by simp)
    refine ⟨fun hs => ?down, fun hs => ?hunt, fun hj hs he hrun => ?impaired, fun hj hs he hrun => ?up,
      fun y => ?eighth, fun cell hlen hs hbad h3 => ?fourth⟩
    case down =>
      obtain ⟨hcnt, hsrc⟩ := enterRxState_quiet (state := .down) (hq.setLoss true) (fun c hc => by cases hc; exact hdown)
      exact ⟨_, by rw [exec_lossOfSignal hr, if_neg hs], hcnt, hsrc.trans (source_flagged_congr (by rfl) _)⟩
    case hunt =>
      obtain ⟨hcnt, hsrc⟩ := enterRxState_quiet (state := .hunt) (hq.setLoss false) (fun c hc => by cases hc; exact hhunt)
      exact ⟨_, by rw [exec_signalRestored hr, if_pos hs], hcnt, hsrc.trans (source_flagged_congr (by rfl) _)⟩
    case impaired =>
      have hbad : x.intervalErrored s.mga.settings.erroredThreshold = true := by
        simpa [LaneRx.intervalErrored] using he
      have hjudge : s.judgement (x.judged true) = some .impaired := by
        simp [State.judgement, LaneRx.judged, hs, hrun]
      have hex := exec_intervalClose_judged (l := l) hr hj
      rw [judgement_closedInterval, hbad, hjudge, closedInterval_errored hbad herr] at hex
      obtain ⟨hcnt, hsrc⟩ := enterRxState_quiet (state := .impaired)
        ((hq.bump (.lane l LaneCounter.erroredIntervals.id)).setRx (x := x.judged true) rfl)
        (fun c hc => by
          cases hc
          exact atHalf_bump_ne (by simp [LaneCounter.id]) himp)
      exact ⟨_, hex, hcnt, hsrc.trans (source_flagged_congr (by rw [State.setRx_evu, bump_evu]) _)⟩
    case up =>
      have hgood : x.intervalErrored s.mga.settings.erroredThreshold = false := by
        simpa [LaneRx.intervalErrored, isErrored] using he
      have hjudge : s.judgement (x.judged false) = some .up := by
        simp only [State.judgement, LaneRx.judged, hs]
        exact if_pos hrun
      have hex := exec_intervalClose_judged (l := l) hr hj
      rw [judgement_closedInterval, hgood, hjudge, closedInterval_good hgood] at hex
      obtain ⟨hcnt, hsrc⟩ := enterRxState_quiet (state := .up) (hq.setRx (x := x.judged false) rfl) (fun c hc => by cases hc)
      exact ⟨_, hex, hcnt, hsrc.trans (source_flagged_congr (by rfl) _)⟩
    case eighth =>
      intro w hs hg hw hlen hcrc
      have hpass : candidatePasses (slideWindow x.huntWindow y) = true := by
        rw [slideWindow_eq]
        exact (candidatePasses_iff _).2 ⟨hlen, hcrc⟩
      have hsearch : x.searched y =
          { x with huntWindow := slideWindow x.huntWindow y, goodHeaders := min (x.goodHeaders + 1) 8, huntWait := 128 } := by
        rw [LaneRx.searched_header (by omega) hw, if_pos hpass]
      obtain ⟨hcnt, hsrc⟩ := enterRxState_quiet (state := .up) (hq.setRx (x := x.searched y) (by rw [hsearch]))
        (fun c hc => by cases hc)
      refine ⟨_, ?_, hcnt, hsrc.trans (source_flagged_congr (by rfl) _)⟩
      rw [exec_huntByte hr hs, if_pos]
      show (x.searched y).goodHeaders = 8
      rw [hsearch]
      exact min_eq_right (by rw [hg])
    case fourth =>
      have hfail : failedHeader l s = (bump (.lane l LaneCounter.rxHdrErr.id) s).setRx l
          { s.rx l with headerFailure := true, badHeaders := (s.rx l).badHeaders + 1 } := by
        rw [failedHeader, countLane, count_bump hhdr]
      obtain ⟨r, hhunts, -, -⟩ := headerFailed_hunts hlen h3
      obtain ⟨hcnt, hsrc⟩ := enterRxState_quiet (state := .hunt)
        ((hq.bump (.lane l LaneCounter.rxHdrErr.id)).setRx
          (x := { s.rx l with headerFailure := true, badHeaders := (s.rx l).badHeaders + 1 }) rfl)
        (fun c hc => by
          cases hc
          exact atHalf_bump_ne (by simp [LaneCounter.id]) hhunt)
      rw [← hfail] at hcnt hsrc
      refine ⟨(enterRxState l .hunt (failedHeader l s)).setRx l r, ?_, hcnt.trans ?_, hsrc.trans ?_⟩
      · rw [exec_cellReceive hlen hr hs, examine_headerFailed hbad, hhunts]
      · rw [hfail]
        rfl
      · rw [hfail]
        exact source_flagged_congr (by rw [State.setRx_evu, bump_evu]) _

end Sys2Proof.Machine
end

section
/-! What an event and a fault cause can do, said once for every relation between states: a relation that the single updates keep holds
of a firing, a count, a notice, an EXPORT, a fault cause, a dereference, a response and a recomputation of committed load. -/

namespace Sys2Proof.Machine

open Safety

theorem present_of_reachablePort {s : State} {p : PortId} (h : s.reachablePort = some p) : s.present p = true := by
  unfold State.reachablePort at h
  split at h
  · exact absurd h (by simp)
  · split at h
    · next hp => exact Option.some.inj h ▸ hp
    · exact absurd h (by simp)

/-- The sources that a count, an allocation, a routing, an EXPORT, a fault cause, a recomputation of committed load or an answer
fires. -/
inductive Secondary : Source → Prop
  | counterHalf : Secondary srcCounterHalf
  | undeliverable : Secondary srcUndeliverable
  | bufferLow : Secondary srcBufferLow
  | exportDone (ch : ChannelId) : Secondary (srcExportDone ch)
  | fault : Secondary srcFault
  | overcommit : Secondary srcOvercommit
  | mgmtError : Secondary srcMgmtError

/-- The relation holds of each update that such an event may make. -/
structure EventClosed (R : State → State → Prop) : Prop where
  refl : ∀ s, R s s
  trans : ∀ {s t u : State}, R s t → R t u → R s u
  bfm : ∀ s x, R s (s.setBfm x)
  counter : ∀ s r x, R s (s.setCounter r x)
  source : ∀ s i x, Secondary i → R s (s.setSource i x)
  floor : ∀ s f, s.evu.floor ≤ f → R s (s.setFloor f)
  channel : ∀ s ch x, R s (s.setChannel ch x)
  joinPort : ∀ s p b, s.reachablePort = some p → (s.egress p).length < Config.egressDepth → R s (s.setEgress p (s.egress p ++ [.control b]))
  joinLane : ∀ s l b, s.placement = some l → R s (s.setControl l ((s.tx l).control ++ [b]))

namespace EventClosed

variable {R : State → State → Prop} (h : EventClosed R)

include h

theorem foldl {α : Type} {f : State → α → State} (hf : ∀ s a, R s (f s a)) (as : List α) (s : State) : R s (as.foldl f s) := by
  induction as generalizing s with
  | nil => exact h.refl s
  | cons a as ih => exact h.trans (hf s a) (ih _)

theorem foldlPair {α β : Type} {f : State × β → α → State × β} (hf : ∀ x a, R x.1 (f x a).1) (as : List α) (x : State × β) :
    R x.1 (as.foldl f x).1 := by
  induction as generalizing x with
  | nil => exact h.refl _
  | cons a as ih => exact h.trans (hf x a) (ih _)

theorem dropReference (s : State) (b : Nat) : R s (s.dropReference b).1 := by
  obtain ⟨x, hx⟩ := State.dropReference_fst s b
  rw [hx]
  exact h.bfm _ _

theorem allocate {s t : State} {threshold refs b : Nat} {cell : Cell} (ha : s.allocate threshold refs cell = some (b, t)) :
    R s t := by
  obtain ⟨_, -, -, rfl⟩ := State.allocate_eq_some.1 ha
  exact h.bfm _ _

theorem storeCell (s : State) (b : Nat) (x : Cell) : R s (s.storeCell b x) := h.bfm _ _

section Raise

variable {raise : Raise} (hr : ∀ src, Secondary src → ∀ d s, R s (raise src d s))

include hr

theorem countWith (r : CounterRef) (s : State) : R s (countWith raise r s) := by
  unfold Machine.countWith
  dsimp only
  split
  · exact h.trans (h.counter _ _ _) (hr _ .counterHalf _ _)
  · exact h.counter _ _ _

theorem undeliverableWith (s : State) : R s (undeliverableWith raise s) := h.trans (h.countWith hr _ s) (hr _ .undeliverable _ _)

theorem raiseIfLow (before s : State) : R s (raiseIfLow raise before s) := by
  unfold Machine.raiseIfLow
  split
  · exact hr _ .bufferLow _ _
  · exact h.refl s

theorem allocateWith {s t : State} {threshold refs b : Nat} {cell : Cell}
    (ha : allocateWith raise threshold refs cell s = some (b, t)) : R s t := by
  unfold Machine.allocateWith at ha
  split at ha
  · cases ha
  · next b' t' ht =>
    obtain ⟨rfl, rfl⟩ := Prod.mk.inj (Option.some.inj ha)
    exact h.trans (h.allocate ht) (h.raiseIfLow hr _ _)

section LetGo

variable {letGo : LetGo} (hg : ∀ b s, R s (letGo b s))

include hg

theorem discardWith (b : Nat) (s : State) : R s (discardWith raise letGo b s) :=
  h.trans (hg b s) (h.undeliverableWith hr _)

theorem placeControlWith (b : Nat) (s : State) : R s (placeControlWith raise letGo b s) := by
  unfold Machine.placeControlWith
  split
  · next hl => exact h.joinLane _ _ _ hl
  · exact h.discardWith hr hg b s

theorem controllerRouteWith (fromLane : Bool) (b : Nat) (s : State) : R s (controllerRouteWith raise letGo fromLane b s) := by
  unfold Machine.controllerRouteWith
  split
  · next p hp =>
    unfold offerControlWith
    split
    · next hroom => exact h.joinPort _ _ _ hp hroom
    · exact h.trans (hg b s) (h.trans (h.countWith hr _ _) (h.undeliverableWith hr _))
  · split
    · exact h.discardWith hr hg b s
    · exact h.placeControlWith hr hg b s

end LetGo

omit hr in
theorem dropFresh (b : Nat) (s : State) : R s (dropFresh b s) := h.dropReference s b

theorem sendNoticeWith (s : State) : R s (sendNoticeWith raise s) := by
  unfold Machine.sendNoticeWith
  split
  · exact h.refl s
  · split
    · exact h.undeliverableWith hr s
    · next b t ht =>
      exact h.trans (h.allocate ht) (h.trans (h.controllerRouteWith hr h.dropFresh _ _ _)
        (h.trans (h.countWith hr _ _) (h.raiseIfLow hr _ _)))

theorem exportAttemptWith (id : ChannelId) (s : State) : R s (exportAttemptWith raise id s) := by
  unfold Machine.exportAttemptWith
  dsimp only
  split
  · split
    · exact h.refl s
    · next b t ht =>
      have hsent : ∀ x y z, R s ((Machine.raiseIfLow raise s (Machine.controllerRouteWith raise Machine.dropFresh false b
          ((t.setChannel id x).storeCell b y))).setChannel id z) := fun x y z =>
        h.trans (h.allocate ht) (h.trans (h.channel t id x) (h.trans (h.storeCell _ b y)
          (h.trans (h.controllerRouteWith hr h.dropFresh false b _) (h.trans (h.raiseIfLow hr s _) (h.channel _ id z)))))
      split
      · exact h.trans (hsent _ _ _) (hr _ (.exportDone id) _ _)
      · exact hsent _ _ _
  · exact h.refl s

theorem takeFiringWith (id : ChannelId) (s : State) : R s (takeFiringWith raise id s) := by
  unfold Machine.takeFiringWith
  dsimp only
  split
  · exact h.countWith hr _ s
  · exact h.trans (h.channel _ _ _) (h.exportAttemptWith hr _ _)

theorem noticeRuleWith (src : Source) (s : State) : R s (noticeRuleWith raise src s) := by
  unfold Machine.noticeRuleWith
  split
  · exact h.sendNoticeWith hr s
  · split
    · next hlt => exact h.trans (h.floor _ _ (Nat.le_of_lt hlt)) (h.sendNoticeWith hr _)
    · exact h.refl s

theorem fireWith (src : Source) (hn : Secondary src) (d : Detail) (s : State) : R s (fireWith raise src d s) := by
  unfold Machine.fireWith
  split
  · exact h.takeFiringWith hr _ s
  · split
    · exact h.source _ _ _ hn
    · exact h.trans (h.source _ _ _ hn) (h.noticeRuleWith hr src _)

end Raise

theorem fireTo (n : Nat) (src : Source) (hn : Secondary src) (d : Detail) (s : State) : R s (fireTo n src d s) := by
  induction n generalizing src d s with
  | zero => exact h.refl s
  | succ n ih => exact h.fireWith ih src hn d s

theorem fire (src : Source) (hn : Secondary src) (d : Detail) (s : State) : R s (fire src d s) := by
  unfold Machine.fire
  exact h.fireTo _ _ hn _ _

theorem count (r : CounterRef) (s : State) : R s (count r s) := h.countWith h.fire r s

theorem countTimes (r : CounterRef) (n : Nat) (s : State) : R s (countTimes r n s) := by
  induction n generalizing s with
  | zero => exact h.refl s
  | succ n ih => exact h.trans (h.count r s) (ih _)

theorem undeliverable (s : State) : R s (undeliverable s) := h.undeliverableWith h.fire s

theorem allocateControl {cell : Cell} {s t : State} {b : Nat} (ha : allocateControl cell s = some (b, t)) : R s t :=
  h.allocateWith h.fire ha

theorem sendNotice (s : State) : R s (sendNotice s) := h.sendNoticeWith h.fire s

theorem respondInOwnBufferWith {letGo : LetGo} (hg : ∀ b s, R s (letGo b s)) (dest : Fin 8) (cell : Cell) (s : State) :
    R s (respondInOwnBufferWith letGo dest cell s) := by
  unfold Machine.respondInOwnBufferWith
  split
  · exact h.undeliverable s
  · next b t ht =>
    refine h.trans (h.allocateControl ht) ?_
    unfold routeResponseWith
    split
    · exact h.controllerRouteWith h.fire hg _ _ _
    · split
      · exact h.placeControlWith h.fire hg _ _
      · exact h.discardWith h.fire hg _ _

end EventClosed

/-- The relation holds of each update that a fault cause, an entry to FAULT-HOLD or a drain's completion may make. -/
structure HoldClosed (R : State → State → Prop) : Prop extends EventClosed R where
  load : ∀ s l x, R s (s.setLoad l x)
  record : ∀ s cause index, s.mga.held = false →
    R s (s.setMga { s.mga with faultCause := some cause, faultIndex := index, furtherFaults := 0, held := true })
  further : ∀ s k, R s (s.setMga { s.mga with furtherFaults := k })
  suspend : ∀ s d, s.mga.drain = some d → R s (suspendDrained d s)
  flush : ∀ s l k, R s (s.setClassQueue l k [])
  subQueued : ∀ s n, R s (s.subQueued n)
  window : ∀ s c, (s.context c).condition = .attached → R s (s.setContext c (s.context c).emptied)
  purge : ∀ s p, R s (s.setEgress p ((s.egress p).filter EgressEntry.isControl))

namespace HoldClosed

variable {R : State → State → Prop} (h : HoldClosed R)

include h

theorem recomputeLoad (s : State) : R s (recomputeLoad s) :=
  h.trans (h.foldl (fun _ _ => h.load _ _ _) _ s) (h.foldl (fun _ _ => h.fire _ .overcommit _ _) _ _)

theorem finishDrain {letGo : LetGo} (hg : ∀ b s, R s (letGo b s)) {d : Drain} {s : State} (hd : s.mga.drain = some d) :
    R s (finishDrain letGo d s) :=
  h.trans (h.suspend s d hd)
    (h.trans (h.respondInOwnBufferWith hg _ _ _) (h.recomputeLoad _))

theorem flushEntry (l : Lane) (x : State × List Nat) (e : QueueEntry) : R x.1 (flushEntry l x e).1 :=
  h.trans (h.dropReference x.1 e.buffer) (h.trans (h.subQueued _ _) (h.count _ _))

theorem flushQueue (x : State × List Nat) (q : Lane × Fin 4) : R x.1 (flushQueue x q).1 :=
  h.trans (h.flush x.1 q.1 q.2) (h.foldlPair (h.flushEntry q.1) _ (x.1.setClassQueue q.1 q.2 [], x.2))

theorem emptyWindow (x : State × List Nat) (c : ContextId) : R x.1 (emptyWindow x c).1 := by
  unfold Machine.emptyWindow
  dsimp only
  split
  · next hatt =>
    exact h.trans (h.window x.1 c hatt)
      (h.foldlPair (f := dropGathering) (fun x b => h.dropReference x.1 b) _ (x.1.setContext c (x.1.context c).emptied, x.2))
  · exact h.refl _

theorem purgeEntry (p : PortId) (x : State × List Nat) (e : EgressEntry) : R x.1 (purgeEntry p x e).1 := by
  unfold Machine.purgeEntry
  split
  · next b n _ =>
    dsimp only [dropGathering, countPort, countStream]
    exact h.trans (h.dropReference x.1 b) (h.trans (h.count _ _) (h.count _ _))
  · exact h.count (.port p PortCounter.outDrop.id) _
  · exact h.refl _

theorem purgePort (x : State × List Nat) (p : PortId) : R x.1 (purgePort x p).1 :=
  h.trans (h.purge x.1 p)
    (h.foldlPair (h.purgeEntry p) _ (x.1.setEgress p ((x.1.egress p).filter EgressEntry.isControl), x.2))

theorem holdActions (s : State) : R s (holdActions s).1 :=
  h.trans (h.foldlPair h.flushQueue _ (s, [])) (h.trans (h.foldlPair h.emptyWindow _ _) (h.foldlPair h.purgePort _ _))

theorem furtherFault (cause : FaultCause) (index : Nat) (s : State) : R s (furtherFault cause index s) :=
  h.trans (h.further s _) (h.fire _ .fault _ _)

theorem furtherFaults (found : Found) (s : State) : R s (found.foldl (fun s f => Machine.furtherFault f.1 f.2 s) s) :=
  h.foldl (fun _ _ => h.furtherFault _ _ _) found s

end HoldClosed

/-! ### What the entry to FAULT-HOLD does (R166) -/

/-- The fault record set (R166). -/
def recorded (cause : FaultCause) (index : Nat) (s : State) : State :=
  s.setMga { s.mga with faultCause := some cause, faultIndex := index, furtherFaults := 0, held := true }

/-- The station after the FAULT-HOLD actions, before FAULT fires: a pending drain completed (R29, R166). -/
def heldActed (cause : FaultCause) (index : Nat) (s : State) : State :=
  let acted := (holdActions (recorded cause index s)).1
  acted.mga.drain.elim acted (fun d => finishDrain dropFresh d acted)

/-- The entry to FAULT-HOLD: the actions, FAULT, and the causes they found as further faults. -/
theorem enterHold_eq (cause : FaultCause) (index : Nat) (s : State) :
    ∃ found : Found, enterHold cause index s =
      found.foldl (fun s f => furtherFault f.1 f.2 s) (fire srcFault (.fault cause index) (heldActed cause index s)) := by
  unfold enterHold heldActed recorded
  dsimp only
  generalize holdActions (s.setMga { s.mga with
    faultCause := some cause, faultIndex := index, furtherFaults := 0, held := true }) = acted
  cases acted.1.mga.drain with
  | none => exact ⟨_, rfl⟩
  | some d => exact ⟨_, rfl⟩

theorem raiseFault_held {s : State} (hh : s.mga.held = true) (cause : FaultCause) (index : Nat) :
    raiseFault cause index s = furtherFault cause index s := if_pos hh

theorem raiseFault_unheld {s : State} (hh : s.mga.held = false) (cause : FaultCause) (index : Nat) :
    raiseFault cause index s = enterHold cause index s := if_neg (by simp [hh])

namespace HoldClosed

variable {R : State → State → Prop} (h : HoldClosed R)

include h

theorem heldActed {s : State} (hh : s.mga.held = false) (cause : FaultCause) (index : Nat) :
    R s (heldActed cause index s) := by
  have hacted : R s (Machine.holdActions (recorded cause index s)).1 := h.trans (h.record s cause index hh) (h.holdActions _)
  unfold Machine.heldActed
  dsimp only
  generalize (Machine.holdActions (recorded cause index s)).1 = acted at hacted ⊢
  cases hd : acted.mga.drain with
  | none => exact hacted
  | some d => exact h.trans hacted (h.finishDrain h.dropFresh hd)

theorem raiseFault (cause : FaultCause) (index : Nat) (s : State) : R s (raiseFault cause index s) := by
  cases hh : s.mga.held with
  | true =>
    rw [raiseFault_held hh]
    exact h.furtherFault _ _ _
  | false =>
    obtain ⟨found, he⟩ := enterHold_eq cause index s
    rw [raiseFault_unheld hh, he]
    exact h.trans (h.heldActed hh cause index) (h.trans (h.fire _ .fault _ _) (h.furtherFaults _ _))

theorem raiseAll (found : Found) (s : State) : R s (raiseAll found s) := h.foldl (fun _ _ => h.raiseFault _ _ _) found s

theorem dereference (b : Nat) (s : State) : R s (dereference b s) := by
  unfold Machine.dereference
  dsimp only
  split
  · exact h.trans (h.dropReference s b) (h.raiseFault _ _ _)
  · exact h.dropReference s b

theorem discard (b : Nat) (s : State) : R s (discard b s) := h.discardWith h.fire h.dereference b s

theorem routeResponse (dest : Fin 8) (b : Nat) (s : State) : R s (routeResponse dest b s) := by
  unfold Machine.routeResponse routeResponseWith
  split
  · exact h.controllerRouteWith h.fire h.dereference _ _ _
  · split
    · exact h.placeControlWith h.fire h.dereference _ _
    · exact h.discardWith h.fire h.dereference _ _

theorem recompute (s : State) : R s (recompute s) := h.trans (h.recomputeLoad s) (h.raiseAll _ _)

end HoldClosed

/-! ### What stays while the station is held, and when nothing is left to take out -/

/-- The window of a context holds nothing (R118). -/
def WindowEmpty (s : State) (c : ContextId) : Prop := (s.context c).condition = .attached → (s.context c).heldCells = []

/-- A held station stays held with its fault record, a drain that is not pending does not become so, and what R72, R118 and R141 empty
is not filled again. -/
structure Stays (s t : State) : Prop where
  held : s.mga.held = true →
    t.mga.held = true ∧ t.mga.faultCause = s.mga.faultCause ∧ t.mga.faultIndex = s.mga.faultIndex
  drain : s.mga.drain = none → t.mga.drain = none
  egress : ∀ p, ∀ e ∈ t.egress p, e ∈ s.egress p ∨ e.isControl = true
  cls : ∀ l k, s.classQueue l k = [] → t.classQueue l k = []
  windows : ∀ c, WindowEmpty s c → WindowEmpty t c

namespace Stays

theorem refl (s : State) : Stays s s := ⟨fun h => ⟨h, rfl, rfl⟩, id, fun _ _ h => .inl h, fun _ _ => id, fun _ => id⟩

theorem trans {s t u : State} (h : Stays s t) (k : Stays t u) : Stays s u where
  held hs := by
    obtain ⟨ht, hc, hi⟩ := h.held hs
    obtain ⟨hu, hc', hi'⟩ := k.held ht
    exact ⟨hu, hc'.trans hc, hi'.trans hi⟩
  drain := k.drain ∘ h.drain
  egress p e he := (k.egress p e he).elim (h.egress p e) .inr
  cls l j := k.cls l j ∘ h.cls l j
  windows c := k.windows c ∘ h.windows c

/-- A change of none of the parts in question. -/
theorem of_eq {s t : State} (hm : t.mga = s.mga) (hd : t.dlv = s.dlv) (hl : t.ltx = s.ltx) (hr : t.mrg = s.mrg) : Stays s t where
  held hs := by rw [hm]; exact ⟨hs, rfl, rfl⟩
  drain hs := by rw [hm]; exact hs
  egress p e he := by rw [State.egress, hd] at he; exact .inl he
  cls l k hs := by rw [State.classQueue, State.tx, hl]; exact hs
  windows c hs := by rw [WindowEmpty, State.context, hr]; exact hs

theorem setEgress {s : State} {p : PortId} {q : List EgressEntry} (h : ∀ e ∈ q, e ∈ s.egress p ∨ e.isControl = true) :
    Stays s (s.setEgress p q) :=
  { refl s with
    egress := fun o e he => by
      rw [State.egress_setEgress] at he
      split at he
      · next ho => exact ho ▸ h e he
      · exact .inl he }

theorem setMga {s : State} {x : ManagementAgent}
    (hh : s.mga.held = true → x.held = true ∧ x.faultCause = s.mga.faultCause ∧ x.faultIndex = s.mga.faultIndex)
    (hd : s.mga.drain = none → x.drain = none) : Stays s (s.setMga x) := { refl s with held := hh, drain := hd }

theorem setContext {s : State} {c : ContextId} {x : Context}
    (h : WindowEmpty s c → x.condition = .attached → x.heldCells = []) : Stays s (s.setContext c x) :=
  { refl s with
    windows := fun d hd ha => by
      rw [State.context_setContext] at ha ⊢
      split at ha
      · next e =>
        rw [if_pos e]
        exact h (e ▸ hd) ha
      · next e =>
        rw [if_neg e]
        exact hd ha }

theorem setTx {s : State} {l : Lane} {x : LaneTx} (h : x.classes = (s.tx l).classes) : Stays s (s.setTx l x) :=
  { refl s with
    cls := fun m k hk => by
      rw [State.classQueue, State.tx_setTx]
      split
      · next e =>
        rw [h]
        exact e ▸ hk
      · exact hk }

theorem setClassQueue {s : State} {l : Lane} {k : Fin 4} {q : List QueueEntry} (h : s.classQueue l k = [] → q = []) :
    Stays s (s.setClassQueue l k q) :=
  { refl s with
    cls := fun m j hj => by
      rw [State.classQueue_setClassQueue]
      split
      · next e =>
        obtain ⟨rfl, rfl⟩ := e
        exact h hj
      · exact hj }

end Stays

theorem heldCells_emptied (x : Context) : x.emptied.heldCells = [] := by
  simp [Context.heldCells, Context.emptied]

theorem stays_closed : HoldClosed Stays where
  refl := Stays.refl
  trans := Stays.trans
  bfm _ _ := .of_eq rfl rfl rfl rfl
  counter _ r _ := by cases r <;> exact .of_eq rfl rfl rfl rfl
  source _ _ _ _ := .of_eq rfl rfl rfl rfl
  floor _ _ _ := .of_eq rfl rfl rfl rfl
  channel _ _ _ := .of_eq rfl rfl rfl rfl
  joinPort s p b _ _ := .setEgress fun e he => by
    rcases List.mem_append.1 he with he | he
    · exact .inl he
    · rw [List.mem_singleton.1 he]
      exact .inr rfl
  joinLane _ _ _ _ := .setTx rfl
  load _ _ _ := .setTx rfl
  record _ _ _ hh := .setMga (fun h => absurd h (by simp [hh])) id
  further _ _ := .setMga (fun h => ⟨h, rfl, rfl⟩) id
  suspend s _ _ := Stays.trans (t := s.setMga { s.mga with drain := none }) (.setMga (fun h => ⟨h, rfl, rfl⟩) fun _ => rfl)
    (.of_eq rfl rfl rfl rfl)
  flush _ _ _ := .setClassQueue fun _ => rfl
  subQueued _ _ := .of_eq rfl rfl rfl rfl
  window _ _ _ := .setContext fun _ _ => heldCells_emptied _
  purge _ _ := .setEgress fun _ he => .inl (List.mem_filter.1 he).1

/-! ### The station is held and its media gone after the entry (R72, R118, R141, R166) -/

/-- A round for each element brings about what the element asks and keeps what others asked. -/
theorem foldl_establishes {α β : Type} {f : β → α → β} {P : α → β → Prop} (h1 : ∀ x a, P a (f x a))
    (h2 : ∀ x a b, P b x → P b (f x a)) {as : List α} {a : α} (ha : a ∈ as) (x : β) : P a (as.foldl f x) := by
  have hkeep (as : List α) (x : β) (hx : P a x) : P a (as.foldl f x) := by
    induction as generalizing x with
    | nil => exact hx
    | cons b as ih => exact ih _ (h2 x b a hx)
  induction as generalizing x with
  | nil => cases ha
  | cons b as ih =>
    rcases List.mem_cons.1 ha with rfl | ha
    · exact hkeep as _ (h1 x a)
    · exact ih ha _

theorem mem_classPairs (l : Lane) (k : Fin 4) : (l, k) ∈ lanes.flatMap (fun l => classes.map (fun k => (l, k))) := by
  cases l <;> revert k <;> decide

theorem flushClassQueues_empties (x : State × List Nat) (l : Lane) (k : Fin 4) : (flushClassQueues x).1.classQueue l k = [] := by
  refine foldl_establishes (P := fun (q : Lane × Fin 4) (x : State × List Nat) => x.1.classQueue q.1 q.2 = []) (fun x q => ?_)
    (fun x q r hr => (stays_closed.flushQueue x q).cls _ _ hr) (mem_classPairs l k) x
  refine (stays_closed.foldlPair (stays_closed.flushEntry q.1) _ (x.1.setClassQueue q.1 q.2 [], x.2)).cls _ _ ?_
  exact State.classQueue_setClassQueue_self _ _ _ _

theorem emptyWindow_empties (x : State × List Nat) (c : ContextId) : WindowEmpty (emptyWindow x c).1 c := by
  unfold emptyWindow
  dsimp only
  split
  · refine (stays_closed.foldlPair (f := dropGathering) (fun x b => stays_closed.dropReference x.1 b) _
      (x.1.setContext c (x.1.context c).emptied, x.2)).windows c ?_
    rw [WindowEmpty, State.context_setContext_self]
    exact fun _ => heldCells_emptied _
  · next hc => exact fun h => absurd h hc

theorem purgePort_empties (x : State × List Nat) (p : PortId) : ∀ e ∈ (purgePort x p).1.egress p, e.isControl = true := by
  intro e he
  rcases (stays_closed.foldlPair (stays_closed.purgeEntry p) _
      (x.1.setEgress p ((x.1.egress p).filter EgressEntry.isControl), x.2)).egress p e he with h | h
  · rw [State.egress_setEgress_self] at h
    exact (List.mem_filter.1 h).2
  · exact h

theorem mediaGone_stays {s t : State} (h : MediaGone s) (k : Stays s t) : MediaGone t where
  cls l j := k.cls l j (h.cls l j)
  windows c := k.windows c (h.windows c)
  egress p e he := (k.egress p e he).elim (h.egress p e) id

theorem holdActions_mediaGone (s : State) : MediaGone (holdActions s).1 := by
  have hw (x : State × List Nat) : Stays x.1 (contextIds.foldl emptyWindow x).1 := stays_closed.foldlPair stays_closed.emptyWindow _ _
  have hp (x : State × List Nat) : Stays x.1 (portIds.foldl purgePort x).1 := stays_closed.foldlPair stays_closed.purgePort _ _
  constructor
  · exact fun l k => (hp _).cls l k ((hw _).cls l k (flushClassQueues_empties _ l k))
  · refine fun c => (hp _).windows c ?_
    exact foldl_establishes (P := fun c (x : State × List Nat) => WindowEmpty x.1 c) emptyWindow_empties
      (fun x a b hb => (stays_closed.emptyWindow x a).windows b hb) (List.mem_finRange c) _
  · refine fun p => foldl_establishes (P := fun p (x : State × List Nat) => ∀ e ∈ x.1.egress p, e.isControl = true)
      purgePort_empties (fun x a b hb e he => ?_) (List.mem_finRange p) _
    exact ((stays_closed.purgePort x a).egress b e he).elim (hb e) id

/-- The pending drain is gone once it has completed (R27). -/
theorem finishDrain_drain (d : Drain) (s : State) : (finishDrain dropFresh d s).mga.drain = none := by
  refine Stays.drain (s := suspendDrained d s) ?_ rfl
  exact (stays_closed.respondInOwnBufferWith stays_closed.dropFresh _ _ _).trans (stays_closed.recomputeLoad _)

theorem heldActed_drain (cause : FaultCause) (index : Nat) (s : State) : (heldActed cause index s).mga.drain = none := by
  unfold heldActed
  dsimp only
  generalize (holdActions (recorded cause index s)).1 = acted
  cases h : acted.mga.drain with
  | none => exact h
  | some d => exact finishDrain_drain d _

theorem heldActed_stays (cause : FaultCause) (index : Nat) (s : State) :
    Stays (holdActions (recorded cause index s)).1 (heldActed cause index s) := by
  unfold heldActed
  dsimp only
  generalize (holdActions (recorded cause index s)).1 = acted
  cases hd : acted.mga.drain with
  | none => exact .refl _
  | some d => exact stays_closed.finishDrain stays_closed.dropFresh hd

/-- The station entered FAULT-HOLD with this cause and index, nothing of R72, R118 and R141 is left, and no drain is pending (R166,
R29). -/
structure HeldWith (cause : FaultCause) (index : Nat) (t : State) : Prop where
  held : t.mga.held = true
  cause : t.mga.faultCause = some cause
  index : t.mga.faultIndex = index
  drain : t.mga.drain = none
  media : MediaGone t

theorem HeldWith.stays {cause : FaultCause} {index : Nat} {s t : State} (h : HeldWith cause index s) (k : Stays s t) :
    HeldWith cause index t := by
  obtain ⟨hh, hc, hi⟩ := k.held h.held
  exact ⟨hh, hc.trans h.cause, hi.trans h.index, k.drain h.drain, mediaGone_stays h.media k⟩

theorem heldActed_heldWith (cause : FaultCause) (index : Nat) (s : State) : HeldWith cause index (heldActed cause index s) := by
  obtain ⟨hh, hc, hi⟩ := ((stays_closed.holdActions (recorded cause index s)).trans (heldActed_stays cause index s)).held rfl
  exact ⟨hh, hc, hi, heldActed_drain cause index s, mediaGone_stays (holdActions_mediaGone _) (heldActed_stays cause index s)⟩

/-- A fault cause raised while the station is not held (R166). -/
theorem raiseFault_heldWith {s : State} (h : s.mga.held = false) (cause : FaultCause) (index : Nat) :
    HeldWith cause index (raiseFault cause index s) := by
  obtain ⟨found, he⟩ := enterHold_eq cause index s
  rw [raiseFault_unheld h, he]
  exact (heldActed_heldWith cause index s).stays ((stays_closed.fire _ .fault _ _).trans (stays_closed.furtherFaults _ _))

/-! ### The census (R13, R15) -/

/-- Settles O9. -/
theorem secondTick : Obligations.SecondTick := by
  intro s hr hs
  have hfire : exec .tick1s s = .next (census (flagged srcSecond s)) := by
    show execTick1s s = _
    rw [execTick1s, if_neg (by simp [hr]), fire_flagged hs]
  have hflags : OnlyFlags (fun _ => True) s (flagged srcSecond s) := flagged_flags trivial s
  rw [hfire, census, hflags.bfm]
  refine ⟨fun hsum => congrArg _ (if_pos hsum), fun hsum hheld => ?_⟩
  rw [if_neg (show ¬ Pool.referenced s.bfm.pool + s.bfm.freeCount = Config.poolSize from hsum)]
  have hunheld : (flagged srcSecond s).mga.held = false := by rw [hflags.mga, hheld]
  have hw := raiseFault_heldWith hunheld .poolCheck s.bfm.freeCount
  have ho := raiseFault_hold .poolCheck s.bfm.freeCount (flagged srcSecond s)
  exact ⟨_, rfl, hw.held, hw.cause, hw.index, hw.media, hw.drain, ho.psc.trans hflags.psc, ho.lrx.trans hflags.lrx,
    ho.settings.trans (by rw [hflags.mga])⟩

end Sys2Proof.Machine
end

section
/-! The warm restart (R168): what it leaves standing, what it freezes, and its response. -/

namespace Sys2Proof.Machine

open Safety

/-! ### What a restart in progress freezes -/

section
variable {s : State}

theorem served_restarting (h : s.restarting = true) (step : Instr) : s.served step = none := by
  unfold State.restarting at h
  unfold State.served
  split at h
  · next hr => rw [hr]
  · exact absurd h (by decide)

/-- Every service step but RESTART is a service of the agent. -/
theorem exec_serviceStep (code : Nat) (s : State) :
    (∃ decide, exec (serviceStep code) s = .next (serve (serviceStep code) decide s)) ∨
      serviceStep code = .restart := by
  unfold serviceStep
  split
  case h_21 => exact .inr rfl
  all_goals exact .inl ⟨_, rfl⟩

theorem exec_serviceStep_restarting (h : s.restarting = true) (code : Nat) : exec (serviceStep code) s = .next s := by
  obtain ⟨decide, he⟩ | he := exec_serviceStep code s
  · rw [he, serve_none (served_restarting h _)]
  · rw [he]
    show execRestart s = _
    rw [execRestart, served_restarting h]

theorem exec_tick_restarting (h : s.restarting = true) :
    ∀ c ∈ [Instr.tick1ms, .peerReportStale, .strikeTimerExpiry, .tick250ms, .tick1s, .strikePulse, .restartResponse],
      exec c s = .next s := by
  have hresponse : execRestartResponse s = .next s := by
    unfold State.restarting at h
    unfold execRestartResponse
    split at h
    · next hr => rw [hr]
    · exact absurd h (by decide)
  simp [exec, execTick1ms, execPeerReportStale, execStrikeTimerExpiry, execTick250ms, execTick1s, execStrikePulse, h, hresponse]

theorem exec_lane_restarting (h : s.restarting = true) (l : Lane) :
    exec (.erroredIntervalClose l) s = .next s ∧ exec (.probeDue l) s = .next s ∧ (∀ x, exec (.huntByte l x) s = .next s) ∧
      ∀ cell : List Byte, cell.length = 128 → exec (.laneCellReceive l cell) s = .next s := by
  refine ⟨if_pos h, if_pos h, fun x => congrArg _ (if_pos h), fun cell hc => (if_pos hc).trans ?_⟩
  rw [if_neg (by simp [h])]

theorem exec_laneSlot_restarting (h : s.restarting = true) (l : Lane) : exec (.laneSlot l) s = .next (sendFill l s) :=
  congrArg _ (if_pos h)

theorem exec_loss_restarting (h : s.restarting = true) (l : Lane) :
    exec (.lossOfSignal l) s = .next (s.setLoss l true) ∧ exec (.signalRestored l) s = .next (s.setLoss l false) :=
  ⟨congrArg _ (if_pos (Bool.or_eq_true_iff.mpr (.inl h))), congrArg _ (if_pos (Bool.or_eq_true_iff.mpr (.inl h)))⟩

theorem exec_port_restarting (h : s.restarting = true) (q : PortId) :
    exec (.egressHandover q) s = .next s ∧ exec (.ingressAcceptance q) s = .next s ∧
      ∀ cell : List Byte, cell.length = 124 → exec (.portCellTake q cell) s = .next s := by
  refine ⟨congrArg _ (if_neg (by simp [h])), ?_, fun cell hc => (if_pos hc).trans ?_⟩
  · show execIngressAcceptance q s = .next s
    unfold execIngressAcceptance
    split
    · rfl
    · exact if_pos h
  · rw [if_neg (by simp [State.showsSpace, h])]

theorem exec_context_restarting (h : s.restarting = true) (c : ContextId) :
    exec (.contextAgeExpiry c) s = .next s ∧ ((s.context c).heldCells = [] → exec (.releaseExpiry c) s = .next s) := by
  constructor
  · show execContextAgeExpiry c s = .next s
    unfold execContextAgeExpiry
    dsimp only
    cases (s.context c).owner with
    | none => rfl
    | some n => exact if_neg (by simp [h])
  · intro hw
    show execReleaseExpiry c s = .next s
    unfold execReleaseExpiry
    dsimp only
    cases (s.context c).owner with
    | none => rfl
    | some n => rw [hw]; rfl

theorem exportAttempt_restarting (h : s.restarting = true) (ch : ChannelId) : exec (.exportAttempt ch) s = .next s :=
  congrArg _ (if_neg (by simp [h]))

theorem exec_drain_none (h : s.mga.drain = none) : exec .drainTimeout s = .next s ∧ exec .drainCompletion s = .next s := by
  constructor
  · show execDrainTimeout s = _
    rw [execDrainTimeout, h]
  · show execDrainCompletion s = _
    rw [execDrainCompletion, h]

end

/-- Settles O54. -/
theorem restartFreezes : Obligations.RestartFreezes := by
  intro s h
  refine ⟨exec_tick_restarting h, fun code _ => exec_serviceStep_restarting h code, exec_drain_none, fun l => ?_, fun q => ?_,
    exec_context_restarting h, exportAttempt_restarting h⟩
  · obtain ⟨hclose, hprobe, hhunt, hcell⟩ := exec_lane_restarting h l
    obtain ⟨hloss, hrestored⟩ := exec_loss_restarting h l
    refine ⟨hclose, hprobe, hhunt, hcell, hloss, hrestored, fun hcalm => ?_⟩
    rw [exec_laneSlot_restarting h, sendFill_calm (hcalm _ (by simp))]
    rfl
  · obtain ⟨hhand, haccept, htake⟩ := exec_port_restarting h q
    exact ⟨hhand, haccept, htake, congrArg _ (if_pos h), rfl⟩

/-! ### The completion -/

theorem evaluate_unusable {s : State} (h : ∀ l, s.view l = .unusable) (p : Plan) : s.evaluate p = [] := by
  have hw (ls : List Lane) : s.working ls = [] := working_eq_nil.mpr fun l _ => h l
  have hp (ls : List Lane) : s.preferred ls = none := preferred_none fun l _ => h l
  cases p <;> simp [State.evaluate, hw, hp]

theorem tally_unusable {s : State} (h : ∀ l, s.view l = .unusable) : s.tally = { a := (0, 0), b := (0, 0), c := (0, 0) } := by
  have hentry (t : PerLane (Nat × Nat)) (e : StreamEntry) : s.tallyEntry t e = t := by
    simp [State.tallyEntry, evaluate_unusable h]
  unfold State.tally
  generalize s.stb.entries.toList = es
  induction es with
  | nil => rfl
  | cons e es ih => rw [List.foldl_cons, hentry, ih]

/-- Every view being UNUSABLE, the completion's recomputation finds no load (log 17). -/
theorem completedLoad_restartedBlocks (s : State) : completedLoad (restartedBlocks s) = restartedBlocks s := by
  have ht := tally_unusable (s := restartedBlocks s) (fun l => by cases l <;> rfl)
  show lanes.foldl (fun u l => u.setLoad l ((restartedBlocks s).tally.get l)) (restartedBlocks s) = _
  rw [ht]
  rfl

theorem exec_restartCompletion {s : State} {ticket : RestartTicket} (h : s.mga.restart = .inProgress ticket) :
    exec .restartCompletion s =
      .next ((restartedBlocks s).setMga { (restartedBlocks s).mga with restart := .waiting ticket }) := by
  show execRestartCompletion s = _
  rw [execRestartCompletion, h]
  dsimp only
  rw [completedLoad_restartedBlocks]

theorem channel_restartedBlocks (s : State) (ch : ChannelId) :
    (restartedBlocks s).channel ch = { s.channel ch with bound := none, firing := false } := look_map Channel.restarted _ _

theorem context_restartedBlocks (s : State) (c : ContextId) : (restartedBlocks s).context c = (s.context c).restarted :=
  look_map Context.restarted _ _

theorem keepsContext_iff (s : State) (r : RunRecord) :
    s.keepsContext r = true ↔ ∃ c, r.context = some c ∧ (s.context c).pinned = true := by
  unfold State.keepsContext
  cases r.context <;> simp

/-- Settles O55. -/
theorem restartCompletes : Obligations.RestartCompletes := by
  intro s ticket h
  refine ⟨_, exec_restartCompletion h, rfl, List.range_eq_range'.symm, rfl, Pool.read_freed_refs _, rfl, fun n => ?_,
    fun l => by cases l <;> rfl, fun l => by cases l <;> rfl, rfl, fun c => ?_, rfl, rfl, source_restartedBlocks s,
    channel_restartedBlocks s, rfl, rfl, rfl, rfl, rfl, rfl⟩
  · rw [State.setMga_run, run_restartedBlocks, RunRecord.restarted]
    simp only [keepsContext_iff]
  · rw [State.setMga_context, context_restartedBlocks]
    refine ⟨fun hc => ?_, fun hc => ?_, fun hc hp => ?_, fun hc hp => ?_⟩
    · rw [Context.restarted, hc, Context.cleared]
    · rw [Context.restarted, hc, Context.cleared]
    · simp only [Context.restarted, hc, hp, Context.cleared, Bool.false_eq_true, if_false]
    · simp only [Context.restarted, hc, hp, if_true, List.map_const']

/-! ### The beginning -/

/-- The service's own buffer taken and let go again: it goes from the head of the free list to its tail. -/
theorem dereference_granted (b : Nat) (bs : List Nat) (cell : Cell) (s : State) :
    dereference b (granted b bs 1 cell s) = returned b (granted b bs 1 cell s) :=
  dereference_returned (by rw [buffer_granted _ _ (by decide)])

theorem context_emptyAll (s : State) (c : ContextId) :
    (emptyAll s).context c = if (s.context c).condition = .attached then (s.context c).emptied else s.context c :=
  look_map (fun x : Context => if x.condition = .attached then x.emptied else x) _ _

theorem entry_endDrain (s : State) (n : StreamId) : (endDrain s).entry n =
    if (∃ d, s.mga.drain = some d ∧ d.stream = n) then { s.entry n with state := .suspended } else s.entry n := by
  unfold endDrain
  cases s.mga.drain with
  | none => simp
  | some d =>
    simp only [Option.some.injEq, exists_eq_left', State.entry_setEntry, State.setMga_entry, eq_comm (a := d.stream)]
    split
    · next h => rw [h]
    · rfl

/-- The end of a pending drain changes its entry and the drain alone. -/
theorem endDrain_eq (s : State) : ∃ es, endDrain s =
    { s with stb := { s.stb with entries := es }, mga := { s.mga with drain := none } } := by
  obtain ⟨pins, lck, bfm, stb, tin, ltx, lrx, mrg, psc, dlv, cnt, evu, ⟨station, requests, drain⟩, out, k, q⟩ := s
  cases drain with
  | none => exact ⟨stb.entries, rfl⟩
  | some d => exact ⟨_, rfl⟩

theorem execRestart_begins {s : State} {r : Request} {rest : List Request} {p : PortId} {b : Nat} {bs : List Nat}
    (h : Serves s .restart r rest p b bs) (h0 : byteAt r.payload 3 = 0) :
    exec .restart s = .next (beginRestart r (returned b (granted b bs 1 .empty s))) := by
  have hbad : (argLengthBad r.payload || requestArgLength r.payload != 0) = false := by
    rw [h.length, requestArgLength, h0]
    rfl
  show execRestart s = _
  rw [execRestart, served_of_heads h.toHeads]
  dsimp only
  rw [allocateControl_granted h.grants]
  dsimp only
  rw [hbad, dereference_granted]
  rfl

theorem execRestart_refuses {s : State} {r : Request} {rest : List Request} {p : PortId} {b : Nat} {bs : List Nat}
    (h : Serves s .restart r rest p b bs) (h0 : byteAt r.payload 3 ≠ 0) :
    exec .restart s = .next (serve .restart (fun _ => answer .badArgument []) s) := by
  have hbad : requestArgLength r.payload ≠ 0 := fun h1 => h0 (BitVec.eq_of_toNat_eq h1)
  show execRestart s = _
  rw [execRestart, serve, served_of_heads h.toHeads]
  dsimp only
  rw [allocateControl_granted h.grants]
  dsimp only
  rw [if_pos (by simp [hbad])]

/-- Settles O53. -/
theorem restartBegins : Obligations.RestartBegins := by
  intro s r rest p b bs h
  refine ⟨fun h0 hs => ?_, fun h0 => ⟨_, execRestart_begins h h0, ?_⟩⟩
  · rw [execRestart_refuses h h0]
    rw [serve_answered (t := s) h.toHeads rfl h.head h.reaches fun _ => hs]
    rfl
  · have hpos : 0 < s.bfm.freeCount := h.grants.above
    have hcount : s.bfm.freeCount - 1 + 1 = s.bfm.freeCount := by omega
    generalize hu : (returned b (granted b bs 1 .empty s)).setLck { s.lck with epoch := s.lck.epoch + 1 } = u
    have hbegin : beginRestart r (returned b (granted b bs 1 .empty s)) = emptyAll ((endDrain u).setMga { (endDrain u).mga with
        requests := []
        restart := .inProgress { tag := requestTag r.payload, command := requestCommand r.payload, source := r.source } }) := by
      rw [← hu]
      rfl
    have hentry := entry_endDrain u
    obtain ⟨es, he⟩ := endDrain_eq u
    rw [hbegin]
    rw [he] at hentry ⊢
    subst hu
    refine ⟨rfl, rfl, rfl, hcount, fun q => ⟨Bank.look_replicate _ _, Bank.look_replicate _ _⟩, fun l => ?_, fun c hc => ?_,
      fun n => run_emptyAll _ n, hentry, rfl, rfl, rfl, rfl, rfl, rfl⟩
    · simp only [State.classQueue, tx_emptyAll]
      exact ⟨rfl, fun k => Bank.look_replicate _ _, rfl, rfl⟩
    · rw [context_emptyAll, if_pos (by exact hc)]
      exact ⟨heldCells_emptied _, hc, rfl, rfl⟩

/-! ### The response -/

/-- Settles O56. -/
theorem restartResponds : Obligations.RestartResponds := by
  intro s
  refine ⟨fun hn => ?_, fun ticket ht hc => ⟨fun hw => ?_, fun p b bs hp hg => ?_⟩⟩
  · show execRestartResponse s = _
    unfold execRestartResponse
    split
    · next hr => exact absurd hr (hn _)
    · rfl
  · show execRestartResponse s = _
    rw [execRestartResponse, ht]
    dsimp only
    rw [hc, State.restartRouteReady, if_pos rfl]
    obtain hw | hw := hw
    · rw [if_neg (by simp [hw])]
    · split
      · rw [State.allocate, if_neg (by omega)]
      · rfl
  · show execRestartResponse s = _
    have hready : s.routeReady = true := by
      simp [State.routeReady, State.reachablePort, hp.port, hp.present, hp.room, Config.egressDepth]
    have halloc (x : Cell) : s.allocate 0 1 x = some (b, granted b bs 1 x s) := by
      rw [State.allocate, if_pos hg.above, hg.free]
      rfl
    rw [execRestartResponse, ht]
    dsimp only
    rw [hc, State.restartRouteReady, if_pos rfl, if_pos hready, halloc]
    dsimp only
    rw [raiseIfLow, if_neg (show ¬ s.bfm.freeCount = Config.bufferLowMark from hg.notLow),
      routeResponse_port (s := granted b bs 1 _ s) (p := p) hp.port hp.present hp.room]
    rfl

end Sys2Proof.Machine
end

section
/-! The posture and the strikes (chapter 7). -/

namespace Sys2Proof.Machine

open Safety

/-! ### A posture derived again -/

section
variable {s : State}

theorem lrx_derivePosture : (derivePosture s).lrx = s.lrx := by
  obtain ⟨x, hx⟩ := derivePosture_hold s
  exact hx.lrx

theorem derivePosture_derived (h : PostureDerived s) : derivePosture s = s := if_pos h.symm

/-- The sources and counters after the posture is derived with its events silent (R130). -/
theorem derivePosture_quiet (hp : Silent s srcPosture) (ho : Silent s srcOvercommit) (ha : TableAgrees s) :
    (derivePosture s).cnt = s.cnt ∧ ∀ i, i ≠ srcOvercommit → (derivePosture s).source i =
      if s.psc.derived = s.psc.effective then s.source i else (flagged srcPosture s).source i := by
  unfold derivePosture
  dsimp only
  split
  · exact ⟨rfl, fun _ _ => rfl⟩
  · have hpsc : Silent (s.setPsc { s.psc with effective := s.psc.derived }) srcPosture := silent_congr hp rfl
    have hflag : OnlyFlags (fun _ => True) (s.setPsc { s.psc with effective := s.psc.derived })
        (flagged srcPosture (s.setPsc { s.psc with effective := s.psc.derived })) := flagged_flags trivial _
    have hr : OnlyFlags (fun i => i = srcOvercommit) (flagged srcPosture (s.setPsc { s.psc with effective := s.psc.derived })) _ :=
      recompute_flags rfl (hflag.silent (silent_congr ho rfl)) (hflag.agrees ha)
    rw [fire_flagged hpsc]
    refine ⟨hr.cnt.trans hflag.cnt, fun i hi => (hr.others i hi).trans ?_⟩
    unfold flagged
    rw [flaggedAs_eq, flaggedAs_eq, State.source_setSource, State.source_setSource]
    rfl

theorem source_flagged_ne {src i : Source} (h : i ≠ src) : (flagged src s).source i = s.source i :=
  (flagged_flags (named := fun j => j = src) rfl s).others i h

/-! ### Strikes (R123, R124) -/

theorem startStrike_psc :
    (startStrike s).psc = { s.psc with timer := 1000 * s.mga.settings.strikeHold, localStrike := true, effective := .strike } := by
  have hf := fire_only srcStrike .none s
  rw [startStrike, derivePosture_psc]
  show { (fire srcStrike .none s).psc with
    timer := 1000 * (fire srcStrike .none s).mga.settings.strikeHold, localStrike := true, effective := .strike } = _
  rw [hf.psc, hf.mga]

theorem startStrike_frame : (startStrike s).lrx = s.lrx ∧ (startStrike s).pins = s.pins ∧ (startStrike s).lck = s.lck ∧
    (startStrike s).mga.settings = s.mga.settings := by
  have hf := fire_only srcStrike .none s
  obtain ⟨x, hx⟩ := derivePosture_hold ((fire srcStrike .none s).setPsc
    { (fire srcStrike .none s).psc with timer := 1000 * (fire srcStrike .none s).mga.settings.strikeHold, localStrike := true })
  exact ⟨hx.lrx.trans hf.lrx, hx.pins.trans hf.pins, hx.lck.trans hf.lck,
    hx.settings.trans (congrArg ManagementAgent.settings hf.mga)⟩

/-- A strike begun with its events silent: STRIKE is flagged, and POSTURE when the effective posture was another (R123). -/
theorem startStrike_quiet (hs : Silent s srcStrike) (hp : Silent s srcPosture) (ho : Silent s srcOvercommit) (ha : TableAgrees s) :
    (startStrike s).cnt = s.cnt ∧ (startStrike s).source srcStrike = (flagged srcStrike s).source srcStrike ∧
      (startStrike s).source srcPosture =
        if s.psc.effective = .strike then s.source srcPosture else (flagged srcPosture s).source srcPosture := by
  have hflag : OnlyFlags (fun i => i = srcStrike) s (flagged srcStrike s) :=
    flagged_flags (named := fun i => i = srcStrike) rfl s
  have hposture : (flagged srcStrike s).source srcPosture = s.source srcPosture := source_flagged_ne (by decide)
  generalize hu : (flagged srcStrike s).setPsc { s.psc with timer := 1000 * s.mga.settings.strikeHold, localStrike := true } = u
  have hstart : startStrike s = derivePosture u := by
    rw [startStrike, fire_flagged hs]
    dsimp only
    rw [hflag.psc, hflag.mga, hu]
  have hevu : u.evu = (flagged srcStrike s).evu := by rw [← hu]; rfl
  have hagrees : TableAgrees u := by rw [← hu]; exact hflag.agrees ha
  obtain ⟨hcnt, hsource⟩ := derivePosture_quiet (silent_congr (hflag.silent hp) hevu) (silent_congr (hflag.silent ho) hevu) hagrees
  have hpsc : u.psc.derived = .strike ∧ u.psc.effective = s.psc.effective := by rw [← hu]; exact ⟨rfl, rfl⟩
  have hsources (i : Source) : u.source i = (flagged srcStrike s).source i := by rw [← hu]; rfl
  rw [hstart, hcnt, hsource _ (by decide), hsource _ (by decide), hpsc.1, hpsc.2]
  refine ⟨by rw [← hu]; exact hflag.cnt, ?_, ?_⟩
  · rw [source_flagged_ne (by decide), hsources, ite_self]
  · rw [source_flagged_self, source_flagged_self, hsources, hposture]
    simp only [eq_comm]

end

theorem exec_strikePulse {s : State} (hr : s.restarting = false) (h : ∀ p, s.psc.lastPulse = some p → 1000 < (s.now - p).toNat) :
    exec .strikePulse s =
      .next (startStrike (countStation .strikes (s.setPsc { s.psc with lastPulse := some s.now }))) := by
  have hm : s.psc.merges s.now = false := by
    unfold PostureController.merges
    cases hl : s.psc.lastPulse with
    | none => rfl
    | some p => exact decide_eq_false (Nat.not_le.mpr (h p hl))
  exact congrArg _ (if_neg (by simp [hr, hm]))

theorem exec_strikePulse_merged {s : State} {p : Time} (h : s.psc.lastPulse = some p) (hp : (s.now - p).toNat ≤ 1000) :
    exec .strikePulse s = .next s := by
  have hm : s.psc.merges s.now = true := by
    unfold PostureController.merges
    rw [h]
    exact decide_eq_true hp
  exact congrArg _ (if_pos (by simp [hm]))

/-- Settles O31. -/
theorem strikesBeginAndEnd : Obligations.StrikesBeginAndEnd := by
  intro s hr
  have hcount := count_only (.station StationCounter.strikes.id) (s.setPsc { s.psc with lastPulse := some s.now })
  refine ⟨fun h => ⟨_, exec_strikePulse hr h, ?_⟩, fun h ha hs hp ho hc => ⟨_, exec_strikePulse hr h, ?_⟩,
    fun p hl hp => exec_strikePulse_merged hl hp, fun hl ht => ?_⟩
  · obtain ⟨hlrx, hpins, hlck, hsettings⟩ :=
      startStrike_frame (s := countStation .strikes (s.setPsc { s.psc with lastPulse := some s.now }))
    refine ⟨startStrike_psc.trans ?_, hlrx.trans hcount.lrx, hpins.trans hcount.pins, hlck.trans hcount.lck,
      hsettings.trans (congrArg ManagementAgent.settings hcount.mga)⟩
    rw [show (countStation .strikes (s.setPsc { s.psc with lastPulse := some s.now })).psc = _ from hcount.psc,
      show (countStation .strikes (s.setPsc { s.psc with lastPulse := some s.now })).mga = _ from hcount.mga]
    rfl
  · rw [show countStation .strikes (s.setPsc { s.psc with lastPulse := some s.now }) = _ from count_bump (r := .station StationCounter.strikes.id)
      (by exact hc (.station StationCounter.strikes.id) (by simp))]
    generalize hu : bump (.station StationCounter.strikes.id) (s.setPsc { s.psc with lastPulse := some s.now }) = u
    have hevu : u.evu = s.evu := by rw [← hu, bump_evu]; rfl
    have hcnt : u.cnt = (bump (.station StationCounter.strikes.id) s).cnt := by rw [← hu]; rfl
    have hstb : u.stb = s.stb := by rw [← hu]; rfl
    have hpsc : u.psc.effective = s.psc.effective := by rw [← hu]; rfl
    have hagrees : TableAgrees u := fun n => by rw [State.entry, hstb]; exact ha n
    obtain ⟨h1, h2, h3⟩ := startStrike_quiet (silent_congr hs hevu) (silent_congr hp hevu) (silent_congr ho hevu) hagrees
    refine ⟨h1.trans hcnt, h2.trans (source_flagged_congr hevu _), h3.trans ?_⟩
    rw [hpsc, source_flagged_congr hevu, State.source, hevu]
    rfl
  · have hexec : exec .strikeTimerExpiry s = .next (derivePosture (s.setPsc { s.psc with timer := 0, localStrike := false })) :=
      if_pos (by simp [hl, ht, hr])
    obtain ⟨x, hx⟩ := derivePosture_hold (s.setPsc { s.psc with timer := 0, localStrike := false })
    exact ⟨_, hexec, (derivePosture_psc _).trans rfl, hx.lrx, hx.pins, hx.lck⟩

/-! ### A service with an effect -/

/-- A state with the service's buffer granted, read as that grant of the state before it. -/
theorem granted_restore {b : Nat} {bs : List Nat} {refs : Nat} {cell : Cell} {s u : State}
    (h : u.bfm = (granted b bs refs cell s).bfm) : granted b bs refs cell (u.setBfm s.bfm) = u := by
  show { u with bfm := (granted b bs refs cell s).bfm } = u
  rw [← h]

section
variable {s u : State} {step : Instr} {decide : Decide} {r : Request} {rest : List Request} {p : PortId} {b : Nat} {bs : List Nat}
  {result : List Byte}

/-- An answer OK whose effect leaves the buffers, the agent and the egress FIFOs as they stand. -/
theorem serve_effect (h : Serves s step r rest p b bs)
    (hd : decide r.payload (granted b bs 1 .empty s) = answer .ok result u) (hbfm : u.bfm = (granted b bs 1 .empty s).bfm)
    (hmga : u.mga = s.mga) (hpins : u.pins = s.pins) (hdlv : u.dlv = s.dlv) :
    serve step (checked decide) s = answered r rest p b bs .ok result (u.setBfm s.bfm) :=
  serve_succeeds (t := u.setBfm s.bfm) h hmga hpins hdlv (by rw [hd, granted_restore hbfm])

/-- The effect seen on the state before the service's allocation. -/
theorem OnlyFlags.onlyTable {named : Source → Prop} {v : State} (h : OnlyFlags named (granted b bs 1 .empty v) u)
    (hview : ∀ l, (u.tx l).view = (v.tx l).view) : OnlyTable v (u.setBfm v.bfm) ∧ (u.setBfm v.bfm).stb = v.stb := by
  have hrest := h.rest
  refine ⟨⟨?_, fun l => ?_⟩, h.stb⟩
  · rw [hrest]
    rfl
  · have htx : u.tx l = { v.tx l with view := (u.tx l).view, load := (u.tx l).load, unpoliced := (u.tx l).unpoliced,
                                      overcommitted := (u.tx l).overcommitted } := h.tx l
    rw [hview l] at htx
    exact htx

end

/-! ### POSTURE SET and STRIKE TEST (R121, R125) -/

theorem BasePosture.ofCode_code (base : BasePosture) : BasePosture.ofCode base.code = some base := by cases base <;> rfl

theorem BasePosture.ofCode_none {n : Nat} (h : 2 < n) : BasePosture.ofCode n = none := by
  match n, h with
  | _ + 3, _ => rfl

section
variable {s : State} {payload : List Byte}

theorem decidePostureSet_bad (h : byteAt payload 3 ≠ 1 ∨ 2 < (byteAt payload 4).toNat) :
    decidePostureSet payload s = answer .badArgument [] s := by
  unfold decidePostureSet
  obtain h | h := h
  · rw [if_pos (show requestArgLength payload ≠ 1 from mt (requestArgLength_eq_iff (n := 1)).mp h)]
  · rw [show BasePosture.ofCode (requestArg payload 0) = none from BasePosture.ofCode_none h, ite_self]

theorem decidePostureSet_sets {base : BasePosture} (h : byteAt payload 3 = 1) (hb : (byteAt payload 4).toNat = base.code)
    (hh : s.mga.held = false) : decidePostureSet payload s = answer .ok
      [byte base.code, byte (derivePosture (s.setPsc { s.psc with base := base })).psc.effective.code]
      (derivePosture (s.setPsc { s.psc with base := base })) := by
  have hbase : (derivePosture (s.setPsc { s.psc with base := base })).psc.base = base := by rw [derivePosture_psc]; rfl
  have hlength : requestArgLength payload = 1 := requestArgLength_eq_iff (n := 1).mpr h
  unfold decidePostureSet
  rw [if_neg (not_not.mpr hlength),
    show BasePosture.ofCode (requestArg payload 0) = some base by rw [← base.ofCode_code, ← hb]; rfl]
  dsimp only
  rw [if_neg (by simp [hh]), hbase]

theorem decideStrikeTest_starts (h : byteAt payload 3 = 0) (hh : s.mga.held = false) :
    decideStrikeTest payload s = answer .ok ([3] ++ be32 (1000 * s.mga.settings.strikeHold)) (startStrike s) := by
  have hlength : requestArgLength payload = 0 := requestArgLength_eq_iff (n := 0).mpr h
  unfold decideStrikeTest
  rw [if_neg (not_not.mpr hlength), if_neg (by simp [hh])]
  dsimp only
  rw [startStrike_psc]
  rfl

end

/-- A posture derived in the service's state, seen from the state before (R129, R130). -/
theorem postureSet_flags {v : State} (b : Nat) (bs : List Nat) (ha : TableAgrees v) (hp : Silent v srcPosture)
    (ho : Silent v srcOvercommit) :
    OnlyFlags (fun _ => True) (granted b bs 1 .empty (v.setPsc { v.psc with effective := v.psc.derived }))
        (derivePosture (granted b bs 1 .empty v)) ∧
      ∀ l, ((derivePosture (granted b bs 1 .empty v)).tx l).view = (v.tx l).view :=
  ⟨derivePosture_flags (s := granted b bs 1 .empty v) trivial trivial (silent_congr hp rfl) (silent_congr ho rfl) ha,
    fun l => view_derivePosture _ l⟩

theorem OnlyFlags.setPsc {named : Source → Prop} {s t : State} (h : OnlyFlags named s t) (x : PostureController) :
    OnlyFlags named (s.setPsc x) (t.setPsc x) where
  rest := by
    show { t with psc := x } = { s with psc := x, ltx := t.ltx, evu := { s.evu with sources := t.evu.sources } }
    conv_lhs => rw [h.rest]
  tx := h.tx
  others := h.others
  level := h.level
  flag := h.flag

theorem view_startStrike (s : State) (l : Lane) : ((startStrike s).tx l).view = (s.tx l).view :=
  (view_derivePosture _ l).trans ((fire_only srcStrike .none s).view l)

/-- A strike begun in the service's state, seen from the state before (R125). -/
theorem strikeTest_flags {s : State} (b : Nat) (bs : List Nat) (ha : TableAgrees s) (hs : Silent s srcStrike)
    (hp : Silent s srcPosture) (ho : Silent s srcOvercommit) :
    OnlyFlags (fun _ => True) (granted b bs 1 .empty (s.setPsc { s.psc with
        timer := 1000 * s.mga.settings.strikeHold, localStrike := true, effective := .strike }))
      (startStrike (granted b bs 1 .empty s)) ∧ ((startStrike (granted b bs 1 .empty s)).source srcStrike).flag = true := by
  have hs' : Silent (granted b bs 1 .empty s) srcStrike := silent_congr hs rfl
  have hflag : OnlyFlags (fun _ => True) (granted b bs 1 .empty s) (flagged srcStrike (granted b bs 1 .empty s)) :=
    flagged_flags trivial _
  have hset : ((flagged srcStrike (granted b bs 1 .empty s)).source srcStrike).flag = true := by
    rw [source_flagged_self]
    split
    · assumption
    · rfl
  have hstart : startStrike (granted b bs 1 .empty s) = derivePosture ((flagged srcStrike (granted b bs 1 .empty s)).setPsc
      { s.psc with timer := 1000 * s.mga.settings.strikeHold, localStrike := true }) := by
    rw [startStrike, fire_flagged hs']
    dsimp only
    rw [hflag.psc, hflag.mga]
    rfl
  have hderive := derivePosture_flags (named := fun _ => True) (s := (flagged srcStrike (granted b bs 1 .empty s)).setPsc
      { s.psc with timer := 1000 * s.mga.settings.strikeHold, localStrike := true }) trivial trivial
    (silent_congr (hflag.silent (silent_congr hp rfl)) rfl) (silent_congr (hflag.silent (silent_congr ho rfl)) rfl)
    (hflag.agrees ha)
  rw [hstart]
  exact ⟨(hflag.setPsc _).trans hderive, hderive.flag _ hset⟩

/-- Settles O47. -/
theorem postureRequests : Obligations.PostureRequests := by
  intro s r rest p b bs
  refine ⟨fun h hbad hs => ?_, fun h hh hl base hb => ⟨fun hsame hd => ?_, fun ha hp ho => ?_⟩, fun h hh hl ha hs hp ho => ?_⟩
  · exact congrArg _ (serve_refuses h rfl hs fun u _ => decidePostureSet_bad hbad)
  · have hd' : derivePosture (granted b bs 1 .empty s) = granted b bs 1 .empty s := derivePosture_derived hd
    obtain rfl := hsame
    refine congrArg _ (serve_succeeds h rfl rfl rfl ((decidePostureSet_sets (s := granted b bs 1 .empty s) hl hb hh).trans ?_))
    show answer .ok [_, byte (derivePosture (granted b bs 1 .empty s)).psc.effective.code] (derivePosture (granted b bs 1 .empty s)) = _
    rw [hd', ← hd]
    rfl
  · obtain ⟨hf, hview⟩ := postureSet_flags (v := s.setPsc { s.psc with base := base }) b bs ha
      (silent_congr hp rfl) (silent_congr ho rfl)
    refine ⟨_, congrArg _ (serve_effect h ((decidePostureSet_sets (s := granted b bs 1 .empty s) hl hb hh).trans ?_) hf.bfm hf.mga hf.pins hf.dlv),
      hf.onlyTable hview⟩
    rw [derivePosture_psc]
    rfl
  · obtain ⟨hf, hflag⟩ := strikeTest_flags b bs ha hs hp ho
    obtain ⟨htable, hstb⟩ := hf.onlyTable fun l => view_startStrike _ l
    exact ⟨_, congrArg _ (serve_effect h (decideStrikeTest_starts (s := granted b bs 1 .empty s) hl hh) hf.bfm hf.mga hf.pins hf.dlv),
      htable, hstb, hflag⟩

end Sys2Proof.Machine
end

section
/-! The 1 ms tick (R15): buckets, AUTO holds, the peer report's age and the strike timer. -/

namespace Sys2Proof.Machine

open Safety

/-! ### What the AUTO holds of one tick leave unchanged -/

/-- What a fault found may change, and the contexts named (R110). -/
structure HoldTicks (named : ContextId → Prop) (s t : State) : Prop where
  rest : OnlyHold { s with mrg := t.mrg } t
  others : ∀ c, ¬ named c → ∃ sl lr ck, t.context c = { s.context c with slots := sl, lastRelease := lr, checkAgrees := ck }

theorem OnlyHold.setMrg {s t : State} (h : OnlyHold s t) (m : Bank 64 Context) : OnlyHold { s with mrg := m } { t with mrg := m } :=
  { pins := h.pins, lck := h.lck, tin := h.tin, lrx := h.lrx, psc := h.psc, out := h.out, openCount := h.openCount,
    pending := h.pending, station := h.station, settings := h.settings, requests := h.requests, restart := h.restart,
    serviceDue := h.serviceDue, entry := h.entry, run := h.run, context := fun _ => ⟨_, _, _, rfl⟩, tx := h.tx }

namespace HoldTicks

variable {named : ContextId → Prop} {s t u : State}

theorem ofHold (h : OnlyHold s t) : HoldTicks named s t := ⟨h.setMrg t.mrg, fun c _ => h.context c⟩

theorem refl (s : State) : HoldTicks named s s := ofHold (.refl s)

theorem trans (h : HoldTicks named s t) (k : HoldTicks named t u) : HoldTicks named s u where
  rest := (h.rest.setMrg u.mrg).trans k.rest
  others c hc := by
    obtain ⟨a, a', a'', ha⟩ := h.others c hc
    obtain ⟨b, b', b'', hb⟩ := k.others c hc
    exact ⟨b, b', b'', by rw [hb, ha]⟩

theorem mono {wide : ContextId → Prop} (h : HoldTicks named s t) (hw : ∀ c, named c → wide c) : HoldTicks wide s t :=
  ⟨h.rest, fun c hc => h.others c (mt (hw c) hc)⟩

theorem setContext {c : ContextId} (hc : named c) (s : State) (x : Context) : HoldTicks named s (s.setContext c x) where
  rest := .refl _
  others d hd := by
    rw [State.context_setContext, if_neg (by rintro rfl; exact hd hc)]
    exact ⟨_, _, _, rfl⟩

theorem evaluateHold {c : ContextId} (hc : named c) (n : StreamId) (hold : Nat) (s : State) :
    HoldTicks named s (evaluateHold c n hold s) := by
  unfold Machine.evaluateHold
  dsimp only
  split
  · exact (setContext hc s _).trans (ofHold (.ofEvents (fire_only _ _ _)))
  · exact setContext hc s _

theorem autoTick (s : State) (c : ContextId) : HoldTicks (fun d => d = c) s (autoTick s c) := by
  unfold Machine.autoTick
  dsimp only
  split
  · split
    · split
      · exact evaluateHold (named := fun d => d = c) rfl _ _ s
      · exact ofHold (raiseFault_hold _ _ s)
    · exact refl s
  · exact refl s

theorem foldl_autoTick (cs : List ContextId) (s : State) : HoldTicks (fun d => d ∈ cs) s (cs.foldl Machine.autoTick s) := by
  induction cs generalizing s with
  | nil => exact refl s
  | cons c cs ih =>
    exact ((autoTick s c).mono fun d hd => hd ▸ List.mem_cons_self).trans ((ih _).mono fun d hd => List.mem_cons_of_mem _ hd)

section
variable (h : HoldTicks named s t)
include h

theorem entry (n : StreamId) : ∃ st, t.entry n = { s.entry n with state := st } := h.rest.entry n

theorem skewOf (n : StreamId) : t.skewOf n = s.skewOf n := by
  have hplan : t.effectivePlan n = s.effectivePlan n := h.rest.effectivePlan n
  have hrx (l : Lane) : t.rx l = s.rx l := h.rest.rx l
  simp only [State.skewOf, State.countingDelays, hplan, hrx]

theorem rawOf (n : StreamId) : t.rawOf n = s.rawOf n := by
  have hpsc : t.psc = s.psc := h.rest.psc
  have hset : t.mga.settings = s.mga.settings := h.rest.settings
  rw [State.rawOf, h.skewOf, hpsc, hset]
  rfl

theorem targetOf (n : StreamId) : t.targetOf n = s.targetOf n := by
  obtain ⟨st, he⟩ := h.entry n
  simp only [State.targetOf, h.rawOf, he]

end

end HoldTicks

/-! ### The AUTO tick of one context -/

theorem autoTick_evaluates {s : State} {c : ContextId} {n : StreamId} (hc : (s.context c).condition = .attached)
    (ho : (s.context c).owner = some n) (hm : (s.entry n).holdMode = .auto) (ha : (s.entry n).checkAgrees = true) :
    autoTick s c = evaluateHold c n (slew (s.context c).hold (s.targetOf n)) s := by
  unfold autoTick
  dsimp only
  rw [hc, ho]
  dsimp only
  rw [if_pos hm, if_pos ha]

theorem autoTick_fixed {s : State} {c : ContextId}
    (h : ∀ n, (s.context c).condition = .attached → (s.context c).owner = some n → (s.entry n).holdMode = .fixed) :
    autoTick s c = s := by
  unfold autoTick
  dsimp only
  split
  · next n hc ho => rw [if_neg (by rw [h n hc ho]; decide)]
  · rfl

theorem context_evaluateHold (c : ContextId) (n : StreamId) (hold : Nat) (s : State) : (evaluateHold c n hold s).context c =
    (s.context c).withHold hold (s.rawOf n) (decide ((s.entry n).holdMax < s.rawOf n)) := by
  unfold evaluateHold
  dsimp only
  split
  · rw [(fire_only _ _ _).context, State.context_setContext_self]
  · rw [State.context_setContext_self]

/-! ### The skew of R109 -/

theorem foldl_max_mem (ds : List Nat) (d : Nat) : ds.foldl max d ∈ d :: ds ∧ ∀ x ∈ d :: ds, x ≤ ds.foldl max d := by
  induction ds generalizing d with
  | nil => simp
  | cons e ds ih =>
    obtain ⟨hmem, hle⟩ := ih (max d e)
    have htop := hle _ List.mem_cons_self
    rw [List.foldl_cons]
    refine ⟨?_, fun x hx => ?_⟩
    · rcases List.mem_cons.1 hmem with h | h
      · rw [h]
        rcases max_choice d e with h | h <;> simp [h]
      · simp [h]
    · rcases List.mem_cons.1 hx with rfl | hx
      · exact (le_max_left _ _).trans htop
      · rcases List.mem_cons.1 hx with rfl | hx
        · exact (le_max_right _ _).trans htop
        · exact hle x (List.mem_cons_of_mem _ hx)

theorem foldl_min_mem (ds : List Nat) (d : Nat) : ds.foldl min d ∈ d :: ds ∧ ∀ x ∈ d :: ds, ds.foldl min d ≤ x := by
  induction ds generalizing d with
  | nil => simp
  | cons e ds ih =>
    obtain ⟨hmem, hle⟩ := ih (min d e)
    have hlow := hle _ List.mem_cons_self
    rw [List.foldl_cons]
    refine ⟨?_, fun x hx => ?_⟩
    · rcases List.mem_cons.1 hmem with h | h
      · rw [h]
        rcases min_choice d e with h | h <;> simp [h]
      · simp [h]
    · rcases List.mem_cons.1 hx with rfl | hx
      · exact hlow.trans (min_le_left _ _)
      · rcases List.mem_cons.1 hx with rfl | hx
        · exact hlow.trans (min_le_right _ _)
        · exact hle x (List.mem_cons_of_mem _ hx)

/-- The lane counts for the skew with this delay estimate (R109). -/
def State.countsDelay (s : State) (p : Plan) (l : Lane) (d : Nat) : Prop :=
  l ∈ planNames p ∧ ((s.rx l).state = .up ∨ (s.rx l).state = .impaired) ∧ (s.rx l).delay = some d

theorem mem_named (p : Plan) (l : Lane) : l ∈ p.named ↔ l ∈ planNames p := by cases p <;> cases l <;> decide

theorem mem_countingDelays {s : State} {p : Plan} {d : Nat} : d ∈ s.countingDelays p ↔ ∃ l, s.countsDelay p l d := by
  unfold State.countingDelays
  rw [List.mem_filterMap]
  refine exists_congr fun l => and_congr (mem_named _ l) ?_
  cases (s.rx l).state <;> simp

theorem skewIs_skewOf (s : State) (n : StreamId) : SkewIs s n (s.skewOf n) := by
  have hmem (d : Nat) := mem_countingDelays (s := s) (p := s.effectivePlan n) (d := d)
  unfold State.skewOf
  cases hds : s.countingDelays (s.effectivePlan n) with
  | nil =>
    refine .inr ⟨fun l m d e hl _ => ?_, rfl⟩
    have h := (hmem d).mpr ⟨l, hl⟩
    rw [hds] at h
    exact absurd h List.not_mem_nil
  | cons d ds =>
    obtain ⟨hmax, hle⟩ := foldl_max_mem ds d
    obtain ⟨hmin, hge⟩ := foldl_min_mem ds d
    dsimp only
    generalize ds.foldl max d = hi at hmax hle ⊢
    generalize ds.foldl min d = lo at hmin hge ⊢
    rw [← hds] at hmax hle hmin hge
    have hbounds (k : Lane) (x : Nat) (hk : s.countsDelay (s.effectivePlan n) k x) : lo ≤ x ∧ x ≤ hi :=
      ⟨hge x ((hmem x).mpr ⟨k, hk⟩), hle x ((hmem x).mpr ⟨k, hk⟩)⟩
    obtain ⟨l, hl⟩ := (hmem hi).mp hmax
    obtain ⟨m, hm⟩ := (hmem lo).mp hmin
    by_cases hne : ∃ l m x y, l ≠ m ∧ s.countsDelay (s.effectivePlan n) l x ∧ s.countsDelay (s.effectivePlan n) m y
    · left
      by_cases hlm : l = m
      · obtain ⟨l', m', x, y, hlm', hx, hy⟩ := hne
        have heq : hi = lo := Option.some.inj (hl.2.2.symm.trans (by rw [hlm]; exact hm.2.2))
        have hx' : x = hi := by have := hbounds _ _ hx; omega
        have hy' : y = lo := by have := hbounds _ _ hy; omega
        exact ⟨l', m', hi, lo, hlm', hx' ▸ hx, hy' ▸ hy, hbounds, rfl⟩
      · exact ⟨l, m, hi, lo, hlm, hl, hm, hbounds, rfl⟩
    · right
      have hone : ∀ l m x y, s.countsDelay (s.effectivePlan n) l x → s.countsDelay (s.effectivePlan n) m y → l = m :=
        fun l m x y hx hy => by_contra fun h => hne ⟨l, m, x, y, h, hx, hy⟩
      obtain rfl := hone _ _ _ _ hl hm
      have heq : hi = lo := Option.some.inj (hl.2.2.symm.trans hm.2.2)
      exact ⟨hone, by omega⟩

/-! ### The tick as a whole -/

/-- The AUTO holds of the tick, after the refill. -/
def autoHeld (s : State) : State := contextIds.foldl autoTick (refillAll s)

theorem autoHeld_eq (s : State) : autoHeld s = contextIds.foldl autoTick (refillAll s) := rfl

/-- What the tick does beside them, in the Lane Receiver, the Posture Controller and the agent. -/
def tickedRest (s : State) : State :=
  { s with lrx := { lanes := s.lrx.lanes.ticked s.now, peer := s.lrx.peer.aged }, psc := s.psc.ticked s.now, mga := s.mga.ticked }

theorem context_tickedRest (s : State) (c : ContextId) : (tickedRest s).context c = s.context c := rfl

theorem exec_tick1ms {s : State} (hr : s.restarting = false) : exec .tick1ms s = .next (tickedRest (autoHeld s)) := by
  show execTick1ms s = _
  rw [execTick1ms, if_neg (by simp [hr])]
  have hheld := autoHeld_eq s
  generalize contextIds.foldl autoTick (refillAll s) = u at hheld ⊢
  rw [hheld]
  rfl

theorem autoHeld_ticks (s : State) : HoldTicks (fun _ => True) (refillAll s) (autoHeld s) :=
  (HoldTicks.foldl_autoTick contextIds (refillAll s)).mono fun _ _ => trivial

theorem autoHeld_fixed {s : State}
    (h : ∀ c n, (s.context c).condition = .attached → (s.context c).owner = some n → (s.entry n).holdMode = .fixed) :
    autoHeld s = refillAll s := by
  have hstep (c : ContextId) : autoTick (refillAll s) c = refillAll s := autoTick_fixed (s := refillAll s) (h c)
  unfold autoHeld
  induction contextIds with
  | nil => rfl
  | cons c cs ih => rw [List.foldl_cons, hstep, ih]

theorem level_refill (e : StreamEntry) (r : RunRecord) : (refill e r).level =
    if e.state = .active ∧ e.role = .origin then min (r.level + e.rate) (16 * e.burst) else r.level := by
  unfold refill
  split <;> rfl

theorem PeerReport.aged_eq (r : PeerReport) :
    r.aged = { r with age := if r.stale then r.age else min (r.age + 1) 300 } := by
  obtain ⟨rx, base, strike, epoch, arrival, age, stale⟩ := r
  cases stale
  · rfl
  · rfl

theorem refill_only (e : StreamEntry) (r : RunRecord) : ∃ k, refill e r = { r with level := k } := by
  unfold refill
  split
  · exact ⟨_, rfl⟩
  · exact ⟨_, rfl⟩

/-- Settles O4. -/
theorem tick1msActs : Obligations.Tick1msActs := by
  refine ⟨fun s hr => ⟨_, exec_tick1ms hr, ?_⟩, fun s hr hf => ⟨_, exec_tick1ms hr, ?_⟩⟩
  · have hh := (autoHeld_ticks s).rest
    generalize autoHeld s = u at hh ⊢
    have hnow : u.now = s.now := congrArg LinkClock.count hh.lck
    refine ⟨fun n => (hh.level n).trans ?_, ?_, ?_, hh.pins, hh.lck, hh.tin, hh.out, hh.settings, hh.requests, hh.openCount, hh.pending⟩
    · exact (congrArg RunRecord.level (run_refillAll s n)).trans (level_refill _ _)
    · have hpeer : u.lrx.peer = s.lrx.peer := congrArg LaneReceiver.peer hh.lrx
      show u.lrx.peer.aged = _
      rw [hpeer, PeerReport.aged_eq]
    · have hpsc : u.psc = s.psc := hh.psc
      show u.psc.ticked u.now = _
      rw [hpsc, hnow]
      rfl
  · rw [autoHeld_fixed hf]
    refine ⟨rfl, rfl, rfl, rfl, rfl, rfl, rfl, rfl, rfl, rfl, fun n => ?_, fun l => ?_⟩
    · obtain ⟨k, hk⟩ := refill_only (s.entry n) (s.run n)
      show ((refillAll s).run n).sendSeq = _ ∧ ((refillAll s).run n).queued = _ ∧ ((refillAll s).run n).lastSeq = _ ∧
        ((refillAll s).run n).context = _
      rw [run_refillAll, hk]
      exact ⟨rfl, rfl, rfl, rfl⟩
    · show ((s.lrx.lanes.ticked s.now).get l).state = _ ∧ ((s.lrx.lanes.ticked s.now).get l).delay = _ ∧
        ((s.lrx.lanes.ticked s.now).get l).echo = _
      rw [ticked_get]
      exact ⟨rfl, rfl, rfl⟩

/-- The context numbers before and after one of them. -/
theorem contextIds_split (c : ContextId) : ∃ before after, contextIds = before ++ c :: after ∧ c ∉ before ∧ c ∉ after := by
  obtain ⟨before, after, he⟩ := List.append_of_mem (List.mem_finRange c)
  have hnodup : (before ++ c :: after).Nodup := he ▸ List.nodup_finRange 64
  rw [List.nodup_middle, List.nodup_cons, List.mem_append, not_or] at hnodup
  exact ⟨before, after, he, hnodup.1⟩

/-- The context of one AUTO hold after the whole tick (R110). -/
theorem autoHeld_moves {s : State} {c : ContextId} {n : StreamId} (hc : (s.context c).condition = .attached)
    (ho : (s.context c).owner = some n) (hm : (s.entry n).holdMode = .auto) (ha : (s.entry n).checkAgrees = true) :
    ∃ sl lr ck, (autoHeld s).context c = { s.context c with
      hold := slew (s.context c).hold (s.targetOf n), raw := s.rawOf n, skew := decide ((s.entry n).holdMax < s.rawOf n)
      slots := sl, lastRelease := lr, checkAgrees := ck } := by
  obtain ⟨before, after, he, hb, haft⟩ := contextIds_split c
  have hpre := HoldTicks.foldl_autoTick before (refillAll s)
  generalize hu : before.foldl autoTick (refillAll s) = u at hpre
  obtain ⟨sl, lr, ck, hctx⟩ := hpre.others c hb
  obtain ⟨st, hentry⟩ := hpre.entry n
  have hctx' : u.context c = { s.context c with slots := sl, lastRelease := lr, checkAgrees := ck } := hctx
  have hentry' : u.entry n = { s.entry n with state := st } := hentry
  have hpost := HoldTicks.foldl_autoTick after (autoTick u c)
  obtain ⟨sl', lr', ck', hlast⟩ := hpost.others c haft
  have hraw : u.rawOf n = s.rawOf n := hpre.rawOf n
  have htarget : u.targetOf n = s.targetOf n := hpre.targetOf n
  have htick := autoTick_evaluates (s := u) (c := c) (n := n) (by rw [hctx']; exact hc) (by rw [hctx']; exact ho)
    (by rw [hentry']; exact hm) (by rw [hentry']; exact ha)
  have hsplit (ids : List ContextId) (hids : ids = before ++ c :: after) :
      ids.foldl autoTick (refillAll s) = after.foldl autoTick (autoTick u c) := by
    rw [hids, List.foldl_append, List.foldl_cons, hu]
  have hfold : autoHeld s = after.foldl autoTick (autoTick u c) := (autoHeld_eq s).trans (hsplit contextIds he)
  refine ⟨sl', lr', ck', ?_⟩
  rw [hfold, hlast, htick, context_evaluateHold, hraw, htarget, hctx', hentry']
  rfl

/-- Settles O5. -/
theorem autoHoldMoves : Obligations.AutoHoldMoves := by
  intro s c n hr hc ho hm ha
  obtain ⟨sl, lr, ck, hctx⟩ := autoHeld_moves hc ho hm ha
  have hctx' := (context_tickedRest (autoHeld s) c).trans hctx
  refine ⟨_, s.skewOf n, exec_tick1ms hr, skewIs_skewOf s n, ?_⟩
  rw [hctx']
  refine ⟨rfl, ?_, rfl, rfl, rfl⟩
  show slew (s.context c).hold (clamp (s.rawOf n) (s.entry n).holdMin (s.entry n).holdMax) = _
  have htarget : clamp (s.rawOf n) (s.entry n).holdMin (s.entry n).holdMax =
      if s.rawOf n < (s.entry n).holdMin then (s.entry n).holdMin else min (s.rawOf n) (s.entry n).holdMax := by
    unfold clamp
    split
    · rfl
    · split <;> omega
  rw [htarget]
  rfl

end Sys2Proof.Machine
end

section
/-! The reading requests: STREAM READ, CONTEXT READ, LANE READ and STATION READ (R35, R90, R116, R164). -/

namespace Sys2Proof.Machine

open Safety

/-! ### What the conclusion of a service keeps -/

/-- An answer OK concluded: what the route does to the state the command left, and the request removed (R162). -/
theorem conclude_ok (b : Nat) (r : Request) (u : State) (result : List Byte) :
    ∃ v, conclude b r (answer .ok result u) = removeRequest v ∧ OnlyHold u v ∧
      ∀ R : State → State → Prop, HoldClosed R → R u v :=
  ⟨_, rfl, (OnlyHold.ofEvents (.storeCell _ _ _)).trans (routeResponse_hold _ _ _),
    fun _ hR => hR.trans (hR.storeCell _ _ _) (hR.routeResponse _ _ _)⟩

theorem serve_concludes {s : State} {step : Instr} {decide : Decide} {r : Request} {rest : List Request} {p : PortId} {b : Nat}
    {bs : List Nat} (h : Serves s step r rest p b bs) :
    serve step (checked decide) s = conclude b r (decide r.payload (granted b bs 1 .empty s)) := by
  rw [serve, served_of_heads h.toHeads]
  dsimp only
  rw [allocateControl_granted h.grants]
  dsimp only
  rw [checked_of_serves h]

theorem HeldWith.removeRequest {cause : FaultCause} {index : Nat} {v : State} (h : HeldWith cause index v) :
    HeldWith cause index (removeRequest v) :=
  h.stays (.setMga (fun hh => ⟨hh, rfl, rfl⟩) id)

/-- A context that is ATTACHED keeps a check that agrees, whatever a fault brings about. -/
def KeepsSealed (c : ContextId) (s t : State) : Prop :=
  (t.context c).condition = (s.context c).condition ∧ ((s.context c).checkAgrees = true → (t.context c).checkAgrees = true)

theorem KeepsSealed.of_eq {c : ContextId} {s t : State} (h : t.mrg = s.mrg) : KeepsSealed c s t := by
  rw [KeepsSealed, State.context, h]
  exact ⟨rfl, id⟩

theorem keepsSealed_closed (c : ContextId) : HoldClosed (KeepsSealed c) where
  refl _ := .of_eq rfl
  trans h k := ⟨k.1.trans h.1, fun a => k.2 (h.2 a)⟩
  bfm _ _ := .of_eq rfl
  counter _ r _ := by cases r <;> exact .of_eq rfl
  source _ _ _ _ := .of_eq rfl
  floor _ _ _ := .of_eq rfl
  channel _ _ _ := .of_eq rfl
  joinPort _ _ _ _ _ := .of_eq rfl
  joinLane _ _ _ _ := .of_eq rfl
  load _ _ _ := .of_eq rfl
  record _ _ _ _ := .of_eq rfl
  further _ _ := .of_eq rfl
  suspend _ _ _ := .of_eq rfl
  flush _ _ _ := .of_eq rfl
  subQueued _ _ := .of_eq rfl
  window s d _ := by
    rw [KeepsSealed, State.context_setContext]
    split
    · next e => subst e; exact ⟨rfl, fun _ => rfl⟩
    · exact ⟨rfl, id⟩
  purge _ _ := .of_eq rfl

/-- What follows the FAULT-HOLD actions within the entry. -/
theorem raiseFault_after {R : State → State → Prop} (hR : HoldClosed R) {s : State} (h : s.mga.held = false) (cause : FaultCause)
    (index : Nat) : R (holdActions (recorded cause index s)).1 (raiseFault cause index s) := by
  obtain ⟨found, he⟩ := enterHold_eq cause index s
  have hacted : R (holdActions (recorded cause index s)).1 (heldActed cause index s) := by
    unfold heldActed
    dsimp only
    generalize (holdActions (recorded cause index s)).1 = acted
    cases hd : acted.mga.drain with
    | none => exact hR.refl _
    | some d => exact hR.finishDrain hR.dropFresh hd
  rw [raiseFault_unheld h, he]
  exact hR.trans hacted (hR.trans (hR.fire _ .fault _ _) (hR.furtherFaults _ _))

theorem emptyWindow_seals (x : State × List Nat) (c : ContextId) (hc : ((emptyWindow x c).1.context c).condition = .attached) :
    ((emptyWindow x c).1.context c).checkAgrees = true := by
  unfold emptyWindow at hc ⊢
  dsimp only at hc ⊢
  split at hc
  · next ha =>
    rw [if_pos ha]
    refine (((keepsSealed_closed c).foldlPair (f := dropGathering) (fun x b => (keepsSealed_closed c).dropReference x.1 b) _
      (x.1.setContext c (x.1.context c).emptied, x.2))).2 ?_
    rw [State.context_setContext_self]
    rfl
  · next ha => exact absurd hc ha

/-- The entry to FAULT-HOLD seals every ATTACHED context as it empties it (R117, R118). -/
theorem raiseFault_seals {s : State} (h : s.mga.held = false) (cause : FaultCause) (index : Nat) (c : ContextId)
    (hc : (s.context c).condition = .attached) : ((raiseFault cause index s).context c).checkAgrees = true := by
  have hk := keepsSealed_closed c
  have hports (x : State × List Nat) : KeepsSealed c x.1 (portIds.foldl purgePort x).1 := hk.foldlPair hk.purgePort _ _
  have hflush (x : State × List Nat) : KeepsSealed c x.1 (flushClassQueues x).1 := hk.foldlPair hk.flushQueue _ _
  have hempty (x : State × List Nat) : KeepsSealed c x.1 (contextIds.foldl emptyWindow x).1 := hk.foldlPair hk.emptyWindow _ _
  refine (raiseFault_after hk h cause index).2 ((hports _).2 ?_)
  refine foldl_establishes (as := contextIds) (P := fun d (x : State × List Nat) => (x.1.context d).condition = .attached →
    (x.1.context d).checkAgrees = true) emptyWindow_seals (fun x a d hd hcd => ?_) (List.mem_finRange c) _ ?_
  · have hkd := (keepsSealed_closed d).emptyWindow x a
    exact hkd.2 (hd (hkd.1 ▸ hcd))
  · rw [(hempty _).1, (hflush _).1]
    exact hc

/-! ### A reading that finds its check wrong -/

section
variable {s : State} {step : Instr} {decide : Decide} {r : Request} {rest : List Request} {p : PortId} {b : Nat} {bs : List Nat}
  {result : List Byte} {cause : FaultCause} {index : Nat}

/-- On a held station a disagreement counts as a further fault, FAULT being pending already (R166). -/
theorem raiseFault_further (hh : s.mga.held = true) (hf : (s.source srcFault).flag = true) : raiseFault cause index s =
    (s.setMga { s.mga with furtherFaults := min (s.mga.furtherFaults + 1) 255 }).repeatFlag srcFault := by
  rw [raiseFault_held hh, furtherFault]
  exact fire_repeat (src := srcFault) (if_pos rfl) (by exact hf) _

theorem serve_further (h : Serves s step r rest p b bs) (hh : s.mga.held = true) (hf : (s.source srcFault).flag = true)
    (hd : decide r.payload (granted b bs 1 .empty s) = answer .ok result (raiseFault cause index (granted b bs 1 .empty s))) :
    serve step (checked decide) s = answered r rest p b bs .ok result
      ((s.setMga { s.mga with furtherFaults := min (s.mga.furtherFaults + 1) 255 }).repeatFlag srcFault) := by
  rw [raiseFault_further (s := granted b bs 1 .empty s) hh hf] at hd
  exact serve_answered h.toHeads ((checked_of_serves h _).trans hd) h.head
    ⟨h.reaches.port, h.reaches.present, h.reaches.room⟩ nofun

/-- On a station not held a disagreement brings it into FAULT-HOLD, and the request is answered (R166). -/
theorem serve_faults (h : Serves s step r rest p b bs) (hh : s.mga.held = false)
    (hd : decide r.payload (granted b bs 1 .empty s) = answer .ok result (raiseFault cause index (granted b bs 1 .empty s))) :
    ∃ t, serve step (checked decide) s = t ∧ HeldWith cause index t ∧ t.mga.requests = rest ∧ t.psc = s.psc ∧ t.lrx = s.lrx ∧
      t.mga.settings = s.mga.settings ∧ ∀ c, (t.context c).worstGap = (s.context c).worstGap ∧
        ((s.context c).condition = .attached → (t.context c).checkAgrees = true) := by
  have hfault := raiseFault_hold cause index (granted b bs 1 .empty s)
  obtain ⟨v, hv, hold, hclosed⟩ := conclude_ok b r (raiseFault cause index (granted b bs 1 .empty s)) result
  have hall := hfault.trans hold
  refine ⟨_, by rw [serve_concludes h, hd, hv],
    ((raiseFault_heldWith (s := granted b bs 1 .empty s) hh cause index).stays (hclosed _ stays_closed)).removeRequest, ?_, hall.psc, hall.lrx, hall.settings,
    fun c => ⟨?_, fun hc => ?_⟩⟩
  · show v.mga.requests.tail = rest
    rw [hall.requests]
    show s.mga.requests.tail = rest
    rw [h.head]
    rfl
  · obtain ⟨_, _, _, hctx⟩ := hall.context c
    show (v.context c).worstGap = _
    rw [hctx]
    rfl
  · exact (hclosed _ (keepsSealed_closed c)).2 (raiseFault_seals (s := granted b bs 1 .empty s) hh cause index c hc)

end

/-! ### STREAM READ (R35) -/

theorem contextCode_elim (o : Option ContextId) : contextCode o = o.elim 255 (fun c => c.val) := by cases o <;> rfl

theorem decideStreamRead_reads {payload : List Byte} {s : State} {n : StreamId} (h : byteAt payload 3 = 1)
    (hn : (byteAt payload 4).toFin = n) : decideStreamRead payload s =
      let t := if (s.entry n).checkAgrees then s else raiseFault .tableCheck n.val s
      answer .ok (t.streamReadResult n) t := by
  have hlength : requestArgLength payload = 1 := requestArgLength_eq_iff (n := 1).mpr h
  have hbyte : streamOfByte (requestArg payload 0) = n := by
    rw [← hn]
    show (byte (byteAt payload 4).toNat).toFin = _
    rw [byte, BitVec.ofNat_toNat, BitVec.setWidth_eq]
  unfold decideStreamRead
  rw [if_neg (not_not.mpr hlength), hbyte]

/-- The 54 bytes, with the check flag apart (R35). -/
theorem streamReadResult_eq (s : State) (n : StreamId) :
    let e := s.entry n
    let x := s.run n
    let fields : List Nat :=
      [e.role.code, e.port.val, e.cls.val, e.plan.clear.code, e.plan.watch.code, e.plan.warning.code, e.plan.strike.code,
        e.rate, e.burst, e.excess.code, if e.merge then 1 else 0, e.depth, e.holdMode.code, e.holdUs, e.holdMin, e.holdMax,
        e.pin.elim 255 (fun c => c.val), if e.gapMarkers then 1 else 0]
    s.streamReadResult n = (fields.map be16).flatten ++
      [byte e.state.code, if e.loaded then 1 else 0, flagByte e.checkAgrees] ++ be16 x.sendSeq.toNat ++ be16 x.level ++
      be16 x.queued ++ [if x.lastValid then 1 else 0] ++ be16 x.lastSeq.toNat ++
      [x.lastEpoch, x.context.elim 255 (fun c => byte c.val)] ++ be16 x.lossFirst.toNat ++
      [byte x.lossCount, s.mga.drain.elim 0 (fun d => if d.stream = n then 1 else 0)] := by
  have hflag (f : Bool) : (flagByte f).toNat = if f then 1 else 0 := by cases f <;> rfl
  have hcontext (o : Option ContextId) : byte (contextCode o) = o.elim 255 (fun c => byte c.val) := by cases o <;> rfl
  have hdrains : flagByte (s.drains n) = s.mga.drain.elim 0 (fun d => if d.stream = n then 1 else 0) := by
    unfold State.drains flagByte
    cases s.mga.drain with
    | none => rfl
    | some d => simp
  dsimp only
  rw [State.streamReadResult, StreamEntry.fieldBytes, contextCode_elim, hflag, hflag, hcontext, hdrains]
  rfl

/-- Settles O38. -/
theorem streamReadAnswers : Obligations.StreamReadAnswers := by
  intro s r rest p b bs n h hl hn
  have hread := decideStreamRead_reads (s := granted b bs 1 .empty s) hl hn
  refine ⟨fun ha => ?_, fun ha hh hf => ?_, fun ha hh => ?_⟩
  · have hread : decideStreamRead r.payload (granted b bs 1 .empty s) =
        answer .ok (s.streamReadResult n) (granted b bs 1 .empty s) := hread.trans (by rw [if_pos (by exact ha)]; rfl)
    have h1 := serve_succeeds (t := s) h rfl rfl rfl hread
    rw [streamReadResult_eq, ha] at h1
    exact congrArg _ h1
  · have hread : decideStreamRead r.payload (granted b bs 1 .empty s) =
        answer .ok ((raiseFault .tableCheck n.val (granted b bs 1 .empty s)).streamReadResult n)
          (raiseFault .tableCheck n.val (granted b bs 1 .empty s)) :=
      hread.trans (by rw [if_neg (by exact (Bool.not_eq_true _).mpr ha)])
    have h1 := serve_further h hh hf hread
    have hshown : (raiseFault .tableCheck n.val (granted b bs 1 .empty s)).streamReadResult n = s.streamReadResult n := by
      rw [raiseFault_further (s := granted b bs 1 .empty s) hh hf]
      rfl
    rw [hshown, streamReadResult_eq, ha] at h1
    exact congrArg _ h1
  · rw [if_neg (by exact (Bool.not_eq_true _).mpr ha)] at hread
    obtain ⟨t, ht, hw, hreq, hpsc, hlrx, hset, -⟩ := serve_faults h hh hread
    exact ⟨t, congrArg _ ht, hw.held, hw.cause, hw.index, hw.drain, hw.media, hreq, hpsc, hlrx, hset⟩

/-! ### CONTEXT READ (R116) -/

/-- The first held cell of a window is the one in its first present slot (R105). -/
theorem heldCells_first (slots : List (Option Held)) :
    (slots.findIdx? Option.isSome = none ∧ slots.filterMap id = []) ∨
      ∃ k h hs, slots.findIdx? Option.isSome = some k ∧ slots.getD k none = some h ∧ slots.filterMap id = h :: hs := by
  induction slots with
  | nil => exact .inl ⟨rfl, rfl⟩
  | cons x xs ih =>
    cases x with
    | some h => exact .inr ⟨0, h, xs.filterMap id, by simp [List.findIdx?_cons], rfl, rfl⟩
    | none =>
      obtain ⟨hn, hc⟩ | ⟨k, h, hs, hk, hg, hc⟩ := ih
      · exact .inl ⟨by simp [List.findIdx?_cons, hn], hc⟩
      · exact .inr ⟨k + 1, h, hs, by simp [List.findIdx?_cons, hk], hg, hc⟩

theorem headBytes_eq (x : Context) : x.headBytes = (x.slots.findIdx? Option.isSome).elim [255, 3] (fun k =>
    [byte k, (x.slots.getD k none).elim 3 (fun h => byte (laneCode h.lane))]) := by
  unfold Context.headBytes Context.firstPresent Context.heldCells
  obtain ⟨hn, -⟩ | ⟨k, h, hs, hk, hg, hc⟩ := heldCells_first x.slots
  · rw [hn]
    rfl
  · rw [hk, hc]
    show _ = [byte k, (x.slots.getD k none).elim 3 (fun h => byte (laneCode h.lane))]
    rw [hg]
    rfl

theorem timeLeft_eq (now : Time) (o : Option Time) : timeLeft now o =
    o.elim 0 (fun t => if 0 < (t - now).toNat ∧ (t - now).toNat < 2147483648 then min (t - now).toNat 65535 else 0) := by
  cases o with
  | none => rfl
  | some t =>
    simp only [timeLeft, later, elapsed, stop16, Bool.and_eq_true, decide_eq_true_eq, Option.elim_some]
    rfl

/-- The 26 bytes, with the check flag apart (R116). -/
theorem readResult_eq (x : Context) (now : Time) :
    let flag (f : Bool) : Byte := if f then 1 else 0
    let ahead (t : Time) : Nat := (t - now).toNat
    x.readResult now =
      [byte x.condition.code, x.owner.elim 0 (fun n => byte n.val), flag x.pinned, flagByte x.checkAgrees, flag x.synced] ++
        be16 x.next.toNat ++ [x.epoch, byte x.depth, byte x.heldCells.length] ++
        ((x.slots.findIdx? Option.isSome).elim [255, 3] (fun k =>
          [byte k, (x.slots.getD k none).elim 3 (fun h => byte (laneCode h.lane))])) ++
        be16 (x.deadline.elim 0 (fun t => if 0 < ahead t ∧ ahead t < 2147483648 then min (ahead t) 65535 else 0)) ++
        be16 x.hold ++ be16 (min x.raw 65535) ++
        [flag x.skew, byte x.age, flag x.arrived, flag x.lastRelease.isSome] ++
        be16 (x.lastRelease.elim 0 (fun t => min (now - t).toNat 65535)) ++ be16 x.worstGap := by
  have howner : byte (ownerCode x.owner) = x.owner.elim 0 (fun n => byte n.val) := by cases x.owner <;> rfl
  have hsince : timeSince now x.lastRelease = x.lastRelease.elim 0 (fun t => min (now - t).toNat 65535) := by
    cases x.lastRelease <;> rfl
  dsimp only
  rw [Context.readResult, howner, hsince, headBytes_eq, timeLeft_eq]
  rfl

theorem decideContextRead_reads {payload : List Byte} {s : State} {c : ContextId} (h : byteAt payload 3 = 1)
    (hc : byteAt payload 4 = byte c.val) :
    decideContextRead payload s = answer .ok ((s.context c).readResult s.now) (verifyContext c s) := by
  have hlength : requestArgLength payload = 1 := requestArgLength_eq_iff (n := 1).mpr h
  have harg : requestArg payload 0 = c.val := by
    show (byteAt payload 4).toNat = _
    rw [hc, byte_toNat (by omega)]
  have hcontext : contextOfByte c.val = c := Fin.ext (Nat.mod_eq_of_lt c.isLt)
  unfold decideContextRead
  dsimp only
  rw [hlength, harg, if_neg (by simp; omega), hcontext]

/-- Settles O44. -/
theorem contextReadAnswers : Obligations.ContextReadAnswers := by
  intro s r rest p b bs c h hl hc
  have hread := decideContextRead_reads (s := granted b bs 1 .empty s) hl hc
  have hresult : (s.context c).readResult s.now = _ := readResult_eq (s.context c) s.now
  refine ⟨fun ha => ?_, fun ha hh hf => ?_, fun ha hh => ?_⟩
  · have hread : decideContextRead r.payload (granted b bs 1 .empty s) = answer .ok ((s.context c).readResult s.now)
        (granted b bs 1 .empty (s.setContext c { s.context c with worstGap := 0 })) := by
      rw [hread, verifyContext]
      rw [if_pos (by exact ha)]
      rfl
    have h1 := serve_succeeds (t := s.setContext c { s.context c with worstGap := 0 }) h rfl rfl rfl hread
    rw [hresult, ha] at h1
    exact congrArg _ h1
  all_goals
    have hread : decideContextRead r.payload (granted b bs 1 .empty s) = answer .ok ((s.context c).readResult s.now)
        (raiseFault .contextCheck c.val (granted b bs 1 .empty s)) := by
      rw [hread, verifyContext]
      rw [if_neg (by exact (Bool.not_eq_true _).mpr ha)]
      rfl
  · have h1 := serve_further h hh hf hread
    rw [hresult, ha] at h1
    exact congrArg _ h1
  · obtain ⟨t, ht, hw, hreq, -, -, -, hctx⟩ := serve_faults h hh hread
    exact ⟨t, congrArg _ ht, hw.held, hw.cause, hw.index, hw.media, hreq, hctx c⟩

/-! ### LANE READ (R90) -/

/-- The 54 bytes (R90, R71). -/
theorem laneReadResult_eq (s : State) (l : Lane) :
    let x := s.rx l
    let y := s.tx l
    let z := s.lrx.peer
    let flag (f : Bool) : Byte := if f then 1 else 0
    let estimate (e : Option Nat) : List Byte := e.elim [0, 0, 0] (fun n => [1] ++ be16 n)
    s.laneReadResult l =
      [byte x.state.code, flag (s.pins.loss.get l), byte x.goodHeaders, byte x.badHeaders] ++ be16 x.crcFailures ++
        [flag x.headerFailure, flag x.judging, byte x.erroredRun, byte x.cleanRun] ++ estimate x.delay ++ estimate x.lastSample ++
        x.echo.elim [0, 0] (fun e => [1, e.number]) ++
        x.lastSeen.elim ([0, Config.openByte s.openCount] ++ be16 (Config.openWord s.openCount).toNat) (fun e =>
          [1, e.number] ++ be16 (if e.old then 65535 else min ((s.now - e.received).toNat / 1000) 65535)) ++
        [flag z.stale] ++ be16 z.age ++
        [byte z.rx.a.code, byte z.rx.b.code, byte z.rx.c.code, byte z.base.code, flag z.strike, z.epoch,
          z.arrival.elim 3 (fun m => byte (laneCode m))] ++
        [byte y.view.code, flag (s.txfault l), byte y.control.length] ++ be16 (s.classQueue l 0).length ++
        be16 (s.classQueue l 1).length ++ be16 (s.classQueue l 2).length ++ be16 (s.classQueue l 3).length ++
        [flag y.probeDue] ++ y.lastProbe.elim [0, Config.openByte (s.openCount + 1)] (fun k => [1, k]) ++ be32 y.load ++
        be16 y.unpoliced ++ [flag y.overcommitted, flag (s.source (srcLaneState l)).flag] := by
  have hestimate (e : Option Nat) : optionalWord e = e.elim [0, 0, 0] (fun n => [1] ++ be16 n) := by cases e <;> rfl
  have hecho (e : Option EchoRecord) : echoBytes e = e.elim [0, 0] (fun e => [1, e.number]) := by cases e <;> rfl
  have hseen (k : Nat) (e : Option LastSeen) : seenBytes s.now k e =
      e.elim ([0, Config.openByte k] ++ be16 (Config.openWord k).toNat) (fun e =>
        [1, e.number] ++ be16 (if e.old then 65535 else min ((s.now - e.received).toNat / 1000) 65535)) := by cases e <;> rfl
  have harrival (e : Option Lane) : byte (arrivalCode e) = e.elim 3 (fun m => byte (laneCode m)) := by cases e <;> rfl
  have hsent (k : Nat) (e : Option Byte) : sentBytes k e = e.elim [0, Config.openByte k] (fun k => [1, k]) := by cases e <;> rfl
  have hqueues : (classes.map (fun k => be16 (s.classQueue l k).length)).flatten = be16 (s.classQueue l 0).length ++
      (be16 (s.classQueue l 1).length ++ (be16 (s.classQueue l 2).length ++ be16 (s.classQueue l 3).length)) := by
    simp [classes]
  dsimp only
  rw [State.laneReadResult, State.laneRxBytes, State.laneTxBytes, PeerReport.bytes, hestimate, hestimate, hecho, hseen, harrival,
    hsent, hqueues]
  simp only [List.append_assoc]
  rfl

/-- Settles O45. -/
theorem laneReadAnswers : Obligations.LaneReadAnswers := by
  intro s r rest p b bs l h hl hc
  have hlength : requestArgLength r.payload = 1 := requestArgLength_eq_iff (n := 1).mpr hl
  have hlane : laneOfCode (requestArg r.payload 0) = some l := by
    show laneOfCode (byteAt r.payload 4).toNat = _
    rw [hc]
    cases l <;> rfl
  have hread : decideLaneRead r.payload (granted b bs 1 .empty s) = answer .ok (s.laneReadResult l)
      (granted b bs 1 .empty (({ s with openCount := s.openCount + 2 }).setSource (srcLaneState l)
        { level := (s.source (srcLaneState l)).level, flag := false, repeats := 0, detail := .none })) := by
    unfold decideLaneRead
    rw [if_neg (not_not.mpr hlength), hlane]
    rfl
  have h1 := serve_succeeds (t := ({ s with openCount := s.openCount + 2 }).setSource (srcLaneState l)
    { level := (s.source (srcLaneState l)).level, flag := false, repeats := 0, detail := .none }) h rfl rfl rfl hread
  rw [laneReadResult_eq] at h1
  exact congrArg _ h1

/-! ### STATION READ (R164) -/

theorem stationReadResult_eq (s : State) :
    let m := s.mga
    let x := m.settings
    s.stationReadResult =
      [byte m.station.val, x.controllerPort.elim 255 (fun q => byte q.val)] ++ be16 x.strikeHold ++ be16 x.guards.clear ++
        be16 x.guards.watch ++ be16 x.guards.warning ++ be16 x.guards.strike ++
        [byte x.erroredThreshold, byte x.impairCount, byte x.recoverNormal, byte x.recoverStorm] ++ be16 x.drainTimeout ++
        [byte s.psc.base.code, byte s.psc.effective.code, byte s.evu.floor, s.lck.epoch, if m.held then 1 else 0,
          m.faultCause.elim 0 (fun c => byte c.code)] ++ be16 m.faultIndex ++ [byte m.furtherFaults] ++ be32 s.psc.timer ++
        [byte s.psc.peerBase.code, if s.psc.peerStrike then 1 else 0] ++ be16 s.bfm.freeCount ++
        [if m.drain.isSome then 1 else 0, m.drain.elim 0 (fun d => byte d.stream.val), byte m.requests.length,
          byte ((List.finRange 8).map (fun q => if s.present q then 2 ^ q.val else 0)).sum] ++
        ((List.finRange 8).map (fun q => be16 (s.egress q).length)).flatten := by
  have hport (o : Option PortId) : byte (portCode o) = o.elim 255 (fun q => byte q.val) := by cases o <;> rfl
  have hcause (o : Option FaultCause) : byte (faultCauseCode o) = o.elim 0 (fun c => byte c.code) := by cases o <;> rfl
  have hdrain (o : Option Drain) : byte (drainStreamCode o) = o.elim 0 (fun d => byte d.stream.val) := by cases o <;> rfl
  dsimp only
  rw [State.stationReadResult, Settings.bytes, hport, hcause, hdrain]
  simp only [List.append_assoc]
  rfl

theorem stationRead_reads {s : State} {r : Request} {rest : List Request} {p : PortId} {b : Nat} {bs : List Nat}
    (h : Serves s .stationRead r rest p b bs) (hl : byteAt r.payload 3 = 0) : exec .stationRead s =
      .next (answered r rest p b bs .ok (granted b bs 1 .empty s).stationReadResult s) := by
  have hlength : requestArgLength r.payload = 0 := requestArgLength_eq_iff (n := 0).mpr hl
  refine congrArg _ (serve_succeeds (t := s) h rfl rfl rfl ?_)
  rw [decideStationRead, if_neg (not_not.mpr hlength)]

theorem stationRead_refuses {s : State} {r : Request} {rest : List Request} {p : PortId} {b : Nat} {bs : List Nat}
    (h : Serves s .stationRead r rest p b bs) (hl : byteAt r.payload 3 ≠ 0) (hs : Silent s srcMgmtError) :
    exec .stationRead s = .next (answered r rest p b bs .badArgument [] (flagged srcMgmtError s)) := by
  refine congrArg _ (serve_refuses h rfl hs fun u _ => ?_)
  rw [decideStationRead, if_pos (show requestArgLength r.payload ≠ 0 from mt (requestArgLength_eq_iff (n := 0)).mp hl)]

end Sys2Proof.Machine
end

section
/-! Lists of items in a request (R31, R154, R165), and the requests of the station's settings. -/

namespace Sys2Proof.Machine

open Safety

/-! ### Lists of items -/

theorem mem_of_lookup {items : List (Nat × Nat)} {code v : Nat} (h : items.lookup code = some v) : (code, v) ∈ items := by
  induction items with
  | nil => exact absurd h nofun
  | cons x xs ih =>
    rw [List.lookup_cons] at h
    split at h
    · next he =>
      rw [beq_iff_eq] at he
      have hx : x = (code, v) := Prod.ext he.symm (Option.some.inj h)
      rw [hx]
      exact List.mem_cons_self
    · exact List.mem_cons_of_mem _ (ih h)

theorem lookup_of_mem {items : List (Nat × Nat)} (hn : (items.map Prod.fst).Nodup) {x : Nat × Nat} (h : x ∈ items) :
    items.lookup x.1 = some x.2 := by
  induction items with
  | nil => cases h
  | cons y ys ih =>
    rw [List.map_cons, List.nodup_cons] at hn
    rw [List.lookup_cons]
    rcases List.mem_cons.1 h with rfl | h
    · simp
    · have hne : (x.1 == y.1) = false := beq_eq_false_iff_ne.mpr fun he => hn.1 (he ▸ List.mem_map_of_mem h)
      rw [hne]
      exact ih hn.2 h

/-- With no code named twice, what holds of an item is what holds of a named value. -/
theorem exists_item {items : List (Nat × Nat)} (hn : (items.map Prod.fst).Nodup) {P : Nat → Nat → Prop} :
    (∃ x ∈ items, P x.1 x.2) ↔ ∃ code v, items.lookup code = some v ∧ P code v := by
  constructor
  · rintro ⟨x, hx, hP⟩
    exact ⟨x.1, x.2, lookup_of_mem hn hx, hP⟩
  · rintro ⟨code, v, hl, hP⟩
    exact ⟨(code, v), mem_of_lookup hl, hP⟩

theorem forall_item {items : List (Nat × Nat)} (hn : (items.map Prod.fst).Nodup) {P : Nat → Nat → Prop} :
    (∀ x ∈ items, P x.1 x.2) ↔ ∀ code v, items.lookup code = some v → P code v := by
  constructor
  · intro h code v hl
    exact h _ (mem_of_lookup hl)
  · intro h x hx
    exact h _ _ (lookup_of_mem hn hx)

theorem fieldOr_eq {α : Type} (items : List (Nat × Nat)) (code : Nat) (f : Nat → α) (old : α) :
    fieldOr items code f old = ((items.lookup code).map f).getD old := by
  unfold fieldOr itemValue
  cases items.lookup code <;> rfl

theorem threeByteItems_lt : ∀ (bs : List Byte), ∀ x ∈ threeByteItems bs, x.1 < 256 ∧ x.2 < 65536
  | c :: h :: l :: rest, x, hx => by
    rw [threeByteItems, List.mem_cons] at hx
    rcases hx with rfl | hx
    · constructor
      · exact c.isLt
      · have hh := h.isLt
        have hl := l.isLt
        dsimp only
        omega
    · exact threeByteItems_lt rest x hx
  | [], x, hx => by cases hx
  | [_], x, hx => by cases hx
  | [_, _], x, hx => by cases hx

theorem clamp_eq {lo hi : Nat} (h : lo ≤ hi) (v : Nat) : clamp v lo hi = max lo (min v hi) := by
  unfold clamp
  split
  · omega
  · split <;> omega

theorem clamp_ne_iff (lo hi v : Nat) : clamp v lo hi ≠ v ↔ v < lo ∨ hi < v := by
  unfold clamp
  split
  · omega
  · split <;> omega

/-! ### The settings written (R165) -/

theorem settingListOk_iff {length : Nat} {items : List (Nat × Nat)} : settingListOk length items = true ↔
    length % 3 = 0 ∧ 1 ≤ length / 3 ∧ length / 3 ≤ 11 ∧ (∀ x ∈ items, 1 ≤ x.1 ∧ x.1 ≤ 11) ∧ (items.map Prod.fst).Nodup ∧
      ∀ x ∈ items, x.1 = 1 → x.2 < 8 ∨ x.2 = 255 := by
  have hport (x : Nat × Nat) : (x.1 != 1 || decide (x.2 < 8) || x.2 == 255) = true ↔ (x.1 = 1 → x.2 < 8 ∨ x.2 = 255) := by
    by_cases hx : x.1 = 1 <;> simp [hx]
  simp only [settingListOk, codesDistinct, Bool.and_eq_true, beq_iff_eq, decide_eq_true_eq, List.all_eq_true, hport, and_assoc]

theorem clampSetting_ne_iff {code v : Nat} (hc : 1 ≤ code ∧ code ≤ 11) (hv : v < 65536) : clampSetting code v ≠ v ↔
    (code = 2 ∧ (v < 1 ∨ 600 < v)) ∨ (code ∈ [3, 4, 5, 6] ∧ 20000 < v) ∨ (code ∈ [7, 9, 10] ∧ (v < 1 ∨ 255 < v)) ∨
      (code = 8 ∧ (v < 1 ∨ 15 < v)) ∨ (code = 11 ∧ (v < 1 ∨ 1000 < v)) := by
  obtain ⟨h1, h2⟩ := hc
  unfold clampSetting
  rw [clamp_ne_iff]
  interval_cases code <;> simp [settingRange]
  omega

theorem any_clampSetting {items : List (Nat × Nat)} (hn : (items.map Prod.fst).Nodup) (hc : ∀ x ∈ items, 1 ≤ x.1 ∧ x.1 ≤ 11)
    (hv : ∀ x ∈ items, x.2 < 65536) : items.any (fun i => clampSetting i.1 i.2 != i.2) = true ↔
      (∃ v, items.lookup 2 = some v ∧ (v < 1 ∨ 600 < v)) ∨
      (∃ code ∈ [3, 4, 5, 6], ∃ v, items.lookup code = some v ∧ 20000 < v) ∨
      (∃ code ∈ [7, 9, 10], ∃ v, items.lookup code = some v ∧ (v < 1 ∨ 255 < v)) ∨
      (∃ v, items.lookup 8 = some v ∧ (v < 1 ∨ 15 < v)) ∨ (∃ v, items.lookup 11 = some v ∧ (v < 1 ∨ 1000 < v)) := by
  have hitem : (∃ x ∈ items, clampSetting x.1 x.2 ≠ x.2) ↔ ∃ x ∈ items,
      (x.1 = 2 ∧ (x.2 < 1 ∨ 600 < x.2)) ∨ (x.1 ∈ [3, 4, 5, 6] ∧ 20000 < x.2) ∨ (x.1 ∈ [7, 9, 10] ∧ (x.2 < 1 ∨ 255 < x.2)) ∨
        (x.1 = 8 ∧ (x.2 < 1 ∨ 15 < x.2)) ∨ (x.1 = 11 ∧ (x.2 < 1 ∨ 1000 < x.2)) :=
    exists_congr fun x => and_congr_right fun hx => clampSetting_ne_iff (hc x hx) (hv x hx)
  simp only [List.any_eq_true, bne_iff_ne]
  rw [hitem, exists_item hn (P := fun code v => (code = 2 ∧ (v < 1 ∨ 600 < v)) ∨ (code ∈ [3, 4, 5, 6] ∧ 20000 < v) ∨
    (code ∈ [7, 9, 10] ∧ (v < 1 ∨ 255 < v)) ∨ (code = 8 ∧ (v < 1 ∨ 15 < v)) ∨ (code = 11 ∧ (v < 1 ∨ 1000 < v)))]
  constructor
  · rintro ⟨code, v, hl, ⟨rfl, h⟩ | ⟨hm, h⟩ | ⟨hm, h⟩ | ⟨rfl, h⟩ | ⟨rfl, h⟩⟩
    · exact .inl ⟨v, hl, h⟩
    · exact .inr (.inl ⟨code, hm, v, hl, h⟩)
    · exact .inr (.inr (.inl ⟨code, hm, v, hl, h⟩))
    · exact .inr (.inr (.inr (.inl ⟨v, hl, h⟩)))
    · exact .inr (.inr (.inr (.inr ⟨v, hl, h⟩)))
  · rintro (⟨v, hl, h⟩ | ⟨code, hm, v, hl, h⟩ | ⟨code, hm, v, hl, h⟩ | ⟨v, hl, h⟩ | ⟨v, hl, h⟩)
    · exact ⟨2, v, hl, .inl ⟨rfl, h⟩⟩
    · exact ⟨code, v, hl, .inr (.inl ⟨hm, h⟩)⟩
    · exact ⟨code, v, hl, .inr (.inr (.inl ⟨hm, h⟩))⟩
    · exact ⟨8, v, hl, .inr (.inr (.inr (.inl ⟨rfl, h⟩)))⟩
    · exact ⟨11, v, hl, .inr (.inr (.inr (.inr ⟨rfl, h⟩)))⟩

theorem written_controllerPort (x : Settings) {items : List (Nat × Nat)}
    (h : ∀ v, items.lookup 1 = some v → v < 8 ∨ v = 255) : (x.written items).controllerPort.elim 255 (fun q => q.val) =
      (items.lookup 1).getD (x.controllerPort.elim 255 (fun q => q.val)) := by
  show (fieldOr items 1 portOf x.controllerPort).elim 255 (fun q => q.val) = _
  rw [fieldOr_eq]
  cases hl : items.lookup 1 with
  | none => rfl
  | some v =>
    show (portOf v).elim 255 (fun q => q.val) = v
    obtain hv | rfl := h v hl
    · rw [portOf, dif_pos hv]
      rfl
    · rfl

/-- A setting but the controller port, after the write (R165). -/
theorem fieldOr_clampSetting (items : List (Nat × Nat)) {code lo hi : Nat} (hr : settingRange code = (lo, hi)) (hle : lo ≤ hi)
    (old : Nat) : fieldOr items code (clampSetting code) old = ((items.lookup code).map (fun v => max lo (min v hi))).getD old := by
  rw [fieldOr_eq]
  congr 2
  funext v
  rw [clampSetting, hr, clamp_eq hle]

/-! ### The route of a response (R160 to R162) -/

/-- Routing a buffer that has its one reference raises no fault: it leaves the agent as it stands. -/
theorem routeResponse_only {dest : Fin 8} {b : Nat} {s : State} (h : (s.buffer b).refs = 1) : OnlyEvents s (routeResponse dest b s) := by
  have hback : OnlyEvents s (dereference b s) := by
    rw [dereference_returned h]
    exact OnlyEvents.setBfm _ _
  have hdiscard : OnlyEvents s (discardWith fire dereference b s) := hback.trans (undeliverable_only _)
  have hplace : OnlyEvents s (placeControlWith fire dereference b s) := by
    unfold placeControlWith
    split
    · exact OnlyEvents.setControl _ _ _
    · exact hdiscard
  unfold routeResponse routeResponseWith
  split
  · unfold controllerRouteWith
    split
    · unfold offerControlWith
      split
      · exact OnlyEvents.setEgress _ _ _
      · exact hback.trans ((count_only _ _).trans (undeliverable_only _))
    · rw [if_neg (by decide)]
      exact hplace
  · split
    · exact hplace
    · exact hdiscard

theorem refs_storeCell {s : State} {b : Nat} (h : (s.buffer b).refs = 1) (cell : Cell) : ((s.storeCell b cell).buffer b).refs = 1 := by
  have hread : (s.storeCell b cell).buffer b = { s.buffer b with cell := cell, checkAgrees := true } :=
    Pool.read_write_self_of_ne _ _ (Buffer.ne_unlisted_of_refs (by rw [h]; decide))
  rw [hread]
  exact h

/-- A service answered OK leaves the agent with the request removed, wherever its response goes (R162). -/
theorem serve_mga {s u : State} {step : Instr} {decide : Decide} {r : Request} {rest : List Request} {p : PortId} {b : Nat}
    {bs : List Nat} {result : List Byte} (h : Serves s step r rest p b bs)
    (hd : decide r.payload (granted b bs 1 .empty s) = answer .ok result u) (hb : (u.buffer b).refs = 1)
    (hreq : u.mga.requests = r :: rest) :
    (serve step (checked decide) s).mga = { u.mga with requests := rest, serviceDue := true } := by
  have hmga (cell : Cell) : (routeResponse r.source b (u.storeCell b cell)).mga = u.mga :=
    (routeResponse_only (refs_storeCell hb cell)).mga
  have hconclude : conclude b r (answer .ok result u) = removeRequest (routeResponse r.source b (u.storeCell b
      (responseCell u.mga.station r.source (requestTag r.payload) (requestCommand r.payload) .ok result))) := rfl
  rw [serve_concludes h, hd, hconclude, removeRequest, State.setMga_mga, hmga, hreq]
  rfl

/-! ### STATION READ and STATION WRITE (R164, R165) -/

theorem decideStationWrite_writes {s : State} {payload : List Byte}
    (hg : settingListOk (requestArgLength payload) (threeByteItems (requestArgs payload)) = true) (hh : s.mga.held = false) :
    decideStationWrite payload s =
      answer .ok [flagByte ((threeByteItems (requestArgs payload)).any (fun i => clampSetting i.1 i.2 != i.2))]
        (s.setMga { s.mga with settings := s.mga.settings.written (threeByteItems (requestArgs payload)) }) := by
  unfold decideStationWrite
  rw [if_neg (by simp [hg]), if_neg (by simp [hh])]

/-- Settles O52. -/
theorem stationRequests : Obligations.StationRequests := by
  intro s r rest p b bs
  refine ⟨fun h => ⟨stationRead_refuses h, fun hl => ?_⟩, fun h => ?_⟩
  · rw [stationRead_reads h hl, stationReadResult_eq]
    rw [show (granted b bs 1 .empty s).mga.requests = r :: rest from h.head]
    rfl
  · intro length items value good within o
    have hgood : settingListOk (requestArgLength r.payload) (threeByteItems (requestArgs r.payload)) = true ↔ good := by
      rw [settingListOk_iff]
      refine and_congr_right fun _ => and_congr_right fun _ => and_congr_right fun _ => and_congr_right fun _ =>
        and_congr_right fun hn => ?_
      rw [forall_item hn (P := fun code v => code = 1 → v < 8 ∨ v = 255)]
      exact ⟨fun h v hv => h 1 v hv rfl, fun h code v hv he => h v (he ▸ hv)⟩
    refine ⟨fun hbad hs => congrArg _ (serve_refuses h rfl hs fun u _ => ?_), fun hg hh => ?_⟩
    · rw [decideStationWrite, if_pos (by simpa using mt hgood.mp hbad)]
    · have hok := hgood.mpr hg
      obtain ⟨-, -, -, hcodes, hnodup, hport⟩ := hg
      have hwrite := decideStationWrite_writes (s := granted b bs 1 .empty s) hok hh
      have hvalues : ∀ x ∈ items, x.2 < 65536 := fun x hx => (threeByteItems_lt _ x hx).2
      refine ⟨o.written items, items.any (fun i => clampSetting i.1 i.2 != i.2),
        ⟨_, rfl, serve_mga h hwrite ?_ h.head⟩, fun q hq => ?_, written_controllerPort o hport,
        fieldOr_clampSetting items rfl (by decide) _, fieldOr_clampSetting items rfl (by decide) _,
        fieldOr_clampSetting items rfl (by decide) _, fieldOr_clampSetting items rfl (by decide) _,
        fieldOr_clampSetting items rfl (by decide) _, fieldOr_clampSetting items rfl (by decide) _,
        fieldOr_clampSetting items rfl (by decide) _, fieldOr_clampSetting items rfl (by decide) _,
        fieldOr_clampSetting items rfl (by decide) _, fieldOr_clampSetting items rfl (by decide) _,
        any_clampSetting hnodup hcodes hvalues⟩
      · show ((granted b bs 1 .empty s).buffer b).refs = 1
        rw [buffer_granted _ _ (by decide)]
      · exact congrArg _ (serve_answered (t := s.setMga { s.mga with settings := o.written items }) h.toHeads
          ((checked_of_serves h _).trans hwrite) h.head hq nofun)

end Sys2Proof.Machine
end

section
/-! What the argument checks and a held station refuse, command by command (R8, R167). -/

namespace Sys2Proof.Machine

open Safety

/-- Arguments that are not good are answered BAD_ARGUMENT, and on a held station good ones of a listed request HELD (R167). -/
structure Refuses (decide : Decide) (payload : List Byte) (good listed : Prop) : Prop where
  bad : ¬ good → ∀ u, decide payload u = answer .badArgument [] u
  held : good → listed → ∀ u : State, u.mga.held = true → decide payload u = answer .held [] u

section
variable {payload : List Byte}

theorem echo_refuses (h : argLengthBad payload = false) : Refuses decideEcho payload (requestArgLength payload ≤ 111) False where
  bad hg u := by
    simp only [argLengthBad, Bool.or_eq_false_iff, decide_eq_false_iff_not] at h
    exact decideEcho_refuses (by omega)
  held _ h := h.elim

theorem streamRead_refuses : Refuses decideStreamRead payload (requestArgLength payload = 1) False where
  bad hg _ := if_pos hg
  held _ h := h.elim

theorem contextRead_refuses : Refuses decideContextRead payload (requestArgLength payload = 1 ∧ requestArg payload 0 ≤ 63) False where
  bad hg u := by
    refine if_pos ?_
    simp only [Bool.or_eq_true, bne_iff_ne, ne_eq, decide_eq_true_eq]
    omega
  held _ h := h.elim

theorem laneOfCode_none {n : Nat} (h : 2 < n) : laneOfCode n = none := by
  match n, h with
  | _ + 3, _ => rfl

theorem laneRead_refuses : Refuses decideLaneRead payload (requestArgLength payload = 1 ∧ requestArg payload 0 ≤ 2) False where
  bad hg u := by
    unfold decideLaneRead
    by_cases hl : requestArgLength payload = 1
    · rw [if_neg (not_not.mpr hl), laneOfCode_none (by omega)]
    · exact if_pos hl
  held _ h := h.elim

theorem code_or_beyond (n : Nat) : 3 < n ∨ ∃ kind : ObjectKind, kind.code = n := by
  match n with
  | 0 => exact .inr ⟨.stream, rfl⟩
  | 1 => exact .inr ⟨.lane, rfl⟩
  | 2 => exact .inr ⟨.port, rfl⟩
  | 3 => exact .inr ⟨.station, rfl⟩
  | n + 4 => exact .inl (by omega)

theorem counterRead_refuses :
    Refuses decideCounterRead payload (requestArgLength payload = 5 ∧ 1 ≤ requestArg payload 3 ∧ requestArg payload 3 ≤ 25 ∧ requestArg payload 4 ≤ 1 ∧
      ∃ kind : ObjectKind, kind.code = requestArg payload 0 ∧ requestArg payload 1 < (objectsOf kind).1 ∧
        requestArg payload 2 + requestArg payload 3 ≤ (objectsOf kind).2) (byteAt payload 8 = 1) where
  bad hg u := by
    by_cases hl : requestArgLength payload = 5
    · obtain hk | ⟨kind, hk⟩ := code_or_beyond (requestArg payload 0)
      · exact decideCounterRead_wrong_head (.inr hk)
      · refine decideCounterRead_wrong_range hk fun hok => hg ?_
        rw [counterRangeOk_iff] at hok
        exact ⟨hl, by omega, by omega, by omega, kind, hk, by omega, by omega⟩
    · exact decideCounterRead_wrong_head (.inl hl)
  held hg hc u hh := by
    obtain ⟨hl, h1, h2, h3, kind, hk, hi, hp⟩ := hg
    have hclear : (requestArg payload 4 == 1) = true := by
      rw [show requestArg payload 4 = 1 from congrArg BitVec.toNat hc]
      rfl
    rw [decideCounterRead_reads hl hk (counterRangeOk_iff.mpr (by omega)), hclear]
    exact readCounters_held _ _ _ hh

theorem counterClear_refuses : Refuses decideCounterClear payload (requestArgLength payload = 3 ∧ requestArg payload 1 ≤ requestArg payload 2 ∧
      ∃ kind : ObjectKind, kind.code = requestArg payload 0 ∧ requestArg payload 2 < (objectsOf kind).1) True where
  bad hg u := by
    by_cases hl : requestArgLength payload = 3
    · obtain hk | ⟨kind, hk⟩ := code_or_beyond (requestArg payload 0)
      · exact decideCounterClear_wrong_head (.inr hk)
      · refine decideCounterClear_wrong_range hk ?_
        by_contra hcon
        exact hg ⟨hl, by omega, kind, hk, by omega⟩
    · exact decideCounterClear_wrong_head (.inl hl)
  held hg _ u hh := by
    obtain ⟨hl, hr, kind, hk, ho⟩ := hg
    rw [decideCounterClear_clears hl hk hr ho, if_pos hh]

theorem postureSet_refuses : Refuses decidePostureSet payload (requestArgLength payload = 1 ∧ requestArg payload 0 ≤ 2) True where
  bad hg u := by
    refine decidePostureSet_bad ?_
    by_contra hcon
    rw [not_or, not_not] at hcon
    exact hg ⟨requestArgLength_eq_iff (n := 1).mpr hcon.1, Nat.not_lt.mp hcon.2⟩
  held hg _ u hh := by
    obtain ⟨hl, ha⟩ := hg
    have hbase : ∃ base, BasePosture.ofCode (requestArg payload 0) = some base := by
      interval_cases requestArg payload 0
      · exact ⟨.clear, rfl⟩
      · exact ⟨.watch, rfl⟩
      · exact ⟨.warning, rfl⟩
    obtain ⟨base, hbase⟩ := hbase
    unfold decidePostureSet
    rw [if_neg (not_not.mpr hl), hbase]
    exact if_pos hh

theorem strikeTest_refuses : Refuses decideStrikeTest payload (requestArgLength payload = 0) True where
  bad hg _ := if_pos hg
  held hg _ _ hh := (if_neg (not_not.mpr hg)).trans (if_pos hh)

theorem eventRead_refuses : Refuses decideEventRead payload (requestArgLength payload = 0) False where
  bad hg _ := decideEventRead_wrong hg
  held _ h := h.elim

/-- Bit 23 of a source set is the top bit of its first byte. -/
theorem namedSet_bit23 : (namedSet payload).testBit 23 = true ↔ 127 < requestArg payload 0 := by
  have h0 : requestArg payload 0 < 256 := BitVec.isLt _
  have h1 : requestArg payload 1 < 256 := BitVec.isLt _
  have h2 : requestArg payload 2 < 256 := BitVec.isLt _
  rw [Nat.testBit_eq_decide_div_mod_eq, decide_eq_true_eq, namedSet]
  omega

theorem eventClear_refuses : Refuses decideEventClear payload (requestArgLength payload = 3 ∧ requestArg payload 0 ≤ 127) True where
  bad hg u := by
    refine decideEventClear_wrong ?_
    rw [namedSet_bit23]
    by_contra hcon
    rw [not_or, not_not] at hcon
    exact hg ⟨hcon.1, Nat.not_lt.mp hcon.2⟩
  held hg _ u hh := by
    obtain ⟨hl, ha⟩ := hg
    have h23 : (namedSet payload).testBit 23 = false :=
      (Bool.not_eq_true _).mp fun h => absurd (namedSet_bit23.mp h) (Nat.not_lt.mpr ha)
    rw [decideEventClear_clears hl h23, if_pos hh]

theorem levelListOk_iff {length : Nat} {pairs : List (Nat × Nat)} : levelListOk length pairs = true ↔
    length % 2 = 0 ∧ 1 ≤ length / 2 ∧ length / 2 ≤ 23 ∧ (∀ x ∈ pairs, x.1 ≤ 22 ∧ x.2 ≤ 7) ∧ (pairs.map Prod.fst).Nodup := by
  simp only [levelListOk, codesDistinct, Bool.and_eq_true, beq_iff_eq, decide_eq_true_eq, List.all_eq_true, and_assoc]

theorem eventLevels_refuses : Refuses decideEventLevels payload (requestArgLength payload % 2 = 0 ∧ 1 ≤ requestArgLength payload / 2 ∧ requestArgLength payload / 2 ≤ 23 ∧
      (∀ x ∈ bytePairs (requestArgs payload), x.1 ≤ 22 ∧ x.2 ≤ 7) ∧ ((bytePairs (requestArgs payload)).map Prod.fst).Nodup) True where
  bad hg _ := if_pos (by simpa using mt levelListOk_iff.mp hg)
  held hg _ _ hh := (if_neg (by simpa using levelListOk_iff.mpr hg)).trans (if_pos hh)

theorem floorSet_refuses : Refuses decideFloorSet payload (requestArgLength payload = 1) True where
  bad hg _ := if_pos hg
  held hg _ _ hh := (if_neg (not_not.mpr hg)).trans (if_pos hh)

theorem binding_of_code {n : Nat} (h : (1 ≤ n ∧ n ≤ 22) ∨ n = 254 ∨ n = 255) : ∃ bound, bindingOfCode n = some bound := by
  unfold bindingOfCode
  split
  · exact ⟨_, rfl⟩
  · split
    · exact ⟨_, rfl⟩
    · rw [dif_pos (by omega)]
      exact ⟨_, rfl⟩

theorem total_eq_objectsOf (kind : ObjectKind) : kind.total = (objectsOf kind).1 * (objectsOf kind).2 := by cases kind <;> rfl

theorem exportSet_refuses : Refuses decideExportSet payload (requestArgLength payload = 9 ∧ requestArg payload 0 ≤ 3 ∧
      ((1 ≤ requestArg payload 1 ∧ requestArg payload 1 ≤ 22) ∨ requestArg payload 1 = 254 ∨ requestArg payload 1 = 255) ∧ requestArg payload 6 ≤ 1 ∧
      ∃ kind : ObjectKind, kind.code = requestArg payload 2 ∧
        requestArg payload 3 * 256 + requestArg payload 4 < (objectsOf kind).1 * (objectsOf kind).2) True where
  bad hg u := by
    by_cases hl : requestArgLength payload = 9 ∧ requestArg payload 6 ≤ 1
    · by_cases hcodes : requestArg payload 0 ≤ 3 ∧
          ((1 ≤ requestArg payload 1 ∧ requestArg payload 1 ≤ 22) ∨ requestArg payload 1 = 254 ∨ requestArg payload 1 = 255)
      · obtain ⟨hch, hb⟩ := hcodes
        obtain ⟨bound, hbound⟩ := binding_of_code hb
        obtain hk | ⟨kind, hk⟩ := code_or_beyond (requestArg payload 2)
        · exact decideExportSet_wrong_code (.inr (.inr hk))
        · have hch' : requestArg payload 0 = (⟨requestArg payload 0, Nat.lt_succ_of_le hch⟩ : ChannelId).val := rfl
          rw [decideExportSet_named hl.1 hch' hbound hk hl.2, if_pos]
          by_contra hcon
          exact hg ⟨hl.1, hch, hb, hl.2, kind, hk, by rw [total_eq_objectsOf] at hcon; omega⟩
      · have h1 : requestArg payload 1 < 256 := BitVec.isLt _
        exact decideExportSet_wrong_code (by omega)
    · exact decideExportSet_wrong_form (by omega)
  held hg _ u hh := by
    obtain ⟨hl, hch, hb, hw, kind, hk, ht⟩ := hg
    obtain ⟨bound, hbound⟩ := binding_of_code hb
    have hch' : requestArg payload 0 = (⟨requestArg payload 0, Nat.lt_succ_of_le hch⟩ : ChannelId).val := rfl
    rw [decideExportSet_named hl hch' hbound hk hw, if_neg, if_pos hh]
    rw [total_eq_objectsOf]
    omega

theorem exportStart_refuses : Refuses decideExportStart payload (requestArgLength payload = 1 ∧ requestArg payload 0 ≤ 3) True where
  bad hg u := by
    unfold decideExportStart
    by_cases hl : requestArgLength payload = 1
    · rw [channelOfByte_eq_none (Nat.not_le.mp fun ha => hg ⟨hl, ha⟩)]
    · split
      · rfl
      · exact if_pos hl
  held hg _ u hh := by
    obtain ⟨hl, ha⟩ := hg
    unfold decideExportStart
    rw [show requestArg payload 0 = (⟨requestArg payload 0, Nat.lt_succ_of_le ha⟩ : ChannelId).val from rfl, channelOfByte_val]
    exact (if_neg (not_not.mpr hl)).trans (if_pos hh)

theorem exportRead_refuses : Refuses decideExportRead payload (requestArgLength payload = 1 ∧ requestArg payload 0 ≤ 3) False where
  bad hg u := by
    refine decideExportRead_wrong ?_
    by_contra hcon
    rw [not_or, not_not] at hcon
    exact hg ⟨hcon.1, Nat.not_lt.mp hcon.2⟩
  held _ h := h.elim

theorem stationRead_refuses_length : Refuses decideStationRead payload (requestArgLength payload = 0) False where
  bad hg _ := if_pos hg
  held _ h := h.elim

theorem settingListOk_iff_le {length : Nat} {items : List (Nat × Nat)} : settingListOk length items = true ↔
    length % 3 = 0 ∧ 1 ≤ length / 3 ∧ length / 3 ≤ 11 ∧ (∀ x ∈ items, 1 ≤ x.1 ∧ x.1 ≤ 11) ∧ (items.map Prod.fst).Nodup ∧
      ∀ x ∈ items, x.1 = 1 → x.2 ≤ 7 ∨ x.2 = 255 := by
  have hle (n : Nat) : n < 8 ↔ n ≤ 7 := by omega
  simp only [settingListOk_iff, hle]

theorem stationWrite_refuses : Refuses decideStationWrite payload (requestArgLength payload % 3 = 0 ∧ 1 ≤ requestArgLength payload / 3 ∧ requestArgLength payload / 3 ≤ 11 ∧
      (∀ x ∈ threeByteItems (requestArgs payload), 1 ≤ x.1 ∧ x.1 ≤ 11) ∧
      ((threeByteItems (requestArgs payload)).map Prod.fst).Nodup ∧
      (∀ x ∈ threeByteItems (requestArgs payload), x.1 = 1 → x.2 ≤ 7 ∨ x.2 = 255)) True where
  bad hg _ := if_pos (by rw [(Bool.not_eq_true _).mp (mt settingListOk_iff_le.mp hg)]; rfl)
  held hg _ _ hh := (if_neg (by rw [settingListOk_iff_le.mpr hg]; decide)).trans (if_pos hh)

/-! ### Field items (R31) -/

theorem fieldValueOk_iff {x : Nat × Nat} (hc : 1 ≤ x.1 ∧ x.1 ≤ 18) : fieldValueOk x = true ↔
    (x.1 ∈ [1, 10, 11, 13, 18] → x.2 ≤ 1) ∧ (x.1 = 2 → x.2 ≤ 7) ∧ (x.1 = 3 → x.2 ≤ 3) ∧ (x.1 ∈ [4, 5, 6, 7] → x.2 ≤ 9) ∧
      (x.1 = 17 → x.2 ≤ 63 ∨ x.2 = 255) := by
  obtain ⟨code, v⟩ := x
  obtain ⟨h1, h2⟩ := hc
  dsimp only at h1 h2 ⊢
  unfold fieldValueOk
  dsimp only
  interval_cases code <;> simp
  omega

theorem fieldListOk_iff {length : Nat} {items : List (Nat × Nat)} : fieldListOk length items = true ↔ FieldList length items := by
  simp only [fieldListOk, FieldList, codesDistinct, Bool.and_eq_true, beq_iff_eq, decide_eq_true_eq, List.all_eq_true, and_assoc]
  refine and_congr_right fun _ => and_congr_right fun _ => and_congr_right fun _ => and_congr_right fun hc =>
    and_congr_right fun _ => forall₂_congr fun x hx => fieldValueOk_iff (hc x hx)

theorem streamWrite_refuses : Refuses decideStreamWrite payload (1 ≤ requestArgLength payload ∧
    FieldList (requestArgLength payload - 1) (threeByteItems ((requestArgs payload).drop 1))) True where
  bad hg _ := if_pos (by
    rw [← fieldListOk_iff, not_and_or, Nat.not_le, Nat.lt_one_iff, Bool.not_eq_true] at hg
    simpa using hg)
  held hg _ _ hh := (if_neg (by
    rw [← fieldListOk_iff] at hg
    simp only [Bool.or_eq_true, decide_eq_true_eq, Bool.not_eq_true', hg.2, Bool.true_eq_false, or_false]
    omega)).trans (if_pos hh)

theorem streamFill_refuses : Refuses decideStreamFill payload (2 ≤ requestArgLength payload ∧
    requestArg payload 0 ≤ requestArg payload 1 ∧
      FieldList (requestArgLength payload - 2) (threeByteItems ((requestArgs payload).drop 2))) True where
  bad hg _ := if_pos (by
    rw [← fieldListOk_iff] at hg
    simp only [Bool.or_eq_true, decide_eq_true_eq, Bool.not_eq_true', ← Bool.not_eq_true]
    by_contra hcon
    rw [not_or, not_or, not_not] at hcon
    exact hg ⟨by omega, by omega, hcon.2⟩)
  held hg _ _ hh := (if_neg (by
    rw [← fieldListOk_iff] at hg
    simp only [Bool.or_eq_true, decide_eq_true_eq, Bool.not_eq_true', hg.2.2, Bool.true_eq_false, or_false]
    omega)).trans (if_pos hh)

end

/-! ### STREAM STATE, whose refusals show the stream's state (R23, log 10) -/

theorem streamOfByte_toNat (x : Byte) : streamOfByte x.toNat = x.toFin := by
  show (BitVec.ofNat 8 x.toNat).toFin = _
  rw [BitVec.ofNat_toNat, BitVec.setWidth_eq]

section
variable {s : State} {payload : List Byte} {n : StreamId}

theorem decideStreamState_bad (hn : (byteAt payload 4).toFin = n)
    (h : argLengthBad payload = true ∨ requestArgLength payload ≠ 2 ∨ 3 < requestArg payload 1 ∨ requestArg payload 1 = 2) :
    decideStreamState payload s = answer .badArgument (streamStateResult (s.entry n).state 0) s := by
  have hstream : streamOfByte (requestArg payload 0) = n := (streamOfByte_toNat (byteAt payload 4)).trans hn
  unfold decideStreamState
  dsimp only
  rw [if_pos (by simpa [or_assoc] using h), hstream]
  rfl

theorem decideStreamState_good (hn : (byteAt payload 4).toFin = n) (hb : argLengthBad payload = false)
    (hl : requestArgLength payload = 2) (h3 : requestArg payload 1 ≤ 3) (h2 : requestArg payload 1 ≠ 2) :
    decideStreamState payload s =
      if s.mga.held then answerState .held n s
      else if (s.entry n).state = .draining then answerState .notReady n s
      else if !(s.entry n).checkAgrees then answerState .held n (raiseFault .tableCheck n.val s)
      else transition payload s.requester n (requestArg payload 1) s := by
  have hstream : streamOfByte (requestArg payload 0) = n := (streamOfByte_toNat (byteAt payload 4)).trans hn
  unfold decideStreamState
  dsimp only
  rw [if_neg (by simp [hb, hl, h2]; omega), hstream]

end

section
variable {s : State} {step : Instr} {r : Request} {rest : List Request} {p : PortId} {b : Nat} {bs : List Nat}

/-- An answer with an error status and a result, and no effect (R162). -/
theorem serve_refuses_with {decide : Decide} {status : Status} {result : List Byte} (h : Heads s step r rest p b bs)
    (he : status.isError = true) (hs : Silent s srcMgmtError)
    (hd : decide r.payload (granted b bs 1 .empty s) = answer status result (granted b bs 1 .empty s)) :
    serve step decide s = answered r rest p b bs status result (flagged srcMgmtError s) := by
  rw [serve_answered (t := s) h hd h.head h.reaches fun _ => hs, if_pos he]

/-- A command whose argument checks and held check are these is refused as R8 and R167 say. -/
theorem refused {decide : Decide} {good listed : Prop} (h : Serves s step r rest p b bs) (hs : Silent s srcMgmtError)
    (hk : Refuses decide r.payload good listed) (he : exec step s = .next (serve step (checked decide) s)) :
    (¬ good → exec step s = .next (answered r rest p b bs .badArgument [] (flagged srcMgmtError s))) ∧
      (good → s.mga.held = true → listed →
        exec step s = .next (answered r rest p b bs .held [] (flagged srcMgmtError s))) := by
  rw [he]
  exact ⟨fun hg => congrArg _ (serve_refuses h rfl hs fun u _ => hk.bad hg u),
    fun hg hh hl => congrArg _ (serve_refuses h rfl hs fun u hu => hk.held hg hl u (by rw [hu, hh]))⟩

/-- Settles O37: every service states its argument and held checks once (`Refuses`); STREAM STATE, whose refusals carry a result, and
RESTART, which has no held check, are apart. -/
theorem heldStationRefuses : Obligations.HeldStationRefuses := by
  intro s step r rest p b bs h hs
  have hlen := h.length
  cases step
  case streamState =>
    have hb : argLengthBad r.payload = false := hlen
    refine ⟨fun hg => congrArg _ (serve_refuses_with h.toHeads rfl hs (decideStreamState_bad rfl ?_)),
      fun ⟨hl, ht⟩ hh _ => congrArg _ (serve_refuses_with h.toHeads rfl hs ?_)⟩
    · have hg' : ¬ (requestArgLength r.payload = 2 ∧ requestArg r.payload 1 ∈ [0, 1, 3]) := hg
      simp only [List.mem_cons, List.not_mem_nil, or_false] at hg'
      refine .inr ?_
      omega
    · have ht' : requestArg r.payload 1 ∈ [0, 1, 3] := ht
      simp only [List.mem_cons, List.not_mem_nil, or_false] at ht'
      exact (decideStreamState_good rfl hb hl (by omega) (by omega)).trans (if_pos hh)
  case restart =>
    refine ⟨fun hg => ?_, fun _ _ hl => by simp at hl⟩
    rw [execRestart_refuses h fun h0 => hg (congrArg BitVec.toNat h0)]
    exact congrArg _ (serve_refuses_with h.toHeads rfl hs rfl)
  case echo => exact (refused h hs (echo_refuses hlen) rfl).imp id fun k hg hh hl => k hg hh (by simp at hl)
  case streamRead => exact (refused h hs streamRead_refuses rfl).imp id fun k hg hh hl => k hg hh (by simp at hl)
  case contextRead => exact (refused h hs contextRead_refuses rfl).imp id fun k hg hh hl => k hg hh (by simp at hl)
  case laneRead => exact (refused h hs laneRead_refuses rfl).imp id fun k hg hh hl => k hg hh (by simp at hl)
  case eventRead => exact (refused h hs eventRead_refuses rfl).imp id fun k hg hh hl => k hg hh (by simp at hl)
  case exportRead => exact (refused h hs exportRead_refuses rfl).imp id fun k hg hh hl => k hg hh (by simp at hl)
  case stationRead => exact (refused h hs stationRead_refuses_length rfl).imp id fun k hg hh hl => k hg hh (by simp at hl)
  case counterRead =>
    obtain ⟨h1, h2⟩ := refused h hs counterRead_refuses rfl
    exact ⟨h1, fun hg hh hl => h2 hg hh (by simpa using hl)⟩
  case streamWrite => exact (refused h hs streamWrite_refuses rfl).imp id fun k hg hh _ => k hg hh trivial
  case streamFill => exact (refused h hs streamFill_refuses rfl).imp id fun k hg hh _ => k hg hh trivial
  case counterClear => exact (refused h hs counterClear_refuses rfl).imp id fun k hg hh _ => k hg hh trivial
  case postureSet => exact (refused h hs postureSet_refuses rfl).imp id fun k hg hh _ => k hg hh trivial
  case strikeTest => exact (refused h hs strikeTest_refuses rfl).imp id fun k hg hh _ => k hg hh trivial
  case eventClear => exact (refused h hs eventClear_refuses rfl).imp id fun k hg hh _ => k hg hh trivial
  case eventLevels => exact (refused h hs eventLevels_refuses rfl).imp id fun k hg hh _ => k hg hh trivial
  case floorSet => exact (refused h hs floorSet_refuses rfl).imp id fun k hg hh _ => k hg hh trivial
  case exportSet => exact (refused h hs exportSet_refuses rfl).imp id fun k hg hh _ => k hg hh trivial
  case exportStart => exact (refused h hs exportStart_refuses rfl).imp id fun k hg hh _ => k hg hh trivial
  case stationWrite => exact (refused h hs stationWrite_refuses rfl).imp id fun k hg hh _ => k hg hh trivial
  all_goals exact ⟨fun hg => absurd trivial hg, fun _ _ hl => by simp at hl⟩

end

end Sys2Proof.Machine
end

section
/-! PROOF SUPPORT. What one firing does when it sends a cell or is taken by a channel: the cell of a notice or an EXPORT in a buffer of
its own at the tail of the controller port's FIFO (R137, R151, R156, R157). -/

namespace Sys2Proof.Machine

open Safety

variable {s : State} {p : PortId} {b : Nat} {bs : List Nat} {raise : Raise}

/-- A control cell in buffer `b`, just allocated, at the tail of the FIFO of `p` (R9, R136). -/
def sent (p : PortId) (b : Nat) (bs : List Nat) (cell : Cell) (s : State) : State :=
  (granted b bs 1 cell s).setEgress p (s.egress p ++ [.control b])

theorem allocate_granted {threshold : Nat} (h : Grants s threshold b bs) (refs : Nat) (cell : Cell) :
    s.allocate threshold refs cell = some (b, granted b bs refs cell s) :=
  State.allocate_eq_some.2 ⟨bs, h.above, h.free, rfl⟩

theorem allocate_none (h : s.bfm.freeCount = 0) (cell : Cell) : s.allocate 0 1 cell = none := by
  simp [State.allocate, h]

theorem reachablePort_reaches (h : Reaches s p) : s.reachablePort = some p := by
  simp [State.reachablePort, h.port, h.present]

theorem controllerRouteWith_reaches (h : Reaches s p) (letGo : LetGo) (fromLane : Bool) (b : Nat) :
    controllerRouteWith raise letGo fromLane b s = s.setEgress p (s.egress p ++ [.control b]) := by
  simp [controllerRouteWith, reachablePort_reaches h, offerControlWith, Config.egressDepth, h.room]

theorem routeReady_reaches (h : Reaches s p) : s.routeReady = true := by
  simp [State.routeReady, reachablePort_reaches h, Config.egressDepth, h.room]

theorem raiseIfLow_above {before : State} (h : before.bfm.freeCount ≠ 512) (s : State) : raiseIfLow raise before s = s := if_neg h

theorem countWith_calm {q : CounterRef} (h : (s.counter q).atHalf = false) : countWith raise q s = bump q s :=
  if_neg (by rw [h]; decide)

/-! ### Notices -/

theorem sendNoticeWith_sends (hr : s.restarting = false) (hp : Reaches s p) (hb : Grants s 0 b bs)
    (hc : Calm s [.station StationCounter.notices.id]) :
    sendNoticeWith raise s = bump (.station StationCounter.notices.id)
      (sent p b bs (controllerCell .notice s.mga.station s.noticePayload) s) := by
  have hroute := controllerRouteWith_reaches (raise := raise)
    (s := granted b bs 1 (controllerCell .notice s.mga.station s.noticePayload) s) ⟨hp.port, hp.present, hp.room⟩ dropFresh false b
  unfold sendNoticeWith
  rw [if_neg (by rw [hr]; decide), allocate_granted hb]
  dsimp only
  rw [raiseIfLow_above hb.notLow, hroute]
  exact countWith_calm (s := sent p b bs (controllerCell .notice s.mga.station s.noticePayload) s) (hc _ (List.mem_singleton_self _))

theorem sendNotice_undelivered (hr : s.restarting = false) (hb : s.bfm.freeCount = 0) :
    sendNoticeWith raise s = undeliverableWith raise s := by
  unfold sendNoticeWith
  rw [if_neg (by rw [hr]; decide), allocate_none hb]

/-! ### Export channels -/

/-- The cell of a channel's next EXPORT (R157). -/
def State.exportCell (s : State) (ch : ChannelId) : Cell :=
  controllerCell .exportCell s.mga.station (exportPayload ch (s.channel ch) ((s.channel ch).number + 1) (s.blockOf (s.channel ch)))

/-- The channel with the number of its next EXPORT (R157, step 3). -/
def Channel.numbered (x : Channel) : Channel := { x with number := x.number + 1 }

/-- A channel's EXPORT sent, with what it leaves of the channel (R157). -/
def exported (p : PortId) (b : Nat) (bs : List Nat) (ch : ChannelId) (s : State) : State :=
  (sent p b bs (s.exportCell ch) s).setChannel ch (s.channel ch).numbered.afterExport

/-- With no firing pending, no route or no buffer, an attempt changes nothing (R157). -/
theorem exportAttempt_idle {ch : ChannelId} (h : (s.channel ch).firing = false ∨ s.routeReady = false ∨ s.bfm.freeCount = 0) :
    exportAttemptWith raise ch s = s := by
  unfold exportAttemptWith
  dsimp only
  split
  · next hgo =>
    simp only [Bool.and_eq_true] at hgo
    have h0 : s.bfm.freeCount = 0 := by simpa [hgo.1.1, hgo.1.2] using h
    rw [allocate_none h0]
  · rfl

theorem put_put {α : Type} {n : Nat} (xs : Bank n α) (i : Fin n) (x y : α) : (xs.put i x).put i y = xs.put i y := by
  simp [Bank.put]

theorem put_look {α : Type} {n : Nat} (xs : Bank n α) (i : Fin n) : xs.put i (xs.look i) = xs := by
  simp [Bank.put, Bank.look]

theorem setChannel_setChannel (s : State) (ch : ChannelId) (x y : Channel) :
    (s.setChannel ch x).setChannel ch y = s.setChannel ch y := by
  simp only [State.setChannel, put_put]

theorem exportAttempt_sends {ch : ChannelId} (hr : s.restarting = false) (hf : (s.channel ch).firing = true) (hp : Reaches s p)
    (hb : Grants s 0 b bs) :
    exportAttemptWith raise ch s =
      if (s.channel ch).remaining - 1 = 0 then raise (srcExportDone ch) .none (exported p b bs ch s) else exported p b bs ch s := by
  have hreach : Reaches ((granted b bs 1 (s.exportCell ch) s).setChannel ch (s.channel ch).numbered) p :=
    ⟨hp.port, hp.present, hp.room⟩
  have hroute : controllerRouteWith raise dropFresh false b
      (((granted b bs 1 .empty s).setChannel ch (s.channel ch).numbered).storeCell b (s.exportCell ch)) =
        (sent p b bs (s.exportCell ch) s).setChannel ch (s.channel ch).numbered :=
    (congrArg (fun v => controllerRouteWith raise dropFresh false b (v.setChannel ch (s.channel ch).numbered))
      (granted_storeCell b bs .empty (s.exportCell ch) s)).trans (controllerRouteWith_reaches hreach dropFresh false b)
  have hdone (v : State) (hv : v = (sent p b bs (s.exportCell ch) s).setChannel ch (s.channel ch).numbered) :
      v.setChannel ch (v.channel ch).afterExport = exported p b bs ch s := by
    rw [hv, State.channel_setChannel_self, setChannel_setChannel]
    rfl
  unfold exportAttemptWith
  dsimp only
  rw [if_pos (by rw [hf, routeReady_reaches hp, hr]; rfl), allocate_granted hb]
  dsimp only
  rw [raiseIfLow_above hb.notLow]
  exact congrArg (fun v => if (s.channel ch).remaining - 1 = 0 then raise (srcExportDone ch) .none v else v) (hdone _ hroute)

theorem afterExport_more {x : Channel} (h : 2 ≤ x.remaining) : x.afterExport =
    { x with firing := false, first := if x.walk then (x.first + x.items) % x.kind.total else x.first,
             remaining := x.remaining - 1 } := by
  simp only [Channel.afterExport, if_neg (show ¬ x.remaining - 1 = 0 by omega)]

theorem afterExport_last {x : Channel} (h : x.remaining = 1) : x.afterExport =
    { x with firing := false, first := if x.walk then (x.first + x.items) % x.kind.total else x.first,
             remaining := 1, bound := none } := by
  simp only [Channel.afterExport, if_pos (show x.remaining - 1 = 0 by omega)]

theorem exported_more (p : PortId) (b : Nat) (bs : List Nat) {ch : ChannelId} (h : 2 ≤ (s.channel ch).remaining) :
    exported p b bs ch s = (sent p b bs (s.exportCell ch) s).setChannel ch
      { s.channel ch with
        firing := false, number := (s.channel ch).number + 1, remaining := (s.channel ch).remaining - 1
        first := if (s.channel ch).walk then ((s.channel ch).first + (s.channel ch).items) % (s.channel ch).kind.total
          else (s.channel ch).first } :=
  congrArg ((sent p b bs (s.exportCell ch) s).setChannel ch)
    (afterExport_more (x := (s.channel ch).numbered) h)

theorem takerOf_eq_none {src : Source} (h : src ≠ srcFault) :
    s.takerOf src = none ↔ ∀ c, (s.channel c).bound ≠ some (.source src) := by
  rw [State.takerOf, if_neg h, List.find?_eq_none]
  simp [List.mem_finRange]

/-- Unbinding a channel leaves a silent source silent. -/
theorem silent_setChannel {src : Source} (h : Silent s src) (ch : ChannelId) (x : Channel) (hx : x.bound ≠ some (.source src)) :
    Silent (s.setChannel ch x) src := by
  refine ⟨h.notFault, (takerOf_eq_none h.notFault).2 fun c => ?_, h.quiet⟩
  rw [State.channel_setChannel]
  split
  · exact hx
  · exact (takerOf_eq_none h.notFault).1 h.unbound c

/-- Settles O33. -/
theorem exportServed : Obligations.ExportServed := by
  intro s ch hr
  refine ⟨fun h => congrArg _ (exportAttempt_idle h), fun p b bs hf hp hb => ⟨fun h2 => ?_, fun h1 hs => ?_⟩⟩
  · exact congrArg _ ((exportAttempt_sends hr hf hp hb).trans ((if_neg (by omega)).trans (exported_more p b bs h2)))
  · have h1' : (s.channel ch).numbered.remaining = 1 := h1
    refine congrArg _ ((exportAttempt_sends hr hf hp hb).trans ((if_pos (by omega)).trans ?_))
    rw [exported, afterExport_last h1']
    exact fire_flagged (silent_setChannel (s := sent p b bs (s.exportCell ch) s) ⟨hs.notFault, hs.unbound, hs.quiet⟩ ch _
      (Option.some_ne_none _).symm)

end Sys2Proof.Machine
end

section
/-! PROOF SUPPORT. A service that takes a second buffer, for a notice or an EXPORT, ahead of its response; EXPORT START (R156, R162). -/

namespace Sys2Proof.Machine

open Safety

/-- A write leaves the other buffers, whatever the list. -/
theorem read_write_ne (p : Pool) {a b : Nat} (x : Buffer) (h : a ≠ b) : Pool.read (Pool.write p b x) a = Pool.read p a := by
  induction p with
  | nil =>
    unfold Pool.write
    split <;> simp [Pool.read, h.symm]
  | cons e rest ih =>
    obtain ⟨j, y⟩ := e
    unfold Pool.write
    split_ifs with h1 h2 h3 h4
    · rfl
    · simp [Pool.read, h.symm]
    · simp [Pool.read, ← h3, h.symm]
    · simp [Pool.read, ← h3, h.symm]
    · simp only [Pool.read, ih]

theorem buffer_granted_ne {a b : Nat} (h : a ≠ b) (bs : List Nat) (refs : Nat) (cell : Cell) (s : State) :
    (granted b bs refs cell s).buffer a = s.buffer a :=
  read_write_ne _ _ h

theorem buffer_returned_ne {a b : Nat} (h : a ≠ b) (s : State) : (returned b s).buffer a = s.buffer a :=
  read_write_ne _ _ h

theorem buffer_storeCell_ne {a b : Nat} (h : a ≠ b) (cell : Cell) (s : State) : (s.storeCell b cell).buffer a = s.buffer a :=
  read_write_ne _ _ h

theorem buffer_storeCell_self {s : State} {b : Nat} (hb : (s.buffer b).refs ≠ 0) (cell : Cell) :
    ((s.storeCell b cell).buffer b).cell = cell := by
  have hread : (s.storeCell b cell).buffer b = { s.buffer b with cell := cell, checkAgrees := true } :=
    Pool.read_write_self_of_ne _ _ (Buffer.ne_unlisted_of_refs hb)
  rw [hread]

section
variable {s u : State} {step : Instr} {decide : Decide} {r : Request} {rest : List Request} {p : PortId} {b b2 : Nat}
  {bs cs : List Nat} {result : List Byte}

/-- The response of a command built in its buffer and at the tail of the port's FIFO of the state that the command leaves (R162). -/
theorem serve_ok (h : Serves s step r rest p b bs)
    (hd : decide r.payload (granted b bs 1 .empty s) = answer .ok result u) (hmga : u.mga = s.mga) (hpins : u.pins = s.pins)
    (hroom : (u.egress p).length < 512) :
    serve step (checked decide) s =
      ((u.storeCell b (responseCell s.mga.station r.source (requestTag r.payload) (requestCommand r.payload) .ok result)).setEgress p
        (u.egress p ++ [.control b])).setMga { s.mga with requests := rest, serviceDue := true } := by
  have hroute (cell : Cell) : routeResponse controllerAddress b (u.storeCell b cell) =
      (u.storeCell b cell).setEgress p (u.egress p ++ [.control b]) :=
    routeResponse_port (s := u.storeCell b cell) ((congrArg (fun x => x.settings.controllerPort) hmga).trans h.reaches.port)
      ((congrArg (fun x : Pins => x.present.look p) hpins).trans h.reaches.present) hroom b
  have hconclude : conclude b r (answer .ok result u) = removeRequest (routeResponse r.source b (u.storeCell b
      (responseCell u.mga.station r.source (requestTag r.payload) (requestCommand r.payload) .ok result))) := rfl
  rw [serve_concludes h, hd, hconclude, h.source, hroute, removeRequest, hmga]
  simp only [State.setEgress_mga, State.storeCell, State.setBuffer_mga, hmga, h.head, List.tail_cons]

/-- A second control-class buffer behind the service's own (R9). -/
theorem grants_second {s : State} {b b2 : Nat} {cs : List Nat} (h1 : 1 < s.bfm.freeCount) (h513 : s.bfm.freeCount ≠ 513) :
    Grants (granted b (b2 :: cs) 1 .empty s) 0 b2 cs where
  free := rfl
  above := Nat.sub_pos_of_lt h1
  notLow := by
    show s.bfm.freeCount - 1 ≠ 512
    omega

/-- A command that sends a cell of its own to the controller's port in a second buffer: its cell stands ahead of the response. -/
theorem serve_sends {cell : Cell} (h : Serves s step r rest p b (b2 :: cs)) (hne : b ≠ b2) (hroom : (s.egress p).length < 511)
    (hd : decide r.payload (granted b (b2 :: cs) 1 .empty s) = answer .ok result u)
    (hbfm : u.bfm = (sent p b2 cs cell (granted b (b2 :: cs) 1 .empty s)).bfm)
    (hdlv : u.dlv = (sent p b2 cs cell (granted b (b2 :: cs) 1 .empty s)).dlv) (hmga : u.mga = s.mga) (hpins : u.pins = s.pins) :
    ∃ t, serve step (checked decide) s = t ∧ t.egress p = s.egress p ++ [.control b2, .control b] ∧ t.bfm.free = cs ∧
      t.bfm.freeCount = s.bfm.freeCount - 2 ∧ (t.buffer b2).cell = cell ∧
      (t.buffer b).cell = responseCell s.mga.station r.source (requestTag r.payload) (requestCommand r.payload) .ok result ∧
      t.cnt = u.cnt ∧ t.evu = u.evu ∧ t.mga.requests = rest := by
  have hegress : u.egress p = s.egress p ++ [.control b2] :=
    (congrArg (fun x : DeliveryUnit => x.egress.look p) hdlv).trans (State.egress_setEgress_self ..)
  have hbuf (a : Nat) : u.buffer a = (granted b2 cs 1 cell (granted b (b2 :: cs) 1 .empty s)).buffer a :=
    congrArg (fun x : BufferManager => Pool.read x.pool a) hbfm
  have hown : u.buffer b = { refs := 1, cell := .empty, checkAgrees := true } :=
    ((hbuf b).trans (buffer_granted_ne hne cs 1 _ _)).trans (buffer_granted b (b2 :: cs) (by decide) .empty s)
  have hsecond : u.buffer b2 = { refs := 1, cell := cell, checkAgrees := true } :=
    (hbuf b2).trans (buffer_granted b2 cs (by decide) cell _)
  have hrefs : (u.buffer b).refs ≠ 0 := by rw [hown]; decide
  refine ⟨_, serve_ok h hd hmga hpins ?_, ?_, ?_, ?_, ?_, buffer_storeCell_self hrefs _, rfl, rfl, rfl⟩
  · rw [hegress, List.length_append, List.length_singleton]
    omega
  · refine (State.egress_setEgress_self ..).trans ?_
    rw [hegress, List.append_assoc]
    rfl
  · exact congrArg BufferManager.free hbfm
  · exact congrArg BufferManager.freeCount hbfm
  · exact (congrArg Buffer.cell (buffer_storeCell_ne hne.symm _ _)).trans (congrArg Buffer.cell hsecond)

end

theorem not_restarting {s : State} {step : Instr} {r : Request} {rest : List Request} {p : PortId} {b : Nat} {bs : List Nat}
    (h : Heads s step r rest p b bs) : s.restarting = false := by
  simp [State.restarting, h.idle]

theorem takeFiring_pending {raise : Raise} {s : State} {ch : ChannelId} (hf : (s.channel ch).firing = true)
    (hc : Calm s [.station StationCounter.exportOverrun.id]) :
    takeFiringWith raise ch s = bump (.station StationCounter.exportOverrun.id) s := by
  unfold takeFiringWith
  exact (if_pos hf).trans (countWith_calm (hc _ (List.mem_singleton_self _)))

theorem decideExportStart_starts {s : State} {payload : List Byte} {ch : ChannelId} (hl : byteAt payload 3 = 1)
    (hch : byteAt payload 4 = byte ch.val) (hh : s.mga.held = false) :
    decideExportStart payload s =
      if (s.channel ch).bound = some .manual then answer .ok [1] (takeFiringWith fire ch s) else answer .ok [0] s := by
  have harg : requestArg payload 0 = ch.val := (congrArg BitVec.toNat hch).trans (Nat.mod_eq_of_lt (by have := ch.isLt; omega))
  have hlen : requestArgLength payload = 1 := congrArg BitVec.toNat hl
  unfold decideExportStart
  rw [harg, channelOfByte_val]
  exact (if_neg (not_not.mpr hlen)).trans (if_neg (by rw [hh]; decide))

/-- The channel with a firing pending (R156). -/
def Channel.fired (x : Channel) : Channel := { x with firing := true }

theorem takeFiring_fresh {raise : Raise} {s : State} {ch : ChannelId} (hf : (s.channel ch).firing = false) :
    takeFiringWith raise ch s = exportAttemptWith raise ch (s.setChannel ch (s.channel ch).fired) := by
  unfold takeFiringWith
  exact if_neg (by rw [hf]; decide)

theorem takeFiring_idle {raise : Raise} {s : State} {ch : ChannelId} (hf : (s.channel ch).firing = false)
    (h : s.routeReady = false ∨ s.bfm.freeCount = 0) :
    takeFiringWith raise ch s = s.setChannel ch (s.channel ch).fired :=
  (takeFiring_fresh hf).trans (exportAttempt_idle (.inr h))

/-- A fresh firing that finds route and buffer sends its cell at once (R156, R157). -/
theorem takeFiring_sends {raise : Raise} {s : State} {ch : ChannelId} {p : PortId} {b : Nat} {bs : List Nat}
    (hr : s.restarting = false) (hf : (s.channel ch).firing = false) (hp : Reaches s p) (hb : Grants s 0 b bs)
    (hm : 2 ≤ (s.channel ch).remaining) :
    takeFiringWith raise ch s = (sent p b bs (s.exportCell ch) s).setChannel ch
      { s.channel ch with
        number := (s.channel ch).number + 1, remaining := (s.channel ch).remaining - 1
        first := if (s.channel ch).walk then ((s.channel ch).first + (s.channel ch).items) % (s.channel ch).kind.total
          else (s.channel ch).first } := by
  have hlook : (s.setChannel ch (s.channel ch).fired).channel ch = (s.channel ch).fired := State.channel_setChannel_self ..
  have hcell : (s.setChannel ch (s.channel ch).fired).exportCell ch = s.exportCell ch := by
    rw [State.exportCell, hlook]
    rfl
  have hsends := exportAttempt_sends (s := s.setChannel ch (s.channel ch).fired) (raise := raise) (ch := ch) hr
    (congrArg Channel.firing hlook) ⟨hp.port, hp.present, hp.room⟩ ⟨hb.free, hb.above, hb.notLow⟩
  rw [hlook, if_neg (by show ¬ (s.channel ch).remaining - 1 = 0; omega), exported_more p b bs (by rw [hlook]; exact hm),
    hlook, hcell] at hsends
  rw [takeFiring_fresh hf, hsends, ← hf]
  exact setChannel_setChannel (sent p b bs (s.exportCell ch) s) ch _ _

/-- Settles O51. -/
theorem exportStartFires : Obligations.ExportStartFires := by
  intro s r rest p b bs ch h hh hl hch x
  have hdecide := decideExportStart_starts (s := granted b bs 1 .empty s) hl hch hh
  refine ⟨fun hb => ?_, fun hb hf hc => ?_, fun hb hf h1 => ?_, fun b2 cs hb hf hbs hne hm h513 h1 hroom => ?_⟩
  · exact congrArg _ (serve_succeeds (t := s) h rfl rfl rfl (hdecide.trans (if_neg hb)))
  · refine congrArg _ (serve_succeeds (t := bump (.station StationCounter.exportOverrun.id) s) h rfl rfl rfl
      (hdecide.trans ((if_pos hb).trans ?_)))
    rw [takeFiring_pending (by exact hf) (by exact hc), bump, bump, setCounter_granted]
    rfl
  · refine congrArg _ (serve_succeeds (t := s.setChannel ch x.fired) h rfl rfl rfl
      (hdecide.trans ((if_pos hb).trans ?_)))
    have h0 : (granted b bs 1 .empty s).bfm.freeCount = 0 := congrArg (· - 1) h1
    rw [takeFiring_idle (by exact hf) (.inr h0)]
    rfl
  · subst hbs
    have hsends := takeFiring_sends (s := granted b (b2 :: cs) 1 .empty s) (raise := fire) (ch := ch) (p := p) (b := b2) (bs := cs)
      (not_restarting (s := s) h.toHeads) hf ⟨h.reaches.port, h.reaches.present, h.reaches.room⟩ (grants_second h1 h513) hm
    obtain ⟨t, ht, hegress, hfree, -, hb2, -, hcnt, hevu, hrest⟩ := serve_sends (cell := s.exportCell ch) h hne hroom
      (hdecide.trans ((if_pos hb).trans (congrArg _ hsends))) rfl rfl rfl rfl
    refine ⟨t, congrArg _ ht, hegress, hfree, ?_, congrArg Cell.payload hb2, hcnt, (by rw [hevu]; rfl), hrest⟩
    exact (congrArg (fun e : EventUnit => e.channels.look ch) hevu).trans (State.channel_setChannel_self ..)

end Sys2Proof.Machine
end

section
/-! PROOF SUPPORT. The highest pending source, the floor test and its notice; FLOOR SET and EVENT LEVELS (R151, R152, R154). -/

namespace Sys2Proof.Machine

open Safety

/-! ### The highest pending source -/

/-- The source chosen is one of those gone through, and pending. -/
theorem foldl_higherSource_mem (s : State) (is : List Source) (best : Option Source) {top : Source}
    (h : is.foldl s.higherSource best = some top) : best = some top ∨ (top ∈ is ∧ (s.source top).flag = true) := by
  induction is generalizing best with
  | nil => exact .inl h
  | cons i rest ih =>
    rcases ih _ h with hb | ⟨hm, hf⟩
    · unfold State.higherSource at hb
      split at hb
      · next hf =>
        have hi : i = top → top ∈ i :: rest ∧ (s.source top).flag = true := fun e => e ▸ ⟨List.mem_cons_self, hf⟩
        cases best with
        | none => exact .inr (hi (Option.some.inj hb))
        | some j =>
          dsimp only at hb
          split at hb
          · exact .inr (hi (Option.some.inj hb))
          · exact .inl hb
      · exact .inl hb
    · exact .inr ⟨List.mem_cons_of_mem _ hm, hf⟩

theorem mem_of_highestOf {s : State} {is : List Source} {top : Source} (h : s.highestOf is = some top) :
    top ∈ is ∧ (s.source top).flag = true := (foldl_higherSource_mem s is none h).resolve_left nofun

/-- The one pending source above all others, the lower numbers counting as above at the same level, is the highest. -/
theorem highestOf_eq {s : State} {is : List Source} {i : Source} (hs : is.Pairwise (· < ·)) (hi : i ∈ is)
    (hf : (s.source i).flag = true)
    (h : ∀ j ∈ is, j ≠ i → (s.source j).flag = true →
      (s.source j).level < (s.source i).level ∨ ((s.source j).level = (s.source i).level ∧ i < j)) :
    s.highestOf is = some i := by
  obtain ⟨before, after, rfl⟩ := List.append_of_mem hi
  obtain ⟨-, hafter, hcross⟩ := List.pairwise_append.1 hs
  have hchosen : s.higherSource (before.foldl s.higherSource none) i = some i := by
    have hstep (best : Option Source) : s.higherSource best i = match best with
        | none => some i
        | some j => if (s.source j).level < (s.source i).level then some i else some j := if_pos hf
    rw [hstep]
    cases hb : before.foldl s.higherSource none with
    | none => rfl
    | some j =>
      obtain ⟨hj, hjf⟩ := (foldl_higherSource_mem s before none hb).resolve_left nofun
      have hlt : j < i := hcross j hj i List.mem_cons_self
      have hlevel := (h j (List.mem_append_left _ hj) (ne_of_lt hlt) hjf).resolve_right fun k => lt_asymm hlt k.2
      exact if_pos hlevel
  have hstays (rest : List Source) (hr : ∀ j ∈ rest, (s.source j).flag = true → (s.source j).level ≤ (s.source i).level) :
      rest.foldl s.higherSource (some i) = some i := by
    induction rest with
    | nil => rfl
    | cons j rest ih =>
      have hstep : s.higherSource (some i) j = some i := by
        unfold State.higherSource
        split
        · next hjf => exact if_neg (Nat.not_lt.mpr (hr j List.mem_cons_self hjf))
        · rfl
      rw [List.foldl_cons, hstep, ih fun k hk => hr k (List.mem_cons_of_mem _ hk)]
  rw [State.highestOf, List.foldl_append, List.foldl_cons, hchosen]
  refine hstays after fun j hj hjf => ?_
  have hlt : i < j := (List.pairwise_cons.1 hafter).1 j hj
  rcases h j (List.mem_append_right _ (List.mem_cons_of_mem _ hj)) (ne_of_gt hlt) hjf with hl | ⟨hl, -⟩
  · exact Nat.le_of_lt hl
  · exact Nat.le_of_eq hl

/-! ### The floor test (R154) -/

theorem floorTest_quiet {s : State} (h : FloorCovers s) : floorTest s = s := by
  unfold floorTest
  split
  · rfl
  · next top ht =>
    obtain ⟨hm, hf⟩ := mem_of_highestOf ht
    have hn : top ≠ srcFault := by simpa using (List.mem_filter.1 hm).2
    exact if_neg (Nat.not_lt.mpr (h top hn hf))

/-- After the floor test the pending sources are covered, whatever they were before. -/
theorem floorTest_covers (s : State) : FloorCovers (floorTest s) :=
  (floorTest_keeps (s := { s with evu := State.reset.evu }) rfl).floor (powerOn_floor 0 .reset [] 0 [])

theorem floorTest_raises {s : State} {i : Source} (hi : i ≠ srcFault) (hf : (s.source i).flag = true)
    (hl : s.evu.floor < (s.source i).level)
    (h : ∀ j, j ≠ i → (s.source j).flag = true →
      (s.source j).level < (s.source i).level ∨ ((s.source j).level = (s.source i).level ∧ i < j)) :
    floorTest s = sendNotice (s.setFloor (s.source i).level) := by
  have htop : s.highestOf (sourceIds.filter (fun i => i != srcFault)) = some i :=
    highestOf_eq ((List.pairwise_lt_finRange 23).filter _) (by simp [sourceIds, hi]) hf fun j _ => h j
  rw [floorTest, htop]
  exact if_pos hl

/-- The floor only rises. -/
def FloorRises (s t : State) : Prop := s.evu.floor ≤ t.evu.floor

theorem FloorRises.of_eq {s t : State} (h : t.evu.floor = s.evu.floor) : FloorRises s t := Nat.le_of_eq h.symm

theorem floorRises_closed : HoldClosed FloorRises where
  refl _ := .of_eq rfl
  trans := Nat.le_trans
  bfm _ _ := .of_eq rfl
  counter _ r _ := .of_eq (by cases r <;> rfl)
  source _ _ _ _ := .of_eq rfl
  floor _ _ h := h
  channel _ _ _ := .of_eq rfl
  joinPort _ _ _ _ _ := .of_eq rfl
  joinLane _ _ _ _ := .of_eq rfl
  load _ _ _ := .of_eq rfl
  record _ _ _ _ := .of_eq rfl
  further _ _ := .of_eq rfl
  suspend _ _ _ := .of_eq rfl
  flush _ _ _ := .of_eq rfl
  subQueued _ _ := .of_eq rfl
  window _ _ _ := .of_eq rfl
  purge _ _ := .of_eq rfl

theorem floorTest_rises (s : State) : FloorRises s (floorTest s) := by
  unfold floorTest
  split
  · exact .of_eq rfl
  · split
    · next hlt => exact Nat.le_trans (Nat.le_of_lt hlt) (floorRises_closed.sendNotice (s.setFloor (s.source _).level))
    · exact .of_eq rfl

/-- A command that ends in the floor test leaves the pending sources covered, whatever its response brings about. -/
theorem serve_floorTest {s t : State} {step : Instr} {decide : Decide} {r : Request} {rest : List Request} {p : PortId} {b : Nat}
    {bs : List Nat} {result : List Byte} (h : Serves s step r rest p b bs) (ht : OnlyEvents s t)
    (hd : decide r.payload (granted b bs 1 .empty s) = answer .ok result (floorTest t)) :
    ∃ u, serve step (checked decide) s = u ∧ FloorCovers u ∧ t.evu.floor ≤ u.evu.floor ∧ u.lrx = s.lrx ∧ u.psc = s.psc := by
  obtain ⟨v, hv, honly, hrel⟩ := conclude_ok b r (floorTest t) result
  have hkeeps := conclude_keeps b r (answer .ok result (floorTest t))
  rw [← hd, ← serve_concludes h] at hv hkeeps
  have hfloor : (serve step (checked decide) s).evu = v.evu := by rw [hv]; rfl
  have hrest := ht.trans (floorTest_only t)
  refine ⟨_, rfl, hkeeps.floor ?_, ?_, ?_, ?_⟩
  · rw [hd]
    exact floorTest_covers t
  · rw [hfloor]
    exact Nat.le_trans (floorTest_rises t) (hrel _ floorRises_closed)
  · rw [hv]
    exact honly.lrx.trans hrest.lrx
  · rw [hv]
    exact honly.psc.trans hrest.psc

/-! ### The levels that a list of pairs names (R154) -/

/-- The level of source `i` after EVENT LEVELS. -/
def namedLevel (pairs : List (Nat × Nat)) (s : State) (i : Source) : Nat :=
  if i = srcFault then (s.source i).level else ((pairs.lookup i.val).map (fun v => min v 6)).getD (s.source i).level

theorem source_setLevel (pairs : List (Nat × Nat)) (s : State) (i j : Source) : (setLevel pairs s i).source j =
    if j = i then { s.source i with level := namedLevel pairs s i } else s.source j := by
  unfold setLevel namedLevel itemValue
  cases pairs.lookup i.val with
  | none => split_ifs <;> simp_all
  | some level =>
    dsimp only
    split_ifs with hf hj hj
    · rw [hj]
    · rfl
    · rw [State.source_setSource, if_pos hj]
      rfl
    · rw [State.source_setSource, if_neg hj]

theorem source_foldl_setLevel (pairs : List (Nat × Nat)) {is : List Source} (hn : is.Nodup) (s : State) (j : Source) :
    (is.foldl (setLevel pairs) s).source j = if j ∈ is then { s.source j with level := namedLevel pairs s j } else s.source j := by
  induction is generalizing s with
  | nil => simp
  | cons i rest ih =>
    obtain ⟨hi, hn⟩ := List.nodup_cons.1 hn
    rw [List.foldl_cons, ih hn, source_setLevel]
    by_cases hj : j = i
    · subst hj
      simp [hi]
    · have hsame : namedLevel pairs (setLevel pairs s i) j = namedLevel pairs s j := by
        simp only [namedLevel, source_setLevel, if_neg hj]
      simp [hj, hsame]

/-- The state with the named levels written. -/
def levelled (pairs : List (Nat × Nat)) (s : State) : State := sourceIds.foldl (setLevel pairs) s

theorem source_levelled (pairs : List (Nat × Nat)) (s : State) (j : Source) :
    (levelled pairs s).source j = { s.source j with level := namedLevel pairs s j } :=
  (source_foldl_setLevel pairs (List.nodup_finRange 23) s j).trans (if_pos (List.mem_finRange j))

theorem setLevel_granted (pairs : List (Nat × Nat)) (b : Nat) (bs : List Nat) (cell : Cell) (s : State) (i : Source) :
    setLevel pairs (granted b bs 1 cell s) i = granted b bs 1 cell (setLevel pairs s i) := by
  unfold setLevel
  split
  · split <;> rfl
  · rfl

theorem levelled_granted (pairs : List (Nat × Nat)) (b : Nat) (bs : List Nat) (cell : Cell) (s : State) :
    levelled pairs (granted b bs 1 cell s) = granted b bs 1 cell (levelled pairs s) := by
  unfold levelled
  induction sourceIds generalizing s with
  | nil => rfl
  | cons i rest ih => rw [List.foldl_cons, List.foldl_cons, setLevel_granted, ih]

theorem levelled_only (pairs : List (Nat × Nat)) (s : State) : OnlySources s (levelled pairs s) := foldl_setLevel_only ..

/-! ### The notice of a floor test (R152) -/

theorem detailBytes_congr {s t : State} (h : ∀ i, (t.source i).flag = (s.source i).flag ∧ (t.source i).detail = (s.source i).detail) :
    t.detailBytes = s.detailBytes := by
  have hd (i : Source) : t.detailOf i = s.detailOf i := by
    obtain ⟨hf, he⟩ := h i
    rw [State.detailOf, State.detailOf, hf, he]
  simp only [State.detailBytes, hd]

theorem noticePayload_eq {s : State} {i : Source} (hf : (s.source i).flag = true)
    (h : ∀ j, j ≠ i → (s.source j).flag = true →
      (s.source j).level < (s.source i).level ∨ ((s.source j).level = (s.source i).level ∧ i < j)) :
    s.noticePayload = [byte i.val, byte (s.source i).level] ++
      be24 ((List.finRange 23).map (fun j => if (s.source j).flag then 2 ^ j.val else 0)).sum ++ [byte s.evu.floor] ++
        s.detailBytes := by
  have htop : s.highestOf sourceIds = some i :=
    highestOf_eq (List.pairwise_lt_finRange 23) (List.mem_finRange i) hf fun j _ => h j
  rw [State.noticePayload, htop]
  rfl

theorem nat16At_lt (payload : List Byte) (i : Nat) : nat16At payload i < 65536 := by
  have h1 := (byteAt payload i).isLt
  have h2 := (byteAt payload (i + 1)).isLt
  unfold nat16At
  omega

theorem requestTag_toNat (payload : List Byte) : (requestTag payload).toNat = nat16At payload 0 :=
  Nat.mod_eq_of_lt (nat16At_lt payload 0)

theorem response_payload (payload : List Byte) (x y : Byte) {station : Fin 2} {dest : Fin 8} :
    (responseCell station dest (requestTag payload) (requestCommand payload) .ok [x, y]).payload =
      be16 (nat16At payload 0) ++ [byteAt payload 2, 0, 2, x, y] := by
  rw [responseCell, requestTag_toNat]
  exact List.append_assoc _ _ _

section
variable {s : State} {step : Instr} {decide : Decide} {r : Request} {rest : List Request} {p : PortId} {b b2 : Nat}
  {bs cs : List Nat}

/-- A command that leaves one highest pending source above the floor sends its notice ahead of its response (R151, R154). -/
theorem serve_notices {u : State} {i : Source} {x : Byte} (h : Serves s step r rest p b (b2 :: cs)) (hne : b ≠ b2)
    (h513 : s.bfm.freeCount ≠ 513) (h1 : 1 < s.bfm.freeCount) (hroom : (s.egress p).length < 511)
    (hc : Calm s [.station StationCounter.notices.id]) (hu : u = { s with evu := u.evu }) (hi : i ≠ srcFault)
    (hf : (u.source i).flag = true) (hl : u.evu.floor < (u.source i).level)
    (hmax : ∀ j, j ≠ i → (u.source j).flag = true →
      (u.source j).level < (u.source i).level ∨ ((u.source j).level = (u.source i).level ∧ i < j))
    (hd : decide r.payload (granted b (b2 :: cs) 1 .empty s) =
      answer .ok [x, byte (floorTest (granted b (b2 :: cs) 1 .empty u)).evu.floor] (floorTest (granted b (b2 :: cs) 1 .empty u))) :
    ∃ t, serve step (checked decide) s = t ∧ t.egress p = s.egress p ++ [.control b2, .control b] ∧ t.bfm.free = cs ∧
      t.bfm.freeCount = s.bfm.freeCount - 2 ∧
      (t.buffer b2).cell = controllerCell .notice s.mga.station
        ([byte i.val, byte (u.source i).level] ++
          be24 ((List.finRange 23).map (fun j => if (u.source j).flag then 2 ^ j.val else 0)).sum ++ [byte (u.source i).level] ++
            u.detailBytes) ∧
      (t.buffer b).cell.payload = be16 (nat16At r.payload 0) ++ [byteAt r.payload 2, 0, 2, x, byte (u.source i).level] ∧
      t.cnt = (bump (.station StationCounter.notices.id) s).cnt ∧ t.evu.sources = u.evu.sources ∧
      t.evu.floor = (u.source i).level ∧ t.mga.requests = rest := by
  obtain ⟨e, rfl⟩ : ∃ e, u = { s with evu := e } := ⟨_, hu⟩
  generalize hv : (granted b (b2 :: cs) 1 .empty { s with evu := e }).setFloor ({ s with evu := e }.source i).level = v
  have htest : floorTest (granted b (b2 :: cs) 1 .empty { s with evu := e }) = sendNotice v := by
    rw [← hv]
    exact floorTest_raises (s := granted b (b2 :: cs) 1 .empty { s with evu := e }) hi hf hl hmax
  have hpayload : v.noticePayload = _ := noticePayload_eq (s := v) (i := i) (by rw [← hv]; exact hf) (by rw [← hv]; exact hmax)
  have hsend := sendNoticeWith_sends (s := v) (raise := fire) (p := p) (b := b2) (bs := cs)
    (by rw [← hv]; exact not_restarting (s := s) h.toHeads)
    (by rw [← hv]; exact ⟨h.reaches.port, h.reaches.present, h.reaches.room⟩)
    (by rw [← hv]; exact ⟨rfl, (grants_second (s := s) h1 h513).above, (grants_second (s := s) h1 h513).notLow⟩)
    (by rw [← hv]; exact hc)
  rw [hpayload] at hsend
  subst hv
  obtain ⟨t, ht, hegress, hfree, hcount, hb2, hb, hcnt, hevu, hrest⟩ :=
    serve_sends h hne hroom (hd.trans (congrArg _ (htest.trans hsend))) rfl rfl rfl rfl
  rw [htest.trans hsend] at hb
  exact ⟨t, ht, hegress, hfree, hcount, hb2, (congrArg Cell.payload hb).trans (response_payload r.payload x _), hcnt,
    by rw [hevu]; rfl, by rw [hevu]; rfl, hrest⟩

end

/-! ### FLOOR SET and EVENT LEVELS (R154) -/

theorem decideFloorSet_sets {s : State} {payload : List Byte} (hl : byteAt payload 3 = 1) (hh : s.mga.held = false) :
    decideFloorSet payload s = answer .ok
      [flagByte (decide (6 < (byteAt payload 4).toNat)), byte (floorTest (s.setFloor (min (byteAt payload 4).toNat 6))).evu.floor]
      (floorTest (s.setFloor (min (byteAt payload 4).toNat 6))) := by
  have hlen : requestArgLength payload = 1 := congrArg BitVec.toNat hl
  unfold decideFloorSet
  exact (if_neg (not_not.mpr hlen)).trans (if_neg (by rw [hh]; decide))

theorem decideEventLevels_sets {s : State} {payload : List Byte}
    (hg : levelListOk (requestArgLength payload) (bytePairs (requestArgs payload)) = true) (hh : s.mga.held = false) :
    decideEventLevels payload s = answer .ok
      [flagByte ((bytePairs (requestArgs payload)).any clampsLevel),
        byte (floorTest (levelled (bytePairs (requestArgs payload)) s)).evu.floor]
      (floorTest (levelled (bytePairs (requestArgs payload)) s)) := by
  unfold decideEventLevels
  exact (if_neg (by rw [hg]; decide)).trans (if_neg (by rw [hh]; decide))

/-- A level is clamped where a source other than FAULT is given level 7. -/
theorem any_clampsLevel {pairs : List (Nat × Nat)} (h : ∀ x ∈ pairs, x.1 ≤ 22 ∧ x.2 ≤ 7) :
    pairs.any clampsLevel = true ↔ ∃ x ∈ pairs, x.1 ≠ 0 ∧ x.2 = 7 := by
  rw [List.any_eq_true]
  refine exists_congr fun x => and_congr_right fun hx => ?_
  have h7 := (h x hx).2
  rw [clampsLevel, Bool.and_eq_true]
  exact and_congr bne_iff_ne (decide_eq_true_iff.trans (show 6 < x.2 ↔ x.2 = 7 by omega))

section
variable {s : State} {r : Request} {rest : List Request} {p : PortId} {b b2 : Nat} {bs cs : List Nat}

theorem floorSet_sets (h : Serves s .floorSet r rest p b bs) (hl : byteAt r.payload 3 = 1) (hh : s.mga.held = false)
    (hc : ∀ i, i ≠ srcFault → (s.source i).flag = true → (s.source i).level ≤ min (byteAt r.payload 4).toNat 6) :
    exec .floorSet s = .next (answered r rest p b bs .ok
      [if 6 < (byteAt r.payload 4).toNat then 1 else 0, byte (min (byteAt r.payload 4).toNat 6)]
      (s.setFloor (min (byteAt r.payload 4).toNat 6))) := by
  refine congrArg _ (serve_succeeds (t := s.setFloor (min (byteAt r.payload 4).toNat 6)) h rfl rfl rfl ?_)
  rw [decideFloorSet_sets (by exact hl) (by exact hh), floorTest_quiet (by exact hc), flagByte]
  simp only [decide_eq_true_eq]
  rfl

theorem levelled_events (pairs : List (Nat × Nat)) (s : State) : OnlyEvents s (levelled pairs s) := by
  rw [(levelled_only pairs s).eventUnit]
  exact ⟨rfl, rfl, rfl, rfl, rfl, rfl, rfl, rfl, rfl, rfl, rfl, fun _ => ⟨_, rfl⟩⟩

theorem eventLevels_sets (h : Serves s .eventLevels r rest p b bs) {pairs : List (Nat × Nat)}
    (hp : bytePairs (requestArgs r.payload) = pairs)
    (hg : levelListOk (requestArgLength r.payload) pairs = true) (hh : s.mga.held = false)
    (hc : ∀ i, i ≠ srcFault → (s.source i).flag = true → namedLevel pairs s i ≤ s.evu.floor) :
    exec .eventLevels s = .next (answered r rest p b bs .ok
      [if pairs.any clampsLevel then 1 else 0, byte s.evu.floor] (levelled pairs s)) := by
  subst hp
  have hu := (levelled_only (bytePairs (requestArgs r.payload)) s).eventUnit
  have hcover : FloorCovers (granted b bs 1 .empty (levelled (bytePairs (requestArgs r.payload)) s)) := by
    intro i hi hf
    have hsource : (granted b bs 1 .empty (levelled (bytePairs (requestArgs r.payload)) s)).source i = _ := source_levelled _ s i
    rw [hsource] at hf ⊢
    exact (hc i hi hf).trans_eq (levelled_only _ s).floor.symm
  refine congrArg _ (serve_succeeds (t := levelled (bytePairs (requestArgs r.payload)) s) h (by rw [hu])
    (by rw [hu]) (by rw [hu]) ?_)
  rw [decideEventLevels_sets (by exact hg) (by exact hh), levelled_granted, floorTest_quiet hcover]
  exact congrArg (fun f => answer .ok [flagByte ((bytePairs (requestArgs r.payload)).any clampsLevel), byte f] _)
    (levelled_only _ s).floor

end

/-- Settles O49. -/
theorem floorAndLevels : Obligations.FloorAndLevels := by
  refine ⟨fun s r rest p b bs => ⟨fun h => ?_, fun h => ?_⟩,
    fun s r rest p b b2 bs i h hh hl hne h513 h1 hroom hc hi hfault hf hlow h6 hmax => ?_⟩
  · intro v
    refine ⟨fun hbad hs => ?_, fun hl hh hc => floorSet_sets h hl hh hc, fun hl hh => ?_⟩
    · exact (refused h hs floorSet_refuses rfl).1 fun hg => hbad (BitVec.eq_of_toNat_eq hg)
    · obtain ⟨u, hu, hcover, hrises, hlrx, hpsc⟩ := serve_floorTest (t := (granted b bs 1 .empty s).setFloor (min v 6)) h
        ((OnlyEvents.setBfm _ _).trans (.setFloor _ _)) (decideFloorSet_sets hl hh)
      exact ⟨u, congrArg _ hu, hcover, hrises, hlrx, hpsc⟩
  · intro length pairs good level
    have hok : levelListOk (requestArgLength r.payload) (bytePairs (requestArgs r.payload)) = true ↔ good := levelListOk_iff
    refine ⟨fun hbad hs => (refused h hs eventLevels_refuses rfl).1 hbad, fun hg hh hc => ?_, fun hg hh => ?_,
      fun b2 cs i hg hh hbs hne h513 h1 hroom hc hi hfault hf hlow hmax => ?_⟩
    · exact ⟨levelled pairs s, pairs.any clampsLevel, (levelled_only pairs s).eventUnit, (levelled_only pairs s).floor,
        (levelled_only pairs s).channels, source_levelled pairs s, any_clampsLevel hg.2.2.2.1,
        eventLevels_sets h rfl (hok.2 hg) hh hc⟩
    · obtain ⟨u, hu, hcover, hrises, hlrx, hpsc⟩ := serve_floorTest (t := levelled pairs (granted b bs 1 .empty s)) h
        (.trans (.setBfm _ _) (levelled_events pairs (granted b bs 1 .empty s))) (decideEventLevels_sets (hok.2 hg) hh)
      exact ⟨u, congrArg _ hu, hcover, (levelled_only pairs (granted b bs 1 .empty s)).floor.symm.trans_le hrises, hlrx, hpsc⟩
    · subst hbs
      have hsource := source_levelled pairs s
      have hsame := levelled_granted pairs b (b2 :: cs) .empty s
      obtain ⟨t, ht, hegress, hfree, hcount, hb2, hb, hcnt, hsources, hfloor, hrest⟩ :=
        serve_notices (u := levelled pairs s) (i := i) h hne h513 h1 hroom hc (levelled_only pairs s).eventUnit hi
          (by rw [hsource]; exact hf) (by rw [hsource, (levelled_only pairs s).floor]; exact hlow)
          (fun j hj hjf => by rw [hsource] at hjf ⊢; rw [hsource]; exact hmax j hj hjf)
          (by rw [← hsame]; exact decideEventLevels_sets (s := granted b (b2 :: cs) 1 .empty s) (hok.2 hg) hh)
      have hlevel : ((levelled pairs s).source i).level = level i := congrArg SourceRecord.level (hsource i)
      rw [hlevel] at hb2 hb hfloor
      refine ⟨t, pairs.any clampsLevel, congrArg _ ht, hfloor, fun j => ?_, any_clampsLevel hg.2.2.2.1, hegress, hfree, hcount,
        hb2.trans ?_, hb, hcnt, hrest⟩
      · exact (congrArg (fun x : Bank 23 SourceRecord => x.look j) hsources).trans (hsource j)
      · rw [detailBytes_congr (s := s) fun j => by rw [hsource j]; exact ⟨rfl, rfl⟩]
        simp only [hsource]
        rfl
  · have hlevel : min (byteAt r.payload 4).toNat 6 < (s.source i).level := (Nat.min_le_left _ _).trans_lt hlow
    obtain ⟨t, ht, hegress, hfree, hcount, hb2, hb, hcnt, hsources, hfloor, hrest⟩ :=
      serve_notices (u := s.setFloor (min (byteAt r.payload 4).toNat 6)) (i := i) h hne h513 h1 hroom hc rfl hi hf hlevel hmax
        (decideFloorSet_sets (s := granted b (b2 :: bs) 1 .empty s) hl hh)
    refine ⟨t, congrArg _ ht, hfloor, hsources, hegress, hfree, hcount, hb2, hb.trans ?_, hcnt, hrest⟩
    rw [show flagByte (decide (6 < (byteAt r.payload 4).toNat)) = 0 from if_neg (by simpa using (Nat.le_of_lt hlow).trans h6)]
    rfl

end Sys2Proof.Machine
end

section
/-! PROOF SUPPORT. One firing decided: its flag and notice, or the channel that takes it; the counter of an idle slot at each place of its
range (R143 to R145, R150, R151, R156). -/

namespace Sys2Proof.Machine

open Safety

section
variable {s : State} {src : Source} {raise : Raise}

/-- A silent source sets its flag or counts a repeat, at any nesting of firings. -/
theorem fireWith_silent (h : Silent s src) (d : Detail) : fireWith raise src d s = flaggedAs src d s := by
  unfold fireWith flaggedAs
  rw [h.unbound]
  dsimp only
  split
  · rfl
  · next hf =>
    have hle := h.quiet.resolve_left hf
    have hlow : ¬ (s.setFlag src d).evu.floor < ((s.setFlag src d).source src).level := by
      simpa [State.setFlag] using hle
    unfold noticeRuleWith
    rw [if_neg h.notFault, if_neg hlow]

theorem fireTo_silent (h : Silent s src) (n : Nat) (d : Detail) : fireTo (n + 1) src d s = flaggedAs src d s := fireWith_silent h d

/-- A flag set above the floor raises the floor and sends a notice (R151). -/
theorem fire_notices (hn : src ≠ srcFault) (hb : s.takerOf src = none) (hf : (s.source src).flag = false)
    (hl : s.evu.floor < (s.source src).level) (d : Detail) :
    fire src d s = sendNoticeWith (fireTo 127) ((s.setFlag src d).setFloor (s.source src).level) := by
  have hlow : (s.setFlag src d).evu.floor < ((s.setFlag src d).source src).level := by
    simpa [State.setFlag] using hl
  have hlevel : ((s.setFlag src d).source src).level = (s.source src).level := by simp [State.setFlag]
  rw [fire_unfold, fireWith, hb]
  dsimp only
  rw [if_neg (by rw [hf]; decide), noticeRuleWith, if_neg hn, if_pos hlow, hlevel]

/-- A firing is taken by the lowest-numbered channel bound to its source (R156). -/
theorem takerOf_eq_some (hn : src ≠ srcFault) {c : ChannelId} (hc : (s.channel c).bound = some (.source src))
    (hfirst : ∀ d, d < c → (s.channel d).bound ≠ some (.source src)) : s.takerOf src = some c := by
  rw [State.takerOf, if_neg hn, List.find?_eq_some_iff_append]
  obtain ⟨before, after, hsplit⟩ := List.append_of_mem (List.mem_finRange c)
  have hsorted := List.pairwise_lt_finRange 4
  rw [hsplit] at hsorted ⊢
  refine ⟨by simp [hc], before, after, rfl, fun d hd => ?_⟩
  have hlt : d < c := (List.pairwise_append.1 hsorted).2.2 d hd c List.mem_cons_self
  simpa using hfirst d hlt

theorem fire_taken {c : ChannelId} (h : s.takerOf src = some c) (d : Detail) :
    fire src d s = takeFiringWith (fireTo 127) c s := by
  rw [fire_unfold, fireWith, h]

/-- A source set above the floor is then the highest pending one, when FAULT is not pending (R151, R152). -/
theorem flagged_highest (hl : s.evu.floor < (s.source src).level) (hcover : FloorCovers s)
    (hfault : (s.source srcFault).flag = false) (d : Detail) {t : State}
    (ht : ∀ j, t.source j = (s.setFlag src d).source j) :
    (t.source src).flag = true ∧ (t.source src).level = (s.source src).level ∧
      ∀ j, j ≠ src → (t.source j).flag = true →
        (t.source j).level < (t.source src).level ∨ ((t.source j).level = (t.source src).level ∧ src < j) := by
  have hself : t.source src = { s.source src with flag := true, repeats := 0, detail := d } :=
    (ht src).trans (State.source_setSource_self ..)
  have hother (j : Source) (hj : j ≠ src) : t.source j = s.source j := by
    rw [ht, State.setFlag, State.source_setSource, if_neg hj]
  refine ⟨by rw [hself], by rw [hself], fun j hj hjf => .inl ?_⟩
  rw [hother j hj] at hjf ⊢
  have hjn : j ≠ srcFault := fun e => by rw [e, hfault] at hjf; cases hjf
  rw [hself]
  exact (hcover j hjn hjf).trans_lt hl

variable {p : PortId} {b : Nat} {bs : List Nat}

/-- The notice of a source just set above the floor, sent through the controller's port (R151, R152). -/
theorem fire_sends (hn : src ≠ srcFault) (hb : s.takerOf src = none) (hf : (s.source src).flag = false)
    (hl : s.evu.floor < (s.source src).level) (hcover : FloorCovers s) (hfault : (s.source srcFault).flag = false) (d : Detail)
    (hr : s.restarting = false) (hp : Reaches s p) (hg : Grants s 0 b bs) (hc : Calm s [.station StationCounter.notices.id])
    {set : State} (hset : (s.setFlag src d).setFloor (s.source src).level = set) :
    fire src d s = bump (.station StationCounter.notices.id) (sent p b bs (controllerCell .notice s.mga.station
      ([byte src.val, byte (s.source src).level] ++
        be24 ((List.finRange 23).map (fun j => if (set.source j).flag then 2 ^ j.val else 0)).sum ++ [byte (s.source src).level] ++
          set.detailBytes)) set) := by
  obtain ⟨hflag, hlevel, hmax⟩ := flagged_highest (t := set) hl hcover hfault d fun j => by rw [← hset]; rfl
  have hpayload := noticePayload_eq hflag hmax
  rw [fire_notices hn hb hf hl, hset, sendNoticeWith_sends (by rw [← hset]; exact hr)
    (by rw [← hset]; exact ⟨hp.port, hp.present, hp.room⟩) (by rw [← hset]; exact ⟨hg.free, hg.above, hg.notLow⟩)
    (by rw [← hset]; exact hc), hpayload, hlevel]
  rw [← hset]
  rfl

/-- Without a buffer for its notice, UNDELIVERABLE counts and fires (R151). -/
theorem fire_undelivered (hn : src ≠ srcFault) (hb : s.takerOf src = none) (hf : (s.source src).flag = false)
    (hl : s.evu.floor < (s.source src).level) (d : Detail) (hr : s.restarting = false) (h0 : s.bfm.freeCount = 0)
    (hs : Silent s srcUndeliverable) (hne : src ≠ srcUndeliverable) (hc : Calm s [.station StationCounter.undeliverable.id]) :
    fire src d s = undelivered ((s.setFlag src d).setFloor (s.source src).level) := by
  generalize hset : (s.setFlag src d).setFloor (s.source src).level = set
  have hu : set.source srcUndeliverable = s.source srcUndeliverable := by
    rw [← hset]
    exact (State.source_setSource ..).trans (if_neg hne.symm)
  have hset' : Silent (bump (.station StationCounter.undeliverable.id) set) srcUndeliverable := by
    refine ⟨hs.notFault, ?_, hs.quiet.imp (fun h => ?_) fun h => ?_⟩
    · rw [← hset]
      exact hs.unbound
    · exact (congrArg SourceRecord.flag hu).trans h
    · refine (congrArg SourceRecord.level hu).trans_le (h.trans (hl.le.trans_eq ?_))
      rw [← hset]
      rfl
  have hcount : countWith (fireTo 127) (.station StationCounter.undeliverable.id) set =
      bump (.station StationCounter.undeliverable.id) set :=
    countWith_calm (by rw [← hset]; exact hc _ (List.mem_singleton_self _))
  rw [fire_notices hn hb hf hl, hset, sendNotice_undelivered (by rw [← hset]; exact hr) (by rw [← hset]; exact h0),
    undeliverableWith, hcount, fireTo_silent hset']
  rfl

end

/-! ### A counter at each place of its range (R143 to R145) -/

theorem increment_wraps {x : Counter} (h : x.value.toNat = 4294967295) : x.increment = { value := 0, overflow := true } := by
  have hv : x.value = BitVec.allOnes 32 := BitVec.eq_of_toNat_eq h
  simp [Counter.increment, hv]

theorem increment_counts {x : Counter} (h : x.value.toNat ≠ 4294967295) :
    x.increment = { value := x.value + 1, overflow := x.overflow } ∧ (x.value + 1).toNat = x.value.toNat + 1 := by
  have hv : x.value ≠ BitVec.allOnes 32 := fun e => h (by rw [e]; rfl)
  have hbeq : (x.value == BitVec.allOnes 32) = false := beq_eq_false_iff_ne.2 hv
  refine ⟨by rw [Counter.increment, hbeq, Bool.or_false], ?_⟩
  bv_omega

theorem atHalf_false {x : Counter} (h : x.value.toNat ≠ 2147483647) : x.atHalf = false := by
  simpa [Counter.atHalf] using h

/-- The detail of COUNTER_HALF for TX_FILL (R145). -/
def fillDetail (l : Lane) : Detail := .counterHalf .lane (laneCode l) 8

theorem fillDetail_eq (l : Lane) : fillDetail l = .counterHalf .lane (match l with | .a => 0 | .b => 1 | .c => 2) 8 := by
  cases l <;> rfl

section
variable {s : State} {l : Lane}

/-- The slot's FILL sent and TX_FILL counted to the half mark. -/
def halved (l : Lane) (s : State) : State :=
  (filled l s).setCounter (.lane l LaneCounter.txFill.id)
    { value := 2147483648, overflow := (s.counter (.lane l LaneCounter.txFill.id)).overflow }

theorem calm_halved {c : StationCounter} (h : Calm s [.station c.id]) : Calm (halved l s) [.station c.id] := fun q hq => by
  rw [List.mem_singleton.1 hq]
  exact h _ (List.mem_singleton_self _)

/-- The idle slot of a lane whose FILL takes TX_FILL to the half mark (R145). -/
theorem sendFill_half (h : (s.counter (.lane l LaneCounter.txFill.id)).value.toNat = 2147483647) :
    sendFill l s = fire srcCounterHalf (fillDetail l) (halved l s) := by
  have hhalf : ((filled l s).counter (.lane l LaneCounter.txFill.id)).atHalf = true := beq_iff_eq.2 h
  have hvalue : (s.counter (.lane l LaneCounter.txFill.id)).value + 1 = 2147483648 := by bv_omega
  refine (count_half hhalf).trans ?_
  have hinc : ((filled l s).counter (.lane l LaneCounter.txFill.id)).increment = _ :=
    (increment_counts (x := s.counter (.lane l LaneCounter.txFill.id)) (by omega)).1
  rw [hinc, hvalue]
  rfl

end

/-- Settles O18. -/
theorem countersWrapAndHalve : Obligations.CountersWrapAndHalve := by
  intro s l hr hp hc hk r x sent y
  have hslot : exec (.laneSlot l) s = .next (sendFill l s) := by
    rw [execLaneSlot_arbitrates hr hp, arbitrate_idle (candidate_none hc hk)]
  rw [hslot]
  refine ⟨fun hmax => ?_, fun hmax hhalf => ?_, fun hhalf hs => ?_, fun hhalf => ?_⟩
  · refine congrArg _ ((sendFill_calm (atHalf_false (hmax.trans_ne (by decide)))).trans ?_)
    exact congrArg (sent.setCounter r) (increment_wraps hmax)
  · obtain ⟨hinc, hv⟩ := increment_counts hmax
    exact ⟨x.value + 1, hv, congrArg _ ((sendFill_calm (atHalf_false hhalf)).trans (congrArg (sent.setCounter r) hinc))⟩
  · have hs' : Silent (halved l s) srcCounterHalf := ⟨hs.notFault, hs.unbound, hs.quiet⟩
    rw [sendFill_half hhalf, fillDetail_eq, fire_flaggedAs hs', flaggedAs_eq]
    rfl
  · intro half control bound
    rw [sendFill_half hhalf, fillDetail_eq]
    refine ⟨fun hb hf hl hcover hfault => ?_, fun c hb hfirst => ?_⟩
    · intro set
      have hnone : (halved l s).takerOf srcCounterHalf = none := (takerOf_eq_none (by decide)).2 hb
      refine ⟨fun p b bs hp hg hcalm => ?_, fun h0 hs hcalm => ?_⟩
      · exact congrArg _ (fire_sends (s := halved l s) (by decide) hnone hf hl hcover hfault _ hr ⟨hp.port, hp.present, hp.room⟩
          ⟨hg.free, hg.above, hg.notLow⟩ (calm_halved hcalm) rfl)
      · exact congrArg _ (fire_undelivered (s := halved l s) (by decide) hnone hf hl _ hr h0
          ⟨hs.notFault, hs.unbound, hs.quiet⟩ (by decide) (calm_halved hcalm))
    · intro z
      have htaken := fire_taken (takerOf_eq_some (s := halved l s) (by decide) hb hfirst)
      refine ⟨fun hz hcalm => ?_, fun hz hidle => ?_, fun p b bs hz hp hg hm => ?_⟩
      · exact congrArg _ ((htaken _).trans (takeFiring_pending hz (calm_halved hcalm)))
      · exact congrArg _ ((htaken _).trans (takeFiring_idle hz hidle))
      · exact congrArg _ ((htaken _).trans (takeFiring_sends hr hz ⟨hp.port, hp.present, hp.room⟩
          ⟨hg.free, hg.above, hg.notLow⟩ hm))

end Sys2Proof.Machine
end

section
/-! PROOF SUPPORT. The routing of a control cell held with one reference: where it joins, and where it is UNDELIVERABLE (R61, R136, R159,
R160). -/

namespace Sys2Proof.Machine

open Safety

section
variable {s : State} {b : Nat} {l : Lane} {p : PortId}

/-- The cell in buffer `b` can be discarded with its count and event alone: one reference, and UNDELIVERABLE calm and silent. -/
structure Discards (s : State) (b : Nat) : Prop where
  refs : (s.buffer b).refs = 1
  calm : (s.counter (.station StationCounter.undeliverable.id)).atHalf = false
  silent : Silent s srcUndeliverable

theorem discard_lost (h : Discards s b) : discard b s = undelivered (returned b s) := by
  unfold discard discardWith
  rw [dereference_returned h.refs]
  exact undeliverable_silent (by exact h.calm) ⟨h.silent.notFault, h.silent.unbound, h.silent.quiet⟩

/-- A buffer just taken for a control cell can be discarded. -/
theorem discards_granted {bs : List Nat} {cell : Cell} (hc : Calm s [.station StationCounter.undeliverable.id])
    (hs : Silent s srcUndeliverable) : Discards (granted b bs 1 cell s) b where
  refs := congrArg Buffer.refs (buffer_granted b bs (by decide) cell s)
  calm := hc _ (List.mem_singleton_self _)
  silent := ⟨hs.notFault, hs.unbound, hs.quiet⟩

/-! ### The lanes (R61) -/

theorem placement_of_firstOf (h : FirstOf s.view [.a, .b, .c] l) :
    s.placement = if (s.tx l).control.length < 8 then some l else none := by
  have hl : s.controlLane lanes = some l := preferred_of_firstOf h
  rw [State.placement, hl]
  rfl

theorem placement_unusable (h : ∀ l, s.view l = .unusable) : s.placement = none := by
  have hl : s.controlLane lanes = none := preferred_none fun l _ => h l
  rw [State.placement, hl]

theorem placeControl_joins (h : FirstOf s.view [.a, .b, .c] l) (hr : (s.tx l).control.length < 8) :
    placeControl b s = s.setControl l ((s.tx l).control ++ [b]) := by
  rw [placeControl, placeControlWith, placement_of_firstOf h, if_pos hr]

theorem placeControl_lost (hd : Discards s b) (h : s.placement = none) : placeControl b s = undelivered (returned b s) := by
  rw [placeControl, placeControlWith, h]
  exact discard_lost hd

theorem placeControl_full (hd : Discards s b) (h : FirstOf s.view [.a, .b, .c] l) (hr : ¬ (s.tx l).control.length < 8) :
    placeControl b s = undelivered (returned b s) :=
  placeControl_lost hd (by rw [placement_of_firstOf h, if_neg hr])

/-! ### The controller's port (R136, R160) -/

theorem controllerRoute_full (hd : Discards s b) (hp : s.mga.settings.controllerPort = some p) (hs : s.present p = true)
    (hr : ¬ (s.egress p).length < 512) (hc : Calm s [.port p PortCounter.outDrop.id]) (fromLane : Bool) :
    controllerRoute fromLane b s = undelivered (bump (.port p PortCounter.outDrop.id) (returned b s)) := by
  have hport : s.reachablePort = some p := by simp [State.reachablePort, hp, hs]
  have hcount : count (.port p PortCounter.outDrop.id) (returned b s) = bump (.port p PortCounter.outDrop.id) (returned b s) :=
    count_bump (hc _ (List.mem_singleton_self _))
  unfold controllerRoute controllerRouteWith
  rw [hport]
  dsimp only
  unfold offerControlWith
  refine (if_neg hr).trans ?_
  rw [dereference_returned hd.refs]
  exact (congrArg undeliverable hcount).trans
    (undeliverable_silent (by exact hd.calm) ⟨hd.silent.notFault, hd.silent.unbound, hd.silent.quiet⟩)

/-- With the controller's port none or absent, a cell from a lane is discarded and any other goes over the lanes. -/
theorem controllerRoute_absent (h : ∀ p, s.mga.settings.controllerPort = some p → s.present p = false) (fromLane : Bool) :
    controllerRoute fromLane b s = if fromLane then discard b s else placeControl b s := by
  have hport : s.reachablePort = none := by
    unfold State.reachablePort
    split
    · rfl
    · next p hp => rw [h p hp]; rfl
  unfold controllerRoute controllerRouteWith
  rw [hport]
  rfl

/-! ### Responses (R162) -/

theorem peerAddress_iff {dest : Fin 8} {station : Fin 2} : dest = peerAddress station ↔ dest.val + station.val = 1 := by
  rw [Fin.ext_iff]
  show dest.val = 1 - station.val ↔ _
  omega

/-- A response with one reference is routed as R162 says. -/
theorem routed_routeResponse (hd : Discards s b) (hc : ∀ p, Calm s [.port p PortCounter.outDrop.id]) (dest : Fin 8) :
    Routed s dest b s (routeResponse dest b s) := by
  have hcontroller : routeResponse controllerAddress b s = controllerRoute false b s := rfl
  have hpeer (hn : dest ≠ controllerAddress) (hf : dest.val + s.mga.station.val = 1) : routeResponse dest b s = placeControl b s := by
    unfold routeResponse routeResponseWith
    rw [if_neg hn, if_pos (peerAddress_iff.2 hf)]
    rfl
  refine ⟨fun p hdest hp hs => ?_, fun hlanes => ?_, fun hn hf => ?_⟩
  · subst hdest
    rw [hcontroller]
    split
    · next hr => exact controllerRouteWith_reaches ⟨hp, hs, hr⟩ dereference false b
    · next hr => exact controllerRoute_full hd hp hs hr (hc p) false
  · have hplace : routeResponse dest b s = placeControl b s := by
      rcases hlanes with hf | ⟨hdest, habsent⟩
      · refine hpeer (fun e => ?_) hf
        rw [e] at hf
        have : (controllerAddress : Fin 8).val = 7 := rfl
        omega
      · rw [hdest, hcontroller, controllerRoute_absent habsent]
        rfl
    rw [hplace]
    refine ⟨fun l hl => ?_, fun hall => placeControl_lost hd (placement_unusable hall)⟩
    split
    · next hr => exact placeControl_joins hl hr
    · next hr => exact placeControl_full hd hl hr
  · have hdiscard : routeResponse dest b s = discard b s := by
      unfold routeResponse routeResponseWith
      rw [if_neg hn, if_neg (mt peerAddress_iff.1 hf)]
      rfl
    rw [hdiscard, discard_lost hd]

end

end Sys2Proof.Machine
end

section
/-! PROOF SUPPORT. A service that waits, and the routing of a response wherever its request came from (R8, R162). -/

namespace Sys2Proof.Machine

open Safety

/-! ### The service's turn (R162, logs 2 and 3) -/

section
variable {s : State} {code : Nat} {r : Request} {rest : List Request}

/-- A service step whose request does not head the queue of an idle station changes nothing. -/
theorem exec_serviceStep_none (h : s.served (serviceStep code) = none) : exec (serviceStep code) s = .next s := by
  obtain ⟨decide, he⟩ | he := exec_serviceStep code s
  · rw [he, serve_none h]
  · rw [he] at h ⊢
    show execRestart s = _
    rw [execRestart, h]

theorem exec_serviceStep_waits (h : s.served (serviceStep code) = some r) (h0 : s.bfm.freeCount = 0) :
    exec (serviceStep code) s = .next (s.setMga { s.mga with serviceDue := false }) := by
  obtain ⟨decide, he⟩ | he := exec_serviceStep code s
  · rw [he, serve_waits h h0]
    rfl
  · rw [he] at h ⊢
    show execRestart s = _
    rw [execRestart, h]
    dsimp only
    rw [allocateControl_none h0]
    rfl

theorem served_eq_some (hi : s.mga.restart = .idle) (hq : s.mga.requests = r :: rest) {step : Instr}
    (hc : serviceStep (requestCommand r.payload).toNat = step) : s.served step = some r := by
  simp [State.served, hi, hq, hc]

theorem served_busy (hi : s.mga.restart ≠ .idle) (step : Instr) : s.served step = none := by
  unfold State.served
  split
  · next he _ => exact absurd he hi
  · rfl

theorem served_empty (hq : s.mga.requests = []) (step : Instr) : s.served step = none := by
  unfold State.served
  rw [hq]
  split <;> simp_all

theorem served_other (hq : s.mga.requests = r :: rest) {step : Instr} (hc : serviceStep (requestCommand r.payload).toNat ≠ step) :
    s.served step = none := by
  unfold State.served
  rw [hq]
  split
  · next he => cases he; exact if_neg hc
  · rfl

end

/-! ### The first checks of R8 -/

section
variable {s : State} {code : Nat} {r : Request} {rest : List Request}

theorem serve_short {decide : Decide} {step : Instr} (h : s.served step = some r) (hb : argLengthBad r.payload = true) :
    serve step (checked decide) s = serve step (fun _ => answer .badArgument []) s := by
  rw [serve, serve, h]
  dsimp only
  cases allocateControl .empty s with
  | none => rfl
  | some x => exact congrArg (conclude x.1 r) (if_pos hb)

theorem execRestart_short (h : s.served .restart = some r) (hb : argLengthBad r.payload = true) :
    execRestart s = .next (serve .restart (fun _ => answer .badArgument []) s) := by
  rw [execRestart, serve, h]
  dsimp only
  cases allocateControl .empty s with
  | none => rfl
  | some x => exact if_pos (by rw [hb]; rfl)

/-- A bad argument length is BAD_ARGUMENT of any command but STREAM STATE, which shows its stream's state. -/
theorem exec_short (h1 : 1 ≤ code) (h21 : code ≤ 21) (h5 : code ≠ 5) (h : s.served (serviceStep code) = some r)
    (hb : argLengthBad r.payload = true) :
    exec (serviceStep code) s = .next (serve (serviceStep code) (fun _ => answer .badArgument []) s) := by
  have hchecked : (∃ decide, exec (serviceStep code) s = .next (serve (serviceStep code) (checked decide) s)) ∨ code = 21 := by
    obtain hlow | ⟨hmid, hhigh⟩ | hlast : code ≤ 4 ∨ (6 ≤ code ∧ code ≤ 20) ∨ code = 21 := by omega
    · refine .inl ?_
      interval_cases code <;> exact ⟨_, rfl⟩
    · refine .inl ?_
      interval_cases code <;> exact ⟨_, rfl⟩
    · exact .inr hlast
  rcases hchecked with ⟨decide, he⟩ | rfl
  · rw [he, serve_short h hb]
  · exact execRestart_short h hb

end

/-! ### A response routed -/

section
variable {s : State} {step : Instr} {decide : Decide} {r : Request} {rest : List Request} {b : Nat} {bs : List Nat}

/-- What a routed response leaves: it joins a port's FIFO or a control queue, or it is UNDELIVERABLE. -/
theorem routeResponse_outcome (hd : Discards s b) (hc : ∀ p, Calm s [.port p PortCounter.outDrop.id]) (dest : Fin 8) :
    (∃ p q, routeResponse dest b s = s.setEgress p q) ∨ (∃ l q, routeResponse dest b s = s.setControl l q) ∨
      (∃ p, routeResponse dest b s = undelivered (bump (.port p PortCounter.outDrop.id) (returned b s))) ∨
        routeResponse dest b s = undelivered (returned b s) := by
  have hplace : (∃ l q, placeControl b s = s.setControl l q) ∨ placeControl b s = undelivered (returned b s) := by
    cases hl : s.placement with
    | none => exact .inr (placeControl_lost hd hl)
    | some l => exact .inl ⟨l, (s.tx l).control ++ [b], by rw [placeControl, placeControlWith, hl]⟩
  have hroute : routeResponse dest b s = controllerRoute false b s ∨ routeResponse dest b s = placeControl b s ∨
      routeResponse dest b s = discard b s := by
    unfold routeResponse routeResponseWith
    split_ifs
    · exact .inl rfl
    · exact .inr (.inl rfl)
    · exact .inr (.inr rfl)
  rcases hroute with he | he | he <;> rw [he]
  · by_cases hport : ∀ p, s.mga.settings.controllerPort = some p → s.present p = false
    · rw [controllerRoute_absent hport]
      exact .inr (hplace.imp_right .inr)
    · push Not at hport
      obtain ⟨p, hp, hs⟩ := hport
      have hs' : s.present p = true := by simpa using hs
      by_cases hr : (s.egress p).length < 512
      · exact .inl ⟨p, _, controllerRouteWith_reaches ⟨hp, hs', hr⟩ dereference false b⟩
      · exact .inr (.inr (.inl ⟨p, controllerRoute_full hd hp hs' hr (hc p) false⟩))
  · exact .inr (hplace.imp_right .inr)
  · exact .inr (.inr (.inr (discard_lost hd)))

theorem undelivered_mga (s : State) : (undelivered s).mga = s.mga := by
  rw [undelivered, flagged, flaggedAs_eq]
  rfl

theorem silent_undelivered {src : Source} (h : Silent s src) (hne : src ≠ srcUndeliverable) : Silent (undelivered s) src := by
  have hsource : (undelivered s).source src = s.source src := source_flagged_ne hne
  refine ⟨h.notFault, ?_, ?_⟩
  · rw [undelivered, flagged, flaggedAs_eq]
    exact h.unbound
  · rw [hsource]
    refine h.quiet.imp_right fun hl => hl.trans_eq ?_
    rw [undelivered, flagged, flaggedAs_eq]
    rfl

theorem flagged_setMga (src : Source) (s : State) (x : ManagementAgent) : flagged src (s.setMga x) = (flagged src s).setMga x := by
  unfold flagged
  rw [flaggedAs_eq, flaggedAs_eq]
  rfl

/-- The answer to any request routed by its source (R162). -/
theorem serve_routed {status : Status} {result : List Byte} (h : s.served step = some r) (hq : s.mga.requests = r :: rest)
    (hg : Grants s 0 b bs) (hu : Silent s srcUndeliverable) (hm : Silent s srcMgmtError)
    (hc : Calm s [.station StationCounter.undeliverable.id]) (hp : ∀ p, Calm s [.port p PortCounter.outDrop.id])
    (hd : decide r.payload (granted b bs 1 .empty s) = answer status result (granted b bs 1 .empty s)) :
    ∃ v, Routed s r.source b (granted b bs 1
        (responseCell s.mga.station r.source (requestTag r.payload) (requestCommand r.payload) status result) s) v ∧
      serve step decide s = (if status.isError then flagged srcMgmtError else id)
        (v.setMga { s.mga with requests := rest, serviceDue := true }) := by
  generalize hcell : responseCell s.mga.station r.source (requestTag r.payload) (requestCommand r.payload) status result = cell
  have hdiscards : Discards (granted b bs 1 cell s) b := discards_granted hc hu
  have hdrop : ∀ p, Calm (granted b bs 1 cell s) [.port p PortCounter.outDrop.id] := fun p q hq => by
    rw [List.mem_singleton.1 hq]
    exact hp p _ (List.mem_singleton_self _)
  generalize hv : routeResponse r.source b (granted b bs 1 cell s) = v
  have hserve : serve step decide s = removeRequest (raiseError status v) := by
    rw [serve, h]
    dsimp only
    rw [allocateControl_granted hg]
    dsimp only
    rw [hd, ← hv, ← hcell]
    exact congrArg (fun u => removeRequest (raiseError status (routeResponse r.source b u))) (granted_storeCell b bs .empty _ s)
  have hafter : v.mga = s.mga ∧ Silent v srcMgmtError := by
    have hg : Silent (granted b bs 1 cell s) srcMgmtError := ⟨hm.notFault, hm.unbound, hm.quiet⟩
    rw [← hv]
    rcases routeResponse_outcome hdiscards hdrop r.source with ⟨p, q, he⟩ | ⟨l, q, he⟩ | ⟨p, he⟩ | he <;> rw [he]
    · exact ⟨rfl, hg.notFault, hg.unbound, hg.quiet⟩
    · exact ⟨rfl, hg.notFault, hg.unbound, hg.quiet⟩
    · exact ⟨undelivered_mga _, silent_undelivered ⟨hg.notFault, hg.unbound, hg.quiet⟩ (by decide)⟩
    · exact ⟨undelivered_mga _, silent_undelivered ⟨hg.notFault, hg.unbound, hg.quiet⟩ (by decide)⟩
  refine ⟨v, hv ▸ routed_routeResponse hdiscards hdrop r.source, ?_⟩
  rw [hserve, removeRequest, raiseError]
  obtain ⟨hmga, hsilent⟩ := hafter
  split
  · rw [fire_flagged hsilent, flagged_setMga]
    have hsame : (flagged srcMgmtError v).mga = s.mga := by
      rw [flagged, flaggedAs_eq]
      exact hmga
    rw [hsame, hq]
    rfl
  · rw [hmga, hq]
    rfl

/-! ### The head of a response (R8) -/

theorem be16_nat16At (payload : List Byte) (i : Nat) : be16 (nat16At payload i) = [byteAt payload i, byteAt payload (i + 1)] := by
  have h1 := (byteAt payload i).isLt
  have h2 := (byteAt payload (i + 1)).isLt
  rw [be16, List.cons.injEq, List.cons.injEq]
  refine ⟨BitVec.eq_of_toNat_eq ?_, BitVec.eq_of_toNat_eq ?_, rfl⟩
  · rw [byte, BitVec.toNat_ofNat, nat16At]
    omega
  · rw [byte, BitVec.toNat_ofNat, nat16At]
    omega

theorem responseCell_eq (station : Fin 2) (dest : Fin 8) (payload : List Byte) (status : Status) (result : List Byte) :
    responseCell station dest (requestTag payload) (requestCommand payload) status result =
      { kind := .mgmtRsp, addr := stationsByte dest (stationAddress station), cls := 0, frameEnd := false, demoted := false, seq := 0
        payload := [byteAt payload 0, byteAt payload 1, byteAt payload 2, byte status.code, byte result.length] ++ result } := by
  rw [responseCell, requestTag_toNat, be16_nat16At]
  rfl

end

/-! ### The services of O35 -/

theorem short_iff {payload : List Byte} : argLengthBad payload = true ↔
    112 < (byteAt payload 3).toNat ∨ payload.length < (byteAt payload 3).toNat + 4 := by
  rw [argLengthBad, Bool.or_eq_true]
  exact or_congr decide_eq_true_iff decide_eq_true_iff

theorem serviceStep_unknown {code : Nat} (h : code = 0 ∨ 21 < code) : serviceStep code = .unknownCommand := by
  unfold serviceStep
  split <;> first | rfl | omega

/-- Settles O35. -/
theorem serviceWaitsOrRefuses : Obligations.ServiceWaitsOrRefuses := by
  refine ⟨fun s code _ => ?waits, fun s step r rest p b bs h hs => ?refuses,
    fun s r rest b bs hi hq hg hu hm hc hp => ?routes⟩
  case waits =>
    intro step
    exact ⟨fun hi => exec_serviceStep_none (served_busy hi _), fun hq => exec_serviceStep_none (served_empty hq _),
      fun r rest hq hc => exec_serviceStep_none (served_other hq hc),
      fun r rest hi hq hc h0 => exec_serviceStep_waits (served_eq_some hi hq hc) h0⟩
  case refuses =>
    intro code short
    have hstep : serviceStep code = step := h.code
    have hserved : s.served (serviceStep code) = some r := hstep ▸ served_of_heads h
    refine ⟨fun hcode => ?_, fun h1 h21 h5 hshort => ?_, fun h5 hshort => ?_⟩
    · have hunknown : step = .unknownCommand := hstep ▸ serviceStep_unknown hcode
      subst hunknown
      exact ⟨rfl, congrArg _ (serve_refuses_with (decide := decideUnknown) h rfl hs rfl)⟩
    · rw [← hstep, exec_short h1 h21 h5 hserved (short_iff.2 hshort), hstep]
      exact congrArg _ (serve_refuses_with (decide := fun _ => answer .badArgument []) h rfl hs rfl)
    · have hstate : step = .streamState := by rw [← hstep, h5]; rfl
      subst hstate
      exact congrArg _ (serve_refuses_with (decide := decideStreamState) h rfl hs (decideStreamState_bad rfl (.inl (short_iff.2 hshort))))
  case routes =>
    intro code length short replies
    have hserved : s.served (serviceStep code) = some r := served_eq_some hi hq rfl
    have hreply {decide : Decide} {status : Status} {result : List Byte}
        (he : exec (serviceStep code) s = .next (serve (serviceStep code) decide s))
        (hd : decide r.payload (granted b bs 1 .empty s) = answer status result (granted b bs 1 .empty s)) :
        replies status result (if status.isError then flagged srcMgmtError else id) := by
      obtain ⟨v, hv, hserve⟩ := serve_routed hserved hq hg hu hm hc hp hd
      rw [responseCell_eq] at hv
      exact ⟨v, hv, he.trans (congrArg _ hserve)⟩
    refine ⟨fun h1 hshort hlen => ?_, fun hcode => ?_, fun h1 h21 h5 hshort => ?_, fun h5 hshort => ?_⟩
    · have hstep : serviceStep code = .echo := by rw [h1]; rfl
      have hlong : ¬ argLengthBad r.payload = true := mt short_iff.1 hshort
      have hfits : requestArgLength r.payload ≠ 112 := fun e => by
        have : length = 112 := e
        omega
      exact hreply (decide := checked decideEcho) (by rw [hstep]; rfl) ((if_neg hlong).trans (if_neg hfits))
    · exact hreply (decide := decideUnknown) (by rw [serviceStep_unknown hcode]; rfl) rfl
    · exact hreply (exec_short h1 h21 h5 hserved (short_iff.2 hshort)) rfl
    · have hstep : serviceStep code = .streamState := by rw [h5]; rfl
      exact hreply (decide := decideStreamState) (by rw [hstep]; rfl) (decideStreamState_bad rfl (.inl (short_iff.2 hshort)))

end Sys2Proof.Machine
end

section
/-! PROOF SUPPORT. A control cell in its buffer routed by its destination, and the request queue (R159, R161). -/

namespace Sys2Proof.Machine

open Safety

/-! ### The two stations of byte 2 -/

theorem and_63 (x : Byte) : (x &&& 0x3F).toNat = x.toNat % 64 := by
  rw [BitVec.toNat_and]
  exact Nat.and_two_pow_sub_one_eq_mod x.toNat 6

theorem dest_and_63 (x : Byte) : (x &&& 0x3F).toNat / 8 % 8 = x.toNat / 8 % 8 := by
  rw [and_63]
  omega

theorem source_and_63 (x : Byte) : (x &&& 0x3F).toNat % 8 = x.toNat % 8 := by
  rw [and_63]
  omega

section
variable {s : State} {b : Nat} {cell : Cell}

/-! ### The request queue (R161) -/

theorem enqueueRequest_queues (hb : s.buffer b = { refs := 1, cell := cell, checkAgrees := true })
    (hc : Calm s [.station StationCounter.mgmtRequests.id]) (hq : s.mga.requests.length < 4) :
    enqueueRequest b s = (returned b (bump (.station StationCounter.mgmtRequests.id) s)).setMga { s.mga with
      requests := s.mga.requests ++ [{ source := cell.source, payload := cell.payload }], serviceDue := true } := by
  have hcount : countStation .mgmtRequests s = bump (.station StationCounter.mgmtRequests.id) s :=
    count_bump (hc _ (List.mem_singleton_self _))
  unfold enqueueRequest
  rw [hcount, hb]
  refine (if_pos hq).trans ?_
  exact dereference_returned (congrArg Buffer.refs hb)

/-- With the queue full, BUSY leaves in a buffer of its own for the controller's port, and the request's buffer is free again. -/
theorem enqueueRequest_busy {p : PortId} {b2 : Nat} {cs : List Nat} (hb : s.buffer b = { refs := 1, cell := cell, checkAgrees := true })
    (hr : Calm s [.station StationCounter.mgmtRequests.id]) (hm : Calm s [.station StationCounter.mgmtBusy.id])
    (hq : 4 ≤ s.mga.requests.length) (hsrc : cell.source = controllerAddress) (hp : Reaches s p) (hg : Grants s 0 b2 cs)
    (hne : b ≠ b2) :
    enqueueRequest b s = returned b (granted b2 cs 1
      (responseCell s.mga.station controllerAddress (requestTag cell.payload) (requestCommand cell.payload) .busy [])
      (bump (.station StationCounter.mgmtBusy.id) (bump (.station StationCounter.mgmtRequests.id)
        ((s.setEgress p (s.egress p ++ [.control b2])).setMga { s.mga with serviceDue := true })))) := by
  have hcount : countStation .mgmtRequests s = bump (.station StationCounter.mgmtRequests.id) s :=
    count_bump (hr _ (List.mem_singleton_self _))
  generalize hv : bump (.station StationCounter.mgmtBusy.id)
    ((bump (.station StationCounter.mgmtRequests.id) s).setMga { s.mga with serviceDue := true }) = v
  have hbusy : countStation .mgmtBusy ((bump (.station StationCounter.mgmtRequests.id) s).setMga { s.mga with serviceDue := true }) = v :=
    hv ▸ count_bump (atHalf_bump_ne (s := s) (by decide) (hm _ (List.mem_singleton_self _)))
  have hanswer : respondInOwnBuffer controllerAddress (requestTag cell.payload) (requestCommand cell.payload) .busy [] v =
      sent p b2 cs (responseCell s.mga.station controllerAddress (requestTag cell.payload) (requestCommand cell.payload) .busy []) v := by
    unfold respondInOwnBuffer respondInOwnBufferWith
    rw [allocateControl_granted (by rw [← hv]; exact ⟨hg.free, hg.above, hg.notLow⟩), ← hv]
    exact routeResponse_port (by exact hp.port) (by exact hp.present) (by exact hp.room) b2
  unfold enqueueRequest
  rw [hcount, hb]
  refine (if_neg (Nat.not_lt.mpr hq)).trans ?_
  rw [hsrc]
  refine (congrArg (dereference b) ((congrArg _ hbusy).trans hanswer)).trans ?_
  rw [dereference_returned, ← hv]
  · rfl
  · refine (congrArg Buffer.refs (buffer_granted_ne hne cs 1 _ v)).trans ?_
    rw [← hv]
    exact congrArg Buffer.refs hb

/-! ### Routing by destination (R159) -/

theorem dest_eq {d : Fin 8} (h : cell.addr.toNat / 8 % 8 = d.val) : cell.dest = d := Fin.ext h

theorem routeControl_own (hb : (s.buffer b).cell = cell) (hd : cell.dest = stationAddress s.mga.station) (fromLane : Bool) :
    routeControl fromLane b s = if cell.kind = .mgmtReq then enqueueRequest b s else discard b s := by
  unfold routeControl
  rw [hb]
  exact if_pos hd

theorem routeControl_peer (hb : (s.buffer b).cell = cell) (hd : cell.dest = peerAddress s.mga.station) (fromLane : Bool) :
    routeControl fromLane b s = if fromLane then discard b s else placeControl b s := by
  have hn : cell.dest ≠ stationAddress s.mga.station := by
    rw [hd, Ne, Fin.ext_iff]
    show ¬ 1 - s.mga.station.val = s.mga.station.val
    omega
  unfold routeControl
  rw [hb]
  exact (if_neg hn).trans (if_pos hd)

theorem routeControl_controller (hb : (s.buffer b).cell = cell) (hd : cell.dest = controllerAddress) (fromLane : Bool) :
    routeControl fromLane b s = controllerRoute fromLane b s := by
  have hv : (controllerAddress : Fin 8).val = 7 := rfl
  have hn : cell.dest ≠ stationAddress s.mga.station := by
    rw [hd, Ne, Fin.ext_iff, hv]
    show ¬ 7 = s.mga.station.val
    omega
  have hp : cell.dest ≠ peerAddress s.mga.station := by
    rw [hd, Ne, Fin.ext_iff, hv]
    show ¬ 7 = 1 - s.mga.station.val
    omega
  unfold routeControl
  rw [hb]
  exact (if_neg hn).trans ((if_neg hp).trans (if_pos hd))

theorem routeControl_unknown (hb : (s.buffer b).cell = cell) (h2 : 2 ≤ cell.dest.val) (h6 : cell.dest.val ≤ 6) (fromLane : Bool) :
    routeControl fromLane b s = discard b s := by
  have hn : cell.dest ≠ stationAddress s.mga.station := fun e => by
    have : cell.dest.val = s.mga.station.val := congrArg Fin.val e
    omega
  have hp : cell.dest ≠ peerAddress s.mga.station := fun e => by
    have : cell.dest.val = 1 - s.mga.station.val := congrArg Fin.val e
    omega
  have hc : cell.dest ≠ controllerAddress := fun e => by
    have : cell.dest.val = 7 := congrArg Fin.val e
    omega
  unfold routeControl
  rw [hb]
  exact (if_neg hn).trans ((if_neg hp).trans (if_neg hc))

end

end Sys2Proof.Machine
end

section
/-! PROOF SUPPORT. INGRESS_ACCEPTANCE of a MGMT_REQ (R40, R159 to R161). -/

namespace Sys2Proof.Machine

open Safety

section
variable {s : State} {p : PortId} {cell : List Byte} {rest : List (List Byte)}

/-- The request as its buffer holds it (R6). -/
def storedRequest (cell : List Byte) : Cell :=
  { kind := .mgmtReq, addr := byteAt cell 2 &&& 0x3F, cls := 0, frameEnd := false, demoted := false, seq := 0
    payload := (cell.drop 8).take (lengthField cell) }

/-- The state with the request taken off the FIFO and the controller port learned (R40). -/
def learned (p : PortId) (rest : List (List Byte)) (s : State) : State :=
  (bump (.port p PortCounter.inCells.id) (s.setIngress p rest)).setMga
    { s.mga with settings := { s.mga.settings with controllerPort := some p } }

theorem exec_ingressAcceptance (hq : s.ingress p = cell :: rest) (hr : s.restarting = false) :
    exec (.ingressAcceptance p) s = .next (acceptCell p cell (s.setIngress p rest)) := by
  show execIngressAcceptance p s = _
  unfold execIngressAcceptance
  rw [hq]
  exact if_neg (by rw [hr]; decide)

/-- A MGMT_REQ is stored in a buffer and routed, or is UNDELIVERABLE without one. -/
theorem exec_acceptRequest (hq : s.ingress p = cell :: rest) (hr : s.restarting = false) (hl : lengthField cell ≤ 116)
    (hk : tribKindCode cell = 3) (hc : Calm s [.port p PortCounter.inCells.id]) :
    exec (.ingressAcceptance p) s = .next (match allocateControl (storedRequest cell) (learned p rest s) with
      | none => undeliverable (learned p rest s)
      | some (b, u) => routeControl false b u) := by
  have hcount : countPort p .inCells (s.setIngress p rest) = bump (.port p PortCounter.inCells.id) (s.setIngress p rest) :=
    count_bump (hc _ (List.mem_singleton_self _))
  rw [exec_ingressAcceptance hq hr, acceptCell, hcount]
  refine congrArg _ ((if_neg (Nat.not_lt.mpr hl)).trans ((if_neg (by rw [hk]; decide)).trans ((if_pos hk).trans ?_)))
  unfold acceptRequest
  show (match allocateControl (storedRequest cell) (learned p rest s) with
    | none => undeliverable (learned p rest s)
    | some (b, u) => routeControl false b u) = _
  cases allocateControl (storedRequest cell) (learned p rest s) <;> rfl

end

/-- Settles O13. -/
theorem ingressTakesRequest : Obligations.IngressTakesRequest := by
  intro s p cell rest hq hr hl hk hcalm hs dest own payload stored mga u
  have hexec := exec_acceptRequest hq hr hl hk fun q hq => hcalm q (by rw [List.mem_singleton.1 hq]; simp)
  have hcu (c : StationCounter) (hc : CounterRef.station c.id ∈ [CounterRef.station StationCounter.mgmtRequests.id,
      .station StationCounter.mgmtBusy.id, .station StationCounter.undeliverable.id]) : Calm u [.station c.id] := fun q hq => by
    rw [List.mem_singleton.1 hq]
    exact hcalm _ (List.mem_cons_of_mem _ hc)
  have hsu : Silent u srcUndeliverable := ⟨hs.notFault, hs.unbound, hs.quiet⟩
  refine ⟨fun h0 => ?_, fun b bs hg => ?_⟩
  · have hnone : allocateControl (storedRequest cell) (learned p rest s) = none :=
      allocateControl_none (s := u) h0 _
    rw [hexec, hnone]
    exact congrArg _ (undeliverable_silent (hcu .undeliverable (by simp) _ (List.mem_singleton_self _)) hsu)
  · have hsome : allocateControl (storedRequest cell) (learned p rest s) = some (b, granted b bs 1 stored u) :=
      allocateControl_granted (s := u) ⟨hg.free, hg.above, hg.notLow⟩ _
    have hrouted : exec (.ingressAcceptance p) s = .next (routeControl false b (granted b bs 1 stored u)) := by
      rw [hexec, hsome]
    have hb : (granted b bs 1 stored u).buffer b = { refs := 1, cell := stored, checkAgrees := true } :=
      buffer_granted b bs (by decide) stored u
    have hd : Discards (granted b bs 1 stored u) b := discards_granted (hcu .undeliverable (by simp)) hsu
    have hdest : stored.addr.toNat / 8 % 8 = dest := dest_and_63 _
    intro lost overLanes
    have hlanes (h : routeControl false b (granted b bs 1 stored u) = placeControl b (granted b bs 1 stored u)) : overLanes := by
      rw [h] at hrouted
      exact ⟨fun l hl => ⟨fun hr => hrouted.trans (congrArg _ (placeControl_joins (s := granted b bs 1 stored u) hl hr)),
        fun hr => hrouted.trans (congrArg _ (placeControl_full hd hl (Nat.not_lt.mpr hr)))⟩,
        fun hall => hrouted.trans (congrArg _ (placeControl_lost hd (placement_unusable (s := granted b bs 1 stored u) hall)))⟩
    refine ⟨fun ho hq => ?_, fun b2 cs ho hq hbs hne h513 h1 hsrc hp hroom => ?_, fun ho => ?_, fun ho hp hroom => ?_, fun ho hp => ?_,
      fun h2 h6 => ?_⟩
    · refine hrouted.trans (congrArg _ ((routeControl_own (congrArg Buffer.cell hb) (dest_eq (hdest.trans ho)) false).trans
        ((if_pos rfl).trans ((enqueueRequest_queues hb ?_ hq).trans ?_))))
      · exact hcu .mgmtRequests (by simp)
      · have hsource : stored.source = ⟨(byteAt cell 2).toNat % 8, by omega⟩ := Fin.ext (source_and_63 _)
        rw [hsource]
        rfl
    · have hsource : stored.source = controllerAddress := Fin.ext ((source_and_63 _).trans hsrc)
      refine hrouted.trans (congrArg _ ((routeControl_own (congrArg Buffer.cell hb) (dest_eq (hdest.trans ho)) false).trans
        ((if_pos rfl).trans ((enqueueRequest_busy (p := p) (b2 := b2) (cs := cs) hb ?_ ?_ hq hsource ⟨rfl, hp, hroom⟩ ?_ hne).trans ?_))))
      · exact hcu .mgmtRequests (by simp)
      · exact hcu .mgmtBusy (by simp)
      · subst hbs
        exact ⟨rfl, Nat.sub_pos_of_lt h1, fun e => h513 (by have : s.bfm.freeCount - 1 = 512 := e; omega)⟩
      · rw [responseCell_eq]
        rfl
    · exact hlanes (routeControl_peer (congrArg Buffer.cell hb) (dest_eq (hdest.trans ho)) false)
    · refine hrouted.trans (congrArg _ ((routeControl_controller (congrArg Buffer.cell hb) (dest_eq (hdest.trans ho)) false).trans ?_))
      exact controllerRouteWith_reaches (s := granted b bs 1 stored u) ⟨rfl, hp, hroom⟩ dereference false b
    · refine hlanes ((routeControl_controller (congrArg Buffer.cell hb) (dest_eq (hdest.trans ho)) false).trans ?_)
      exact controllerRoute_absent (s := granted b bs 1 stored u) (fun q hq => by cases hq; exact hp) false
    · refine hrouted.trans (congrArg _ ((routeControl_unknown (congrArg Buffer.cell hb) ?_ ?_ false).trans (discard_lost hd)))
      · exact h2.trans_eq hdest.symm
      · exact hdest.trans_le h6

end Sys2Proof.Machine
end

section
/-! PROOF SUPPORT. The examination of a received cell (R3), and a good control cell routed (R79, R159). -/

namespace Sys2Proof.Machine

open Safety

section
variable {s : State} {l : Lane} {cell : List Byte} {kind : CellKind}

theorem CellKind.ofCode_code (kind : CellKind) : CellKind.ofCode kind.code = some kind := by cases kind <;> rfl

/-- The lane with its run of bad headers ended by a good header (R76). -/
def headerPassed (l : Lane) (s : State) : State := s.setRx l { s.rx l with badHeaders := 0 }

theorem examine_header (h : crc8 (cell.take 7) = byteAt cell 7) : examine l cell s =
    if crcPasses cell then examineFields l cell (headerPassed l s) else crcFailed l (headerPassed l s) := by
  rw [examine, if_pos (by simpa [headerPasses] using h)]
  rfl

theorem examineFields_unknown (h : CellKind.ofCode (rxKindCode cell) = none ∨ 116 < lengthField cell ∨ rxLaneCode cell ≠ laneCode l) :
    examineFields l cell s = countLane l .rxUnknown s := by
  unfold examineFields
  split
  · rfl
  · next k hk => exact if_pos (by simpa [hk] using h)

theorem examineFields_dispatches (hk : rxKindCode cell = kind.code) (hn : lengthField cell ≤ 116) (hl : rxLaneCode cell = laneCode l) :
    examineFields l cell s = dispatch l kind cell (countLane l .rxGood s) := by
  unfold examineFields
  rw [hk, CellKind.ofCode_code]
  exact if_neg (by simp [hl]; omega)

/-- A good cell is counted and dispatched (R3). -/
theorem exec_goodCell (h : GoodCell s l cell kind.code) :
    exec (.laneCellReceive l cell) s = .next (dispatch l kind cell (countLane l .rxGood (headerPassed l s))) := by
  obtain ⟨hlen, hr, hs, hhead, hcrc, hk, hl, hn⟩ := h
  rw [exec_cellReceive hlen hr hs, examine_header hhead, if_pos (by simpa [crcPasses] using hcrc),
    examineFields_dispatches hk hn hl]

/-- A good cell counted, its count away from the half mark. -/
def counted (l : Lane) (s : State) : State := bump (.lane l LaneCounter.rxGood.id) (headerPassed l s)

theorem exec_goodCell_calm (h : GoodCell s l cell kind.code) (hc : (s.counter (.lane l LaneCounter.rxGood.id)).atHalf = false) :
    exec (.laneCellReceive l cell) s = .next (dispatch l kind cell (counted l s)) := by
  have hcount : countLane l .rxGood (headerPassed l s) = counted l s :=
    count_bump ((congrArg Counter.atHalf (State.setRx_counter ..)).trans hc)
  rw [exec_goodCell h, hcount]

/-- A good control cell is stored in a buffer and routed, or is UNDELIVERABLE without one (R79). -/
theorem dispatch_control (h : kind ∈ [CellKind.mgmtReq, .mgmtRsp, .notice, .exportCell]) :
    dispatch l kind cell s = dispatchControl (storedCell kind cell) s := by
  simp only [List.mem_cons, List.not_mem_nil, or_false] at h
  rcases h with rfl | rfl | rfl | rfl <;> rfl

end

/-- Settles O25. -/
theorem controlCellRouted : Obligations.ControlCellRouted := by
  intro s l cell kind hkind hcell hs hcalm dest own stored good
  have hexec : exec (.laneCellReceive l cell) s = .next (dispatchControl stored good) := by
    rw [exec_goodCell_calm hcell (hcalm _ List.mem_cons_self), dispatch_control hkind]
    rfl
  have hcu (c : StationCounter) (hc : CounterRef.station c.id ∈ [CounterRef.station StationCounter.mgmtRequests.id,
      .station StationCounter.mgmtBusy.id, .station StationCounter.undeliverable.id]) : Calm good [.station c.id] := fun q hq => by
    rw [List.mem_singleton.1 hq]
    exact (congrArg Counter.atHalf (State.setRx_counter ..)).trans (hcalm _ (List.mem_cons_of_mem _ hc))
  have hsu : Silent good srcUndeliverable := ⟨hs.notFault, hs.unbound, hs.quiet⟩
  refine ⟨fun h0 => ?_, fun b bs hg => ?_⟩
  · rw [hexec, dispatchControl, allocateControl_none (by exact h0)]
    exact congrArg _ (undeliverable_silent (hcu .undeliverable (by simp) _ (List.mem_singleton_self _)) hsu)
  · have hrouted : exec (.laneCellReceive l cell) s = .next (routeControl true b (granted b bs 1 stored good)) := by
      rw [hexec, dispatchControl, allocateControl_granted (s := good) ⟨hg.free, hg.above, hg.notLow⟩]
    have hb : (granted b bs 1 stored good).buffer b = { refs := 1, cell := stored, checkAgrees := true } :=
      buffer_granted b bs (by decide) stored good
    have hd : Discards (granted b bs 1 stored good) b := discards_granted (hcu .undeliverable (by simp)) hsu
    have haddr : stored.addr = byteAt cell 2 &&& 0x3F := if_neg (by rintro rfl; simp at hkind)
    have hdest : stored.addr.toNat / 8 % 8 = dest := by rw [haddr]; exact dest_and_63 _
    have hsource : stored.addr.toNat % 8 = (byteAt cell 2).toNat % 8 := by rw [haddr]; exact source_and_63 _
    have hcontroller (h : dest = 7) : routeControl true b (granted b bs 1 stored good) = controllerRoute true b _ :=
      routeControl_controller (congrArg Buffer.cell hb) (dest_eq (hdest.trans h)) true
    intro lost
    have hlost (h : routeControl true b (granted b bs 1 stored good) = discard b (granted b bs 1 stored good)) : lost := by
      rw [h, discard_lost hd] at hrouted
      exact hrouted
    refine ⟨fun ho hk hq => ?_, fun p b2 cs ho hk hq hbs hne h513 h1 hsrc hp => ?_, fun ho hk => ?_, fun ho => ?_, fun h2 h6 => ?_,
      fun ho hp => ?_, fun p ho hp => ?_, fun p ho hport hp hfull hdrop => ?_⟩
    · refine hrouted.trans (congrArg _ ((routeControl_own (congrArg Buffer.cell hb) (dest_eq (hdest.trans ho)) true).trans
        ((if_pos hk).trans ((enqueueRequest_queues hb ?_ hq).trans ?_))))
      · exact hcu .mgmtRequests (by simp)
      · have hsrc : stored.source = ⟨(byteAt cell 2).toNat % 8, by omega⟩ := Fin.ext hsource
        rw [hsrc]
        rfl
    · have hsrc' : stored.source = controllerAddress := Fin.ext (hsource.trans hsrc)
      refine hrouted.trans (congrArg _ ((routeControl_own (congrArg Buffer.cell hb) (dest_eq (hdest.trans ho)) true).trans
        ((if_pos hk).trans ((enqueueRequest_busy (p := p) (b2 := b2) (cs := cs) hb ?_ ?_ hq hsrc'
          ⟨hp.port, hp.present, hp.room⟩ ?_ hne).trans ?_))))
      · exact hcu .mgmtRequests (by simp)
      · exact hcu .mgmtBusy (by simp)
      · subst hbs
        exact ⟨rfl, Nat.sub_pos_of_lt h1, fun e => h513 (by have : s.bfm.freeCount - 1 = 512 := e; omega)⟩
      · rw [responseCell_eq]
        rfl
    · exact hlost ((routeControl_own (congrArg Buffer.cell hb) (dest_eq (hdest.trans ho)) true).trans (if_neg hk))
    · exact hlost (routeControl_peer (congrArg Buffer.cell hb) (dest_eq (hdest.trans ho)) true)
    · exact hlost (routeControl_unknown (congrArg Buffer.cell hb) (h2.trans_eq hdest.symm) (hdest.trans_le h6) true)
    · exact hlost ((hcontroller ho).trans (controllerRoute_absent (s := granted b bs 1 stored good) (by exact hp) true))
    · exact hrouted.trans (congrArg _ ((hcontroller ho).trans
        (controllerRouteWith_reaches (s := granted b bs 1 stored good) ⟨hp.port, hp.present, hp.room⟩ dereference true b)))
    · refine hrouted.trans (congrArg _ ((hcontroller ho).trans
        (controllerRoute_full hd hport hp (Nat.not_lt.mpr hfull) ?_ true)))
      intro q hq
      rw [List.mem_singleton.1 hq]
      exact (congrArg Counter.atHalf (State.setRx_counter ..)).trans (hdrop _ (List.mem_singleton_self _))

end Sys2Proof.Machine
end

section
/-! PROOF SUPPORT. The entry to FAULT-HOLD of a station that holds no media: the fault record, the windows sealed and the FAULT notice, and
nothing else (R151, R166). -/

namespace Sys2Proof.Machine

open Safety

section
variable {s : State}

/-! ### The FAULT-HOLD actions find nothing (R72, R118, R141) -/

theorem setClassQueue_self {l : Lane} {k : Fin 4} {q : List QueueEntry} (h : s.classQueue l k = q) : s.setClassQueue l k q = s := by
  subst h
  have hput : (s.tx l).classes.put k (s.classQueue l k) = (s.tx l).classes := put_look _ _
  rw [State.setClassQueue, hput]
  cases l <;> rfl

theorem setEgress_self {p : PortId} {q : List EgressEntry} (h : s.egress p = q) : s.setEgress p q = s := by
  subst h
  have hput : s.dlv.egress.put p (s.egress p) = s.dlv.egress := put_look _ _
  rw [State.setEgress, hput]

/-- Rounds that each leave what they are given leave it together. -/
theorem foldl_unchanged {α β : Type} {f : β → α → β} {x : β} {as : List α} (h : ∀ a ∈ as, f x a = x) : as.foldl f x = x := by
  induction as with
  | nil => rfl
  | cons a as ih => rw [List.foldl_cons, h a List.mem_cons_self, ih fun c hc => h c (List.mem_cons_of_mem _ hc)]

theorem flushClassQueues_idle (h : ∀ l k, s.classQueue l k = []) (found : List Nat) : flushClassQueues (s, found) = (s, found) := by
  refine foldl_unchanged fun q _ => ?_
  unfold flushQueue
  dsimp only
  rw [h q.1 q.2, setClassQueue_self (h q.1 q.2)]
  rfl

theorem purgePort_idle {p : PortId} (h : ∀ e ∈ s.egress p, e.isControl = true) (found : List Nat) :
    purgePort (s, found) p = (s, found) := by
  have hfilter : (s.egress p).filter EgressEntry.isControl = s.egress p := List.filter_eq_self.2 h
  unfold purgePort
  dsimp only
  rw [hfilter, setEgress_self rfl]
  refine foldl_unchanged fun e he => ?_
  have hcontrol := h e he
  cases e with
  | control b => rfl
  | media => cases hcontrol
  | gap => cases hcontrol

theorem emptyWindow_idle {c : ContextId} (h : WindowEmpty s c) (found : List Nat) :
    ∃ m, emptyWindow (s, found) c = ({ s with mrg := m }, found) := by
  unfold emptyWindow
  dsimp only
  split
  · next hc =>
    rw [h hc]
    exact ⟨_, rfl⟩
  · exact ⟨s.mrg, rfl⟩

theorem emptyWindows_idle (cs : List ContextId) (h : ∀ c, WindowEmpty s c) (found : List Nat) :
    ∃ m, cs.foldl emptyWindow (s, found) = ({ s with mrg := m }, found) := by
  induction cs generalizing s with
  | nil => exact ⟨s.mrg, rfl⟩
  | cons c cs ih =>
    obtain ⟨m, hm⟩ := emptyWindow_idle (h c) found
    have hstay : Stays s (emptyWindow (s, found) c).1 := stays_closed.emptyWindow (s, found) c
    rw [hm] at hstay
    rw [List.foldl_cons, hm]
    exact ih fun d => hstay.windows d (h d)

/-- With no media in any queue, window or FIFO the actions only seal the windows again. -/
theorem holdActions_idle (h : MediaGone s) : ∃ m, holdActions s = ({ s with mrg := m }, []) := by
  obtain ⟨m, hm⟩ := emptyWindows_idle contextIds h.windows []
  refine ⟨m, ?_⟩
  unfold holdActions
  rw [flushClassQueues_idle h.cls, hm]
  exact foldl_unchanged fun p _ => purgePort_idle (s := { s with mrg := m }) (h.egress p) []

/-! ### The FAULT notice (R150, R151) -/

theorem takerOf_fault (s : State) : s.takerOf srcFault = none := if_pos rfl

/-- FAULT set for the first time sends its notice and leaves the floor. -/
theorem fire_fault {p : PortId} {b : Nat} {bs : List Nat} (hf : (s.source srcFault).flag = false) (d : Detail)
    (hr : s.restarting = false) (hp : Reaches s p) (hg : Grants s 0 b bs) (hc : Calm s [.station StationCounter.notices.id]) :
    fire srcFault d s = bump (.station StationCounter.notices.id)
      (sent p b bs (controllerCell .notice s.mga.station (s.setFlag srcFault d).noticePayload) (s.setFlag srcFault d)) := by
  rw [fire_unfold, fireWith, takerOf_fault]
  dsimp only
  rw [if_neg (by rw [hf]; decide)]
  unfold noticeRuleWith
  rw [if_pos rfl]
  exact sendNoticeWith_sends (s := s.setFlag srcFault d) hr ⟨hp.port, hp.present, hp.room⟩ ⟨hg.free, hg.above, hg.notLow⟩ hc

/-- A fault cause raised in a station that is not held, holds no media and drains nothing: the fault record and the notice. -/
theorem raiseFault_notices {p : PortId} {b : Nat} {bs : List Nat} (hh : s.mga.held = false) (hm : MediaGone s)
    (hd : s.mga.drain = none) (hf : (s.source srcFault).flag = false) (hr : s.restarting = false) (hp : Reaches s p)
    (hg : Grants s 0 b bs) (hc : Calm s [.station StationCounter.notices.id]) (cause : FaultCause) (index : Nat) :
    ∃ m cell, raiseFault cause index s = bump (.station StationCounter.notices.id)
      (sent p b bs cell (({ recorded cause index s with mrg := m } : State).setFlag srcFault (.fault cause index))) := by
  obtain ⟨m, hm⟩ := holdActions_idle (s := recorded cause index s) ⟨hm.cls, hm.windows, hm.egress⟩
  have henter : enterHold cause index s = fire srcFault (.fault cause index) { recorded cause index s with mrg := m } := by
    unfold enterHold
    dsimp only
    rw [show holdActions (s.setMga { s.mga with faultCause := some cause, faultIndex := index, furtherFaults := 0, held := true }) = _
      from hm]
    dsimp only [recorded, State.setMga]
    rw [hd]
    rfl
  rw [raiseFault_unheld hh, henter]
  exact ⟨m, _, fire_fault (s := { recorded cause index s with mrg := m }) hf _ hr ⟨hp.port, hp.present, hp.room⟩
    ⟨hg.free, hg.above, hg.notLow⟩ hc⟩

end

/-! ### The examination of a cell (R3, R75 to R78) -/

section
variable {s : State} {l : Lane} {cell : List Byte}

theorem setRx_counter_calm {x : LaneRx} {r : CounterRef} (h : (s.counter r).atHalf = false) :
    ((s.setRx l x).counter r).atHalf = false := (congrArg Counter.atHalf (State.setRx_counter ..)).trans h

theorem bump_headerPassed (r : CounterRef) :
    bump r (headerPassed l s) = (bump r s).setRx l { s.rx l with badHeaders := 0 } := by
  rw [bump_eq, bump_eq]
  rfl

theorem crcFailed_counts (h : (s.counter (.lane l LaneCounter.rxCrcErr.id)).atHalf = false) :
    crcFailed l (headerPassed l s) = (bump (.lane l LaneCounter.rxCrcErr.id) s).setRx l
      { s.rx l with badHeaders := 0, crcFailures := (s.rx l).crcFailures + 1 } := by
  have hcount : countLane l .rxCrcErr (headerPassed l s) = (bump (.lane l LaneCounter.rxCrcErr.id) s).setRx l
      { s.rx l with badHeaders := 0 } := (count_bump (setRx_counter_calm h)).trans (bump_headerPassed _)
  rw [crcFailed, hcount, State.rx_setRx_self, setRx_setRx]

theorem CellKind.ofCode_none {n : Nat} (h : 6 < n) : CellKind.ofCode n = none := by
  unfold CellKind.ofCode
  split
  all_goals first | rfl | omega

/-- The lane whose fourth header in a row fails hunts with everything measured on it lost but the last probe seen (R76, R77). -/
theorem fourthHeader_hunts (hl : cell.length = 128) (h3 : (s.rx l).badHeaders = 3) :
    ∃ t, headerFailed l cell s = t ∧
      t.rx l = { state := .hunt, goodHeaders := (t.rx l).goodHeaders, badHeaders := 0, crcFailures := 0, headerFailure := false,
                 judging := false, erroredRun := 0, cleanRun := 0, echo := none, lastSample := none, delay := none,
                 lastSeen := (s.rx l).lastSeen, huntWindow := (t.rx l).huntWindow, huntWait := (t.rx l).huntWait } ∧
      (t.rx l).goodHeaders ≤ 1 ∧
      (∀ m, m ≠ l → t.rx m = s.rx m) ∧ t.lrx.peer = s.lrx.peer ∧ t.pins = s.pins ∧ t.psc = s.psc ∧ t.lck = s.lck := by
  obtain ⟨r, hhunts, hle, g, w, k, hr⟩ := headerFailed_hunts hl h3
  have hcount := countLane_only l .rxHdrErr s
  have hrel := enterRxState_rel l .hunt (failedHeader l s)
  have hrx : ((enterRxState l .hunt (failedHeader l s)).setRx l r).rx l = r := State.rx_setRx_self ..
  refine ⟨_, hhunts, ?_, ?_, fun m hm => ?_, ?_, hrel.pins.trans hcount.pins, hrel.psc.trans hcount.psc, hrel.lck.trans hcount.lck⟩
  · rw [hrx, hr]
    rfl
  · rw [hrx]
    exact hle
  · rw [State.rx_setRx, if_neg hm, rx_enterRxState_ne hm, failedHeader, State.rx_setRx, if_neg hm, hcount.rx]
  · have hpeer : (countLane l .rxHdrErr s).lrx.peer = s.lrx.peer := congrArg LaneReceiver.peer hcount.lrx
    exact (peer_enterRxState l .hunt (failedHeader l s)).trans hpeer

/-- The dispatch of a MEDIA cell to a held station, or of a stream that is not an ACTIVE terminus (R78). -/
theorem dispatchMedia_unknown {c : Cell} {epoch : Epoch}
    (h : s.mga.held = true ∨ ((s.entry c.stream).checkAgrees = true ∧
      ((s.entry c.stream).state ≠ .active ∨ (s.entry c.stream).role = .origin))) :
    dispatchMedia l c epoch s = countLane l .rxUnknown s := by
  unfold dispatchMedia
  dsimp only
  split_ifs with hh ha hs hr
  · rfl
  · obtain h | ⟨h, -⟩ := h
    · exact absurd h hh
    · rw [h] at ha
      cases ha
  · rfl
  · rfl
  · obtain h | ⟨-, h | h⟩ := h
    · exact absurd h hh
    · exact absurd h hs
    · exact absurd h hr

theorem dispatchMedia_disagrees {c : Cell} {epoch : Epoch} (hh : s.mga.held = false) (ha : (s.entry c.stream).checkAgrees = false) :
    dispatchMedia l c epoch s = countLane l .rxUnknown (raiseFault .tableCheck c.stream.val s) := by
  unfold dispatchMedia
  exact (if_neg (by rw [hh]; decide)).trans (if_pos (by rw [ha]; decide))

/-- A MEDIA cell that finds its entry's check disagreeing in a station that holds no media (R22, R78, R166). -/
theorem dispatchMedia_faults {c : Cell} {epoch : Epoch} {p : PortId} {b : Nat} {bs : List Nat} (hh : s.mga.held = false)
    (ha : (s.entry c.stream).checkAgrees = false) (hm : MediaGone s) (hd : s.mga.drain = none)
    (hf : (s.source srcFault).flag = false) (hr : s.restarting = false) (hp : Reaches s p) (hg : Grants s 0 b bs)
    (hc : Calm s [.station StationCounter.notices.id]) (hu : (s.counter (.lane l LaneCounter.rxUnknown.id)).atHalf = false) :
    ∃ t, dispatchMedia l c epoch s = t ∧
      t.cnt = (bump (.lane l LaneCounter.rxUnknown.id) (bump (.station StationCounter.notices.id) s)).cnt ∧
      t.egress p = s.egress p ++ [.control b] ∧ (t.source srcFault).flag = true ∧
      (t.source srcFault).detail = .fault .tableCheck c.stream.val ∧ t.stb = s.stb ∧ t.bfm.free = bs := by
  obtain ⟨m, note, hfault⟩ := raiseFault_notices hh hm hd hf hr hp hg hc .tableCheck c.stream.val
  generalize hv : ({ recorded .tableCheck c.stream.val s with mrg := m } : State).setFlag srcFault (.fault .tableCheck c.stream.val) = v
    at hfault
  have hvu : ((sent p b bs note v).counter (.lane l LaneCounter.rxUnknown.id)).atHalf = false := by rw [← hv]; exact hu
  have hunknown : countLane l .rxUnknown (bump (.station StationCounter.notices.id) (sent p b bs note v)) = _ :=
    count_bump (atHalf_bump_ne nofun hvu)
  rw [dispatchMedia_disagrees hh ha, hfault, hunknown]
  have hsource : v.source srcFault = { s.source srcFault with flag := true, repeats := 0, detail := .fault .tableCheck c.stream.val } := by
    rw [← hv]
    exact State.source_setSource_self ..
  have hegress : (sent p b bs note v).egress p = s.egress p ++ [.control b] := by
    rw [← hv]
    exact State.egress_setEgress_self ..
  exact ⟨_, rfl, by rw [← hv]; rfl, hegress, congrArg SourceRecord.flag hsource, congrArg SourceRecord.detail hsource,
    by rw [← hv]; rfl, rfl⟩

theorem dispatchMedia_takes {c : Cell} {epoch : Epoch} (hh : s.mga.held = false) (ha : (s.entry c.stream).checkAgrees = true)
    (hs : (s.entry c.stream).state = .active) (hr : (s.entry c.stream).role = .terminus) :
    dispatchMedia l c epoch s = takeMedia l c epoch s := by
  unfold dispatchMedia
  exact (if_neg (by rw [hh]; decide)).trans ((if_neg (by rw [ha]; decide)).trans ((if_neg (not_not.mpr hs)).trans
    (if_neg (by rw [hr]; decide))))

end

/-- Settles O23. -/
theorem cellExamined : Obligations.CellExamined := by
  intro s l cell ready headerGood crcGood kind laneId seen
  refine ⟨fun hl => ?_, fun hl hs => ?_, fun hcalm hready => ?counts, fun hready hbad h3 => ?fourth, fun n hcell hn hcalm => ?media⟩
  · show execLaneCellReceive l cell s = _
    exact if_neg hl
  · show execLaneCellReceive l cell s = _
    have hd : (s.rx l).delineated = false := by rcases hs with hs | hs <;> simp [LaneRx.delineated, hs]
    exact (if_pos hl).trans (congrArg _ (if_neg (by rw [hd]; exact Bool.false_ne_true)))
  case counts =>
    obtain ⟨hl, hr, hs⟩ := hready
    rw [exec_cellReceive hl hr hs]
    refine ⟨fun hbad hlt => ?_, fun hhead hcrc => ?_, fun hhead hcrc hk => ?_, fun hhead hcrc hk hlen hlane => ?_⟩
    · rw [examine_headerFailed hbad, headerFailed_counts hlt, failedHeader, countLane, count_bump (hcalm _ (by simp))]
    · rw [examine_header hhead, if_neg (by simpa [crcPasses] using hcrc), crcFailed_counts (hcalm _ (by simp))]
    · rw [examine_header hhead, if_pos (by simpa [crcPasses] using hcrc), examineFields_unknown]
      · exact congrArg _ (count_bump (setRx_counter_calm (hcalm _ (by simp))))
      · exact hk.imp_left CellKind.ofCode_none
    · rw [examine_header hhead, if_pos (by simpa [crcPasses] using hcrc), examineFields_dispatches (kind := .fill) hk hlen hlane]
      exact congrArg _ (count_bump (setRx_counter_calm (hcalm _ (by simp))))
  case fourth =>
    obtain ⟨hl, hr, hs⟩ := hready
    obtain ⟨t, ht, hrest⟩ := fourthHeader_hunts hl h3
    exact ⟨t, by rw [exec_cellReceive hl hr hs, examine_headerFailed hbad, ht], hrest⟩
  case media =>
    intro e good unknown cls
    have hstream : (rxCell .media cell).stream = n := hn
    have hgood (r : CounterRef) (hr : r ∈ [CounterRef.lane l LaneCounter.rxGood.id, .lane l LaneCounter.rxUnknown.id,
        .stream n StreamCounter.rxCells.id, .stream n StreamCounter.admitDrop.id]) (hne : r ≠ .lane l LaneCounter.rxGood.id) :
        (good.counter r).atHalf = false := atHalf_bump_ne hne (setRx_counter_calm (hcalm r hr))
    have hdispatch : exec (.laneCellReceive l cell) s = .next (dispatchMedia l (rxCell .media cell) (rxEpoch cell) good) :=
      exec_goodCell_calm (kind := .media) hcell (hcalm _ List.mem_cons_self)
    have hcounts : ∀ u : State, (u.counter (.lane l LaneCounter.rxUnknown.id)).atHalf = false → countLane l .rxUnknown u = unknown u :=
      fun u hu => count_bump hu
    refine ⟨fun hrefused => ?_, fun hh ha hs hr hfree => ?_, fun hh ha => ⟨?_, fun p b bs hm hd hf hp hg hnote => ?_⟩⟩
    · rw [hdispatch, dispatchMedia_unknown (by rw [hstream]; exact hrefused), hcounts good (hgood _ (by simp) (by simp [LaneCounter.id]))]
    · have hcells : countStream n .rxCells good = bump (.stream n StreamCounter.rxCells.id) good := count_bump (hgood _ (by simp) nofun)
      have hdrop : countStream n .admitDrop (bump (.stream n StreamCounter.rxCells.id) good) = _ :=
        count_bump (atHalf_bump_ne (by simp [StreamCounter.id]) (hgood _ (by simp) nofun))
      rw [hdispatch, dispatchMedia_takes (s := good) hh (by rw [hstream]; exact ha) (by rw [hstream]; exact hs) (by rw [hstream]; exact hr)]
      unfold takeMedia
      dsimp only
      rw [hstream, hcells, allocateMedia_none (by exact hfree)]
      exact congrArg _ hdrop
    · have hheld := (raiseFault_heldWith (s := good) hh .tableCheck n.val).stays
        (stays_closed.count (.lane l LaneCounter.rxUnknown.id) _)
      refine ⟨_, ?_, hheld.held, hheld.cause, hheld.index, hheld.media⟩
      rw [hdispatch, dispatchMedia_disagrees (s := good) hh (by rw [hstream]; exact ha), hstream]
      rfl
    · obtain ⟨-, hr, -⟩ := hcell
      have hnotices : Calm good [.station StationCounter.notices.id] := fun q hq => by
        rw [List.mem_singleton.1 hq]
        exact atHalf_bump_ne nofun (setRx_counter_calm (hnote _ (List.mem_singleton_self _)))
      rw [hdispatch]
      obtain ⟨t, ht, hcnt, hegress, hflag, hdetail, hstb, hfree⟩ := dispatchMedia_faults (s := good) (l := l) (epoch := rxEpoch cell)
        (p := p) (b := b) (bs := bs) (c := rxCell .media cell) hh (by rw [hstream]; exact ha) ⟨hm.cls, hm.windows, hm.egress⟩ hd hf hr
        ⟨hp.port, hp.present, hp.room⟩ ⟨hg.free, hg.above, hg.notLow⟩ hnotices (hgood _ (by simp) (by simp [LaneCounter.id]))
      rw [hstream] at hdetail
      exact ⟨t, congrArg _ ht, hcnt, hegress, hflag, hdetail, hstb, hfree⟩

end Sys2Proof.Machine
end

section
/-! PROOF SUPPORT. A good probe used: its sample, the peer report, and the views and the posture that follow it (R7, R80, R85 to R88). -/

namespace Sys2Proof.Machine

open Safety

/-! ### Views and posture derived after a new peer report -/

section
variable (u : State)

theorem peerDerived_lrx : (derivePeerPosture (deriveViews u)).lrx = u.lrx := by
  obtain ⟨x, hx⟩ := derivePeerPosture_hold (deriveViews u)
  rw [hx.lrx, State.setPsc_lrx, (deriveViews_rel u).lrx]

theorem peerDerived_psc : (derivePeerPosture (deriveViews u)).psc =
    let x := { u.psc with
      peerBase := if u.lrx.peer.stale then .clear else u.lrx.peer.base
      peerStrike := if u.lrx.peer.stale then false else u.lrx.peer.strike }
    { x with effective := x.derived } := by
  rw [derivePeerPosture, derivePosture_psc, State.setPsc_psc, (deriveViews_rel u).lrx, (deriveViews_rel u).psc]

theorem peerDerived_posture : PostureDerived (derivePeerPosture (deriveViews u)) := postureDerived_derivePosture _

theorem peerDerived_views : ViewsDerived (derivePeerPosture (deriveViews u)) :=
  (derivePeerPosture_keeps (deriveViews u)).views (viewsDerived_deriveViews u)

/-- With every event that they could raise silent and nothing queued, the derivations count nothing. -/
theorem peerDerived_cnt (ha : TableAgrees u) (hv : ∀ m, Silent u (srcLaneView m)) (hp : Silent u srcPosture)
    (ho : Silent u srcOvercommit) (hq : ∀ m, (u.tx m).control = [] ∧ ∀ k, u.classQueue m k = []) :
    (derivePeerPosture (deriveViews u)).cnt = u.cnt := by
  have h1 : OnlyFlags (fun _ => True) u (deriveViews u) := deriveViews_flags ha ho trivial fun l _ => ⟨trivial, hv l, fun _ => hq l⟩
  have h2 := derivePosture_flags (named := fun _ => True)
    (s := (deriveViews u).setPsc { (deriveViews u).psc with
      peerBase := if (deriveViews u).lrx.peer.stale then .clear else (deriveViews u).lrx.peer.base
      peerStrike := if (deriveViews u).lrx.peer.stale then false else (deriveViews u).lrx.peer.strike })
    trivial trivial (have h := h1.silent hp; ⟨h.notFault, h.unbound, h.quiet⟩)
    (have h := h1.silent ho; ⟨h.notFault, h.unbound, h.quiet⟩) (h1.agrees ha)
  exact h2.cnt.trans h1.cnt

end

/-! ### The sample (R86, R87) -/

section
variable {s : State} {l : Lane} {p : Probe}

/-- The sample of the echo is valid (R86). -/
def sampleValid (l : Lane) (p : Probe) (s : State) : Bool :=
  roundTrip s.now p < 2147483648 && echoKnown (s.tx l).lastProbe p.echoNumber

/-- A sample invalid in the words of R86: the round trip, no probe sent, or an echo ahead of the last one. -/
theorem sampleValid_eq_false : sampleValid l p s = false ↔ 2147483648 ≤ (s.now - p.echoSendTime - p.dwell).toNat ∨
    (s.tx l).lastProbe = none ∨ ∃ k, (s.tx l).lastProbe = some k ∧ 1 ≤ (p.echoNumber - k).toNat ∧ (p.echoNumber - k).toNat ≤ 127 := by
  unfold sampleValid roundTrip echoKnown
  cases (s.tx l).lastProbe with
  | none => simp
  | some k =>
    simp
    omega

/-- The sample of a valid round trip (R86). -/
def probeSample (p : Probe) (s : State) : Nat := min ((s.now - p.echoSendTime - p.dwell).toNat / 2) 65535

/-- The record with a valid sample, the estimate set or smoothed (R87). -/
def LaneRx.sampled (r : LaneRx) (sample : Nat) : LaneRx :=
  { r with
    lastSample := some sample
    delay := some (match r.delay with
      | none => sample
      | some d => (7 * d + sample + 4) / 8) }

theorem takeSample_eq : takeSample l p s =
    if sampleValid l p s then s.setRx l ((s.rx l).sampled (probeSample p s)) else countLane l .probeInvalid s := by
  have hs : smoothed (s.rx l).delay (probeSample p s) = match (s.rx l).delay with
      | none => probeSample p s
      | some d => (7 * d + probeSample p s + 4) / 8 := by
    unfold smoothed
    cases (s.rx l).delay <;> rfl
  unfold LaneRx.sampled
  rw [← hs]
  rfl

/-- The lane's record once the probe is seen and its sample taken. -/
def LaneRx.probed (r : LaneRx) (p : Probe) (s : State) (valid : Bool) : LaneRx :=
  if p.echoValid && valid then (r.seeing p s.now).sampled (probeSample p s) else r.seeing p s.now

theorem probed_seen (r : LaneRx) (valid : Bool) :
    (r.probed p s valid).lastSeen = some { number := p.number, received := s.now, old := false } ∧
      (r.probed p s valid).echo = some { number := p.number, sendTime := p.sendTime, received := s.now } := by
  unfold LaneRx.probed
  split <;> exact ⟨rfl, rfl⟩

theorem probed_kept {r : LaneRx} {valid : Bool} (h : p.echoValid = false ∨ valid = false) :
    (r.probed p s valid).delay = r.delay ∧ (r.probed p s valid).lastSample = r.lastSample := by
  have hn : (p.echoValid && valid) = false := by rcases h with h | h <;> simp [h]
  unfold LaneRx.probed
  rw [hn]
  exact ⟨rfl, rfl⟩

theorem probed_sampled {r : LaneRx} {valid : Bool} (he : p.echoValid = true) (hv : valid = true) :
    (r.probed p s valid).lastSample = some (probeSample p s) ∧ (r.probed p s valid).delay = some (match r.delay with
      | none => probeSample p s
      | some d => (7 * d + probeSample p s + 4) / 8) := by
  unfold LaneRx.probed
  rw [he, hv]
  exact ⟨rfl, rfl⟩

/-- Beside the lane's record, an invalid sample is all that is counted. -/
theorem seenProbe_eq : seenProbe l p s =
    (if p.echoValid && !sampleValid l p s then countLane l .probeInvalid else id)
      (s.setRx l ((s.rx l).probed p s (sampleValid l p s))) := by
  have hvalid : sampleValid l p (s.setRx l ((s.rx l).seeing p s.now)) = sampleValid l p s := rfl
  unfold seenProbe LaneRx.probed
  cases p.echoValid with
  | false => rfl
  | true =>
    refine takeSample_eq.trans ?_
    rw [hvalid]
    cases sampleValid l p s with
    | false => rfl
    | true => exact (congrArg _ (congrArg (LaneRx.sampled · (probeSample p s)) (State.rx_setRx_self ..))).trans (setRx_setRx ..)

theorem seenProbe_only : OnlyEvents (s.setRx l ((s.rx l).probed p s (sampleValid l p s))) (seenProbe l p s) := by
  rw [seenProbe_eq]
  split
  · exact countLane_only ..
  · exact .refl _

theorem rx_seenProbe (m : Lane) : (seenProbe l p s).rx m = if m = l then (s.rx l).probed p s (sampleValid l p s) else s.rx m := by
  rw [seenProbe_only.rx, State.rx_setRx]

end

/-! ### A good probe cell -/

section
variable {s : State} {l : Lane} {cell : List Byte}

theorem probeUsable_iff {payload : List Byte} {peer : Fin 8} {epoch : Epoch} : probeUsable payload l peer epoch = true ↔
    payload.length = 19 ∧ (byteAt payload 0).toNat % 8 = peer.val ∧ (byteAt payload 1).toNat % 4 = laneCode l ∧
      byteAt payload 18 = epoch := by
  simp [probeUsable, and_assoc]

theorem receiveProbe_used (h : probeUsable ((cell.drop 8).take (byteAt cell 3).toNat) l (peerAddress s.mga.station) (byteAt cell 6) = true) :
    receiveProbe l cell s = derivePeerPosture (deriveViews
      ((seenProbe l (readProbe ((cell.drop 8).take (byteAt cell 3).toNat)) s).setPeer
        ((readProbe ((cell.drop 8).take (byteAt cell 3).toNat)).report l (byteAt cell 6)))) := if_pos h

end

/-- Settles O24. -/
theorem probeUsed : Obligations.ProbeUsed := by
  intro s l cell hcell load p rtt sample counts good usable
  have husable : probeUsable load l (peerAddress s.mga.station) (byteAt cell 6) = true ↔ usable := probeUsable_iff
  refine ⟨fun hn hcalm => ?_, fun hu => ?_⟩
  · rw [exec_goodCell_calm (kind := .probe) hcell (hcalm _ (by simp [counts]))]
    refine congrArg _ ((if_neg (mt husable.1 hn)).trans (count_bump ?_))
    exact atHalf_bump_ne (by simp [LaneCounter.id]) (setRx_counter_calm (hcalm _ (by simp [counts])))
  · have hexec := exec_goodCell (kind := .probe) hcell
    have hg := countLane_only l .rxGood (headerPassed l s)
    generalize hgood : countLane l .rxGood (headerPassed l s) = g at hexec hg
    have hused : dispatch l .probe cell g = _ := receiveProbe_used (s := g) (by rw [hg.mga]; exact husable.2 hu)
    rw [hused] at hexec
    generalize hw : (seenProbe l p g).setPeer (p.report l (byteAt cell 6)) = w at hexec
    have hseen := seenProbe_only (s := g) (l := l) (p := p)
    have hnow : g.now = s.now := hg.now
    have hpsc : (seenProbe l p g).psc = s.psc := hseen.psc.trans hg.psc
    have hrx (m : Lane) : (derivePeerPosture (deriveViews w)).rx m =
        if m = l then (g.rx l).probed p g (sampleValid l p g) else g.rx m := by
      rw [State.rx, peerDerived_lrx w, ← hw]
      exact rx_seenProbe m
    have hlane : (derivePeerPosture (deriveViews w)).rx l = ({ s.rx l with badHeaders := 0 } : LaneRx).probed p g (sampleValid l p g) := by
      have hgl : g.rx l = { s.rx l with badHeaders := 0 } := (hg.rx l).trans (State.rx_setRx_self ..)
      rw [hrx, if_pos rfl, hgl]
    have hprobe : (g.tx l).lastProbe = (s.tx l).lastProbe := by
      obtain ⟨q, hq⟩ := hg.tx l
      rw [hq]
      rfl
    have hinvalid : sampleValid l p g = false ↔ 2147483648 ≤ rtt ∨ (s.tx l).lastProbe = none ∨
        ∃ k, (s.tx l).lastProbe = some k ∧ 1 ≤ (p.echoNumber - k).toNat ∧ (p.echoNumber - k).toNat ≤ 127 := by
      rw [sampleValid_eq_false, hnow, hprobe]
    have hsample : probeSample p g = sample := by rw [probeSample, hnow]
    have hvalid (k : Byte) (hr : rtt < 2147483648) (hk : (s.tx l).lastProbe = some k)
        (hn : p.echoNumber = k ∨ 128 ≤ (p.echoNumber - k).toNat) : sampleValid l p g = true := by
      by_contra hf
      rcases hinvalid.1 ((Bool.not_eq_true _).mp hf) with h | h | ⟨k', h, h1, h2⟩
      · omega
      · rw [hk] at h
        cases h
      · obtain rfl : k = k' := by rw [hk] at h; exact Option.some.inj h
        rcases hn with rfl | hn
        · simp at h1
        · omega
    refine ⟨_, hexec, ?_, ?_, fun he => ?_, fun k he hr hk hn => ?_, fun he hbad => ?_, fun k he hk h1 h127 => ?_,
      fun k he hr hk hn => ?_, fun ha hv hpo ho hq hcalm => ?_, ?_, ?_, ?_, peerDerived_posture w, peerDerived_views w, fun m hm => ?_, ?_, ?_⟩
    · rw [hlane, (probed_seen _ _).1, hnow]
    · rw [hlane, (probed_seen _ _).2, hnow]
    · rw [hlane]
      exact probed_kept (.inl he)
    · rw [hlane, ← hsample]
      exact probed_sampled he (hvalid k hr hk (.inl hn))
    · rw [hlane]
      exact probed_kept (.inr (hinvalid.2 (hbad.imp_right .inl)))
    · rw [hlane]
      exact probed_kept (.inr (hinvalid.2 (.inr (.inr ⟨k, hk, h1, h127⟩))))
    · rw [hlane, ← hsample]
      exact probed_sampled he (hvalid k hr hk (.inr hn))
    · intro isInvalid
      have hgood' : g = good := hgood.symm.trans (count_bump (setRx_counter_calm (hcalm _ (by simp [counts]))))
      have hcount : countLane l .probeInvalid (g.setRx l ((g.rx l).probed p g (sampleValid l p g))) = _ :=
        count_bump (by
          rw [hgood']
          exact setRx_counter_calm (atHalf_bump_ne (by simp [LaneCounter.id]) (setRx_counter_calm (hcalm _ (by simp [counts])))))
      have hinv : isInvalid ↔ (p.echoValid && !sampleValid l p g) = true := by
        rw [Bool.and_eq_true, Bool.not_eq_true', hinvalid]
      have hcnt : (derivePeerPosture (deriveViews w)).cnt = w.cnt := by
        have hframe : w.stb = s.stb ∧ w.evu = s.evu ∧ w.ltx = s.ltx := by
          rw [← hw, seenProbe_eq]
          split
          · rw [hcount, bump_eq, hgood']
            exact ⟨rfl, rfl, rfl⟩
          · rw [hgood']
            exact ⟨rfl, rfl, rfl⟩
        obtain ⟨hstb, hevu, hltx⟩ := hframe
        refine peerDerived_cnt w (fun n => ?_) (fun m => silent_congr (hv m) hevu) (silent_congr hpo hevu) (silent_congr ho hevu)
          fun m => ?_
        · rw [State.entry, hstb]
          exact ha n
        · simp only [State.classQueue, State.tx, hltx]
          exact hq m
      rw [hcnt, ← hw, seenProbe_eq]
      refine ⟨fun h => ?_, fun h => ?_⟩
      · rw [if_pos (hinv.1 h), hcount, hgood', bump_eq, bump_eq]
        rfl
      · rw [if_neg (mt hinv.2 h), hgood']
        rfl
    · rw [peerDerived_lrx, ← hw]
      rfl
    · rw [peerDerived_psc, ← hw]
      rfl
    · rw [peerDerived_psc, ← hw]
      rfl
    · rw [hrx, if_neg hm, hg.rx, headerPassed, State.rx_setRx, if_neg hm]
    · rw [peerDerived_psc, ← hw]
      show (seenProbe l p g).psc.base = s.psc.base
      rw [hpsc]
    · rw [peerDerived_psc, ← hw]
      show (seenProbe l p g).psc.timer = s.psc.timer
      rw [hpsc]

end Sys2Proof.Machine
end

section
/-! PROOF SUPPORT. The handover of the head entry of a port's egress FIFO, past spoiled buffers (R138 to R140). -/

namespace Sys2Proof.Machine

open Safety

section
variable {s : State} {p : PortId} {b : Nat} {e : EgressEntry} {rest : List EgressEntry}

theorem exec_egressHandover (hp : s.present p = true) (hr : s.restarting = false) :
    exec (.egressHandover p) s = .next (handoverLoop p ((s.egress p).length + 1) s) := by
  show execEgressHandover p s = _
  exact congrArg _ (if_pos (by rw [hp, hr]; rfl))

theorem handoverLoop_empty {fuel : Nat} (h : s.egress p = []) : handoverLoop p fuel s = s := by
  cases fuel with
  | zero => rfl
  | succ n => rw [handoverLoop, h]

theorem handoverLoop_cons {fuel : Nat} (h : s.egress p = e :: rest) : handoverLoop p (fuel + 1) s =
    if (handEntry p e (s.setEgress p rest)).2 then (handEntry p e (s.setEgress p rest)).1
    else handoverLoop p fuel (handEntry p e (s.setEgress p rest)).1 := by
  rw [handoverLoop, h]

theorem tribCell_eq (c : Cell) : tribCell c =
    [byte (c.kind.code * 16), if c.frameEnd then 0x80 else 0, c.addr, byte c.payload.length] ++
      (if c.kind = .media then be16 c.seq.toNat else [0, 0]) ++ [0, 0] ++ c.payload ++ List.replicate (116 - c.payload.length) 0 := by
  have hflag : byte (flagBit c.frameEnd 7) = if c.frameEnd then 0x80 else 0 := by cases c.frameEnd <;> rfl
  rw [tribCell, hflag, padTo, ← List.append_assoc]

theorem tribGap_eq (n : StreamId) (first : Seq) (lost : Nat) (d : Bool) : tribGap n first lost d =
    [0x80, if d then 0x40 else 0, byte n.val, 0] ++ be16 first.toNat ++ [byte lost, 0] ++ List.replicate 116 0 := by
  have hflag : byte (flagBit d 6) = if d then 0x40 else 0 := by cases d <;> rfl
  rw [tribGap, hflag]
  rfl

theorem setEgress_setEgress (s : State) (p : PortId) (q r : List EgressEntry) : (s.setEgress p q).setEgress p r = s.setEgress p r := by
  simp only [State.setEgress, put_put]

/-- A media or control entry of buffer `b`. -/
def EntryOf (e : EgressEntry) (b : Nat) : Prop := e = .control b ∨ ∃ n q, e = .media b n q

theorem handEntry_buffered (h : EntryOf e b) (s : State) : handEntry p e s = handBuffered p b s := by
  rcases h with rfl | ⟨n, q, rfl⟩ <;> rfl

/-- The bytes of cell `c` put out at port `p`, and the reference of its buffer `b` let go. -/
def handedCell (p : PortId) (b : Nat) (c : Cell) (s : State) : State :=
  returned b (bump (.port p PortCounter.outCells.id) (s.setPortOut p
    ([byte (c.kind.code * 16), if c.frameEnd then 0x80 else 0, c.addr, byte c.payload.length] ++
      (if c.kind = .media then be16 c.seq.toNat else [0, 0]) ++ [0, 0] ++ c.payload ++ List.replicate (116 - c.payload.length) 0)))

/-- The buffer `b`, whose check disagrees, counted and let go. -/
def spoiledCell (p : PortId) (b : Nat) (s : State) : State := returned b (bump (.port p PortCounter.outBufCheck.id) s)

theorem handOver_calm (bs : List Byte) (hc : (s.counter (.port p PortCounter.outCells.id)).atHalf = false) :
    handOver p bs s = bump (.port p PortCounter.outCells.id) (s.setPortOut p bs) := count_bump hc

theorem handEntry_gap {n : StreamId} {first : Seq} {lost : Nat} {d : Bool}
    (hc : (s.counter (.port p PortCounter.outCells.id)).atHalf = false)
    (hg : (s.counter (.port p PortCounter.gapMarkers.id)).atHalf = false) :
    handEntry p (.gap n first lost d) s =
      (bump (.port p PortCounter.gapMarkers.id) (bump (.port p PortCounter.outCells.id) (s.setPortOut p (tribGap n first lost d))), true) := by
  have hne : CounterRef.port p PortCounter.gapMarkers.id ≠ CounterRef.port p PortCounter.outCells.id := by simp [PortCounter.id]
  have hafter : ((bump (.port p PortCounter.outCells.id) (s.setPortOut p (tribGap n first lost d))).counter
      (.port p PortCounter.gapMarkers.id)).atHalf = false := atHalf_bump_ne (s := s.setPortOut p (tribGap n first lost d)) hne hg
  show (countPort p .gapMarkers (handOver p (tribGap n first lost d) s), true) = _
  rw [handOver_calm _ hc, countPort, count_bump hafter]

theorem handBuffered_hands (hb : (s.buffer b).refs = 1) (ha : (s.buffer b).checkAgrees = true)
    (hc : (s.counter (.port p PortCounter.outCells.id)).atHalf = false) :
    handBuffered p b s = (handedCell p b (s.buffer b).cell s, true) := by
  have hcount : handOver p (tribCell (s.buffer b).cell) s =
      bump (.port p PortCounter.outCells.id) (s.setPortOut p (tribCell (s.buffer b).cell)) := count_bump hc
  unfold handBuffered
  dsimp only
  rw [if_pos ha, hcount, dereference_returned (by exact hb), tribCell_eq, handedCell]

theorem handBuffered_skips (hb : (s.buffer b).refs = 1) (ha : (s.buffer b).checkAgrees = false)
    (hc : (s.counter (.port p PortCounter.outBufCheck.id)).atHalf = false) :
    handBuffered p b s = (spoiledCell p b s, false) := by
  have hcount : countPort p .outBufCheck s = bump (.port p PortCounter.outBufCheck.id) s := count_bump hc
  unfold handBuffered
  dsimp only
  rw [if_neg (by rw [ha]; decide), hcount, dereference_returned (by exact hb), spoiledCell]

theorem handoverLoop_hands {fuel : Nat} (h : s.egress p = e :: rest) (he : EntryOf e b) (hb : (s.buffer b).refs = 1)
    (ha : (s.buffer b).checkAgrees = true) (hc : (s.counter (.port p PortCounter.outCells.id)).atHalf = false) :
    handoverLoop p (fuel + 1) s = handedCell p b (s.buffer b).cell (s.setEgress p rest) := by
  rw [handoverLoop_cons h, handEntry_buffered he, handBuffered_hands (s := s.setEgress p rest) hb ha hc, if_pos rfl]
  rfl

theorem handoverLoop_skips {fuel : Nat} (h : s.egress p = e :: rest) (he : EntryOf e b) (hb : (s.buffer b).refs = 1)
    (ha : (s.buffer b).checkAgrees = false) (hc : (s.counter (.port p PortCounter.outBufCheck.id)).atHalf = false) :
    handoverLoop p (fuel + 1) s = handoverLoop p fuel (spoiledCell p b (s.setEgress p rest)) := by
  rw [handoverLoop_cons h, handEntry_buffered he, handBuffered_skips (s := s.setEgress p rest) hb ha hc, if_neg Bool.false_ne_true]

theorem spoiledCell_setEgress (p : PortId) (b : Nat) (q : List EgressEntry) (s : State) :
    (spoiledCell p b s).setEgress p q = spoiledCell p b (s.setEgress p q) := rfl

theorem outCells_spoiledCell (h : (s.counter (.port p PortCounter.outCells.id)).atHalf = false) :
    ((spoiledCell p b s).counter (.port p PortCounter.outCells.id)).atHalf = false := by
  have hne : CounterRef.port p PortCounter.outCells.id ≠ CounterRef.port p PortCounter.outBufCheck.id := by simp [PortCounter.id]
  exact atHalf_bump_ne (s := s) hne h

end

/-- Settles O32. -/
theorem handoverTakesHead : Obligations.HandoverTakesHead := by
  intro s p hr hcalm entryOf handed spoiled
  have hcells := hcalm (.port p PortCounter.outCells.id) (by simp)
  have hspoil := hcalm (.port p PortCounter.outBufCheck.id) (by simp)
  have hgap := hcalm (.port p PortCounter.gapMarkers.id) (by simp)
  refine ⟨fun h => ?_, fun n first lost d rest hp hq => ?_, fun e b rest hp hq he hb ha => ?_, fun e b hp hq he hb ha => ?_,
    fun e e' b b' rest hp hq he he' hne hb ha hb' ha' => ?_⟩
  · show execEgressHandover p s = _
    unfold execEgressHandover
    split
    · next hgo =>
      rw [Bool.and_eq_true] at hgo
      have hq := h.resolve_left (by rw [hgo.1]; decide)
      rw [handoverLoop_empty hq]
    · rfl
  · rw [exec_egressHandover hp hr, handoverLoop_cons hq, handEntry_gap (s := s.setEgress p rest) hcells hgap, if_pos rfl, tribGap_eq]
  · rw [exec_egressHandover hp hr, handoverLoop_hands hq he hb ha hcells]
    rfl
  · rw [exec_egressHandover hp hr, handoverLoop_skips hq he hb ha hspoil,
      handoverLoop_empty (by exact State.egress_setEgress_self ..)]
    rfl
  · have hlen : (s.egress p).length = rest.length + 1 + 1 := by rw [hq]; rfl
    have hbuffer : (spoiledCell p b (s.setEgress p (e' :: rest))).buffer b' = s.buffer b' := buffer_returned_ne hne.symm _
    have hcounter : ((spoiledCell p b (s.setEgress p (e' :: rest))).counter (.port p PortCounter.outCells.id)).atHalf = false :=
      outCells_spoiledCell hcells
    rw [exec_egressHandover hp hr, hlen, handoverLoop_skips hq he hb ha hspoil,
      handoverLoop_hands (by exact State.egress_setEgress_self ..) he' (by rw [hbuffer]; exact hb') (by rw [hbuffer]; exact ha') hcounter,
      hbuffer, spoiledCell_setEgress, setEgress_setEgress]
    rfl

end Sys2Proof.Machine
end

section
/-! PROOF SUPPORT. The discards of INGRESS_ACCEPTANCE in the order of its checks (R39, R42 to R45). -/

namespace Sys2Proof.Machine

open Safety

section
variable {s : State} {p : PortId} {cell : List Byte} {n : StreamId}

/-- The cell off the FIFO and counted IN_CELLS (R39). -/
def tookCell (p : PortId) (rest : List (List Byte)) (s : State) : State := bump (.port p PortCounter.inCells.id) (s.setIngress p rest)

theorem exec_acceptMedia {rest : List (List Byte)} (hq : s.ingress p = cell :: rest) (hr : s.restarting = false)
    (hl : lengthField cell ≤ 116) (hk : tribKindCode cell = 1)
    (hc : (s.counter (.port p PortCounter.inCells.id)).atHalf = false) :
    exec (.ingressAcceptance p) s = .next (checkMedia p cell (tookCell p rest s)) := by
  have hcount : countPort p .inCells (s.setIngress p rest) = tookCell p rest s := count_bump hc
  rw [exec_ingressAcceptance hq hr, acceptCell, hcount]
  exact congrArg _ ((if_neg (Nat.not_lt.mpr hl)).trans (if_pos hk))

theorem exec_acceptForeign {rest : List (List Byte)} (hq : s.ingress p = cell :: rest) (hr : s.restarting = false)
    (h : 116 < lengthField cell ∨ (tribKindCode cell ≠ 1 ∧ tribKindCode cell ≠ 3))
    (hc : (s.counter (.port p PortCounter.inCells.id)).atHalf = false) :
    exec (.ingressAcceptance p) s = .next (countPort p .inUnknown (tookCell p rest s)) := by
  have hcount : countPort p .inCells (s.setIngress p rest) = tookCell p rest s := count_bump hc
  rw [exec_ingressAcceptance hq hr, acceptCell, hcount]
  refine congrArg _ ?_
  rcases h with h | ⟨h1, h3⟩
  · exact if_pos h
  · by_cases hl : 116 < lengthField cell
    · exact if_pos hl
    · exact (if_neg hl).trans ((if_neg h1).trans (if_neg h3))

/-! ### The checks of a MEDIA cell, one by one (R42, R43) -/

theorem checkMedia_held (h : s.mga.held = true) : checkMedia p cell s = countPort p .inactive s := if_pos h

/-- Past checks 1 and 2: the station is not held and the entry agrees. -/
theorem checkMedia_agrees (hn : (byteAt cell 2).toFin = n) (h : s.mga.held = false) (ha : (s.entry n).checkAgrees = true) :
    checkMedia p cell s =
      if (s.entry n).state ≠ .active then countPort p .inactive s
      else if (s.entry n).role ≠ .origin then countPort p .inUnknown s
      else if (s.entry n).port ≠ p then countPort p .inWrongPort s
      else match police (s.entry n) (s.run n) with
        | .dropped => countStream n .policeDrop s
        | .demoted => admitMedia cell n true s
        | .conforms => admitMedia cell n false s := by
  subst hn
  exact (if_neg (by rw [h]; decide)).trans (if_neg (by rw [ha]; decide))

theorem checkMedia_policed (hn : (byteAt cell 2).toFin = n) (h : s.mga.held = false) (ha : (s.entry n).checkAgrees = true)
    (hs : (s.entry n).state = .active) (hr : (s.entry n).role = .origin) (hp : (s.entry n).port = p) :
    checkMedia p cell s = match police (s.entry n) (s.run n) with
      | .dropped => countStream n .policeDrop s
      | .demoted => admitMedia cell n true s
      | .conforms => admitMedia cell n false s := by
  rw [checkMedia_agrees hn h ha, if_neg (by simp [hs]), if_neg (by simp [hr]), if_neg (by simp [hp])]

theorem police_dropped {e : StreamEntry} {r : RunRecord} (h : e.rate ≠ 0) (hl : r.level < 16) (hx : e.excess = .drop) :
    police e r = .dropped := by
  unfold police
  rw [if_neg (by omega), hx]

/-- A cell that is not dropped goes on, demoted when it is policed beyond its bucket. -/
theorem police_goesOn {e : StreamEntry} {r : RunRecord} (h : e.rate = 0 ∨ 16 ≤ r.level ∨ e.excess = .demote) :
    police e r = if decide (e.rate ≠ 0 ∧ r.level < 16) = true then .demoted else .conforms := by
  unfold police
  by_cases hd : e.rate = 0 ∨ 16 ≤ r.level
  · rw [if_pos hd, if_neg (by simpa using by omega)]
  · rw [if_neg hd, if_pos (by simpa using by omega), (h.resolve_left (by tauto)).resolve_left (by tauto)]

theorem checkMedia_admits (hn : (byteAt cell 2).toFin = n) (h : s.mga.held = false) (ha : (s.entry n).checkAgrees = true)
    (hs : (s.entry n).state = .active) (hr : (s.entry n).role = .origin) (hp : (s.entry n).port = p)
    (hx : (s.entry n).rate = 0 ∨ 16 ≤ (s.run n).level ∨ (s.entry n).excess = .demote) :
    checkMedia p cell s = admitMedia cell n (decide ((s.entry n).rate ≠ 0 ∧ (s.run n).level < 16)) s := by
  rw [checkMedia_policed hn h ha hs hr hp, police_goesOn hx]
  cases decide ((s.entry n).rate ≠ 0 ∧ (s.run n).level < 16) <;> rfl

end

/-- Settles O11. -/
theorem ingressDiscards : Obligations.IngressDiscards := by
  intro s p cell rest hq hr n taken media hcalm
  have hin := hcalm (.port p PortCounter.inCells.id) (by simp)
  have hport (c : PortCounter) (hc : CounterRef.port p c.id ∈ [CounterRef.port p PortCounter.inUnknown.id,
      .port p PortCounter.inWrongPort.id, .port p PortCounter.inactive.id]) (hne : c ≠ .inCells) :
      countPort p c taken = bump (.port p c.id) taken :=
    count_bump (atHalf_bump_ne (s := s.setIngress p rest) (by cases c <;> simp_all [PortCounter.id])
      (by exact hcalm _ (List.mem_cons_of_mem _ (List.mem_append_left [.stream n StreamCounter.policeDrop.id,
        .stream n StreamCounter.noLane.id, .stream n StreamCounter.admitDrop.id] hc))))
  have hstream (c : StreamCounter) (hc : CounterRef.stream n c.id ∈ [CounterRef.stream n StreamCounter.policeDrop.id,
      .stream n StreamCounter.noLane.id, .stream n StreamCounter.admitDrop.id]) :
      countStream n c taken = bump (.stream n c.id) taken :=
    count_bump (atHalf_bump_ne (s := s.setIngress p rest) (by simp)
      (by exact hcalm _ (List.mem_append_right [.port p PortCounter.inCells.id, .port p PortCounter.inUnknown.id,
        .port p PortCounter.inWrongPort.id, .port p PortCounter.inactive.id] hc)))
  have hmedia (h : media) := exec_acceptMedia hq hr h.1 h.2 hin
  refine ⟨fun h => ?_, fun h hh => ?_, fun h hh ha => ⟨fun hs => ?_, fun hs ho => ?_, fun hs ho hp => ?_, fun hs ho hp hrate hlow hx => ?_,
    fun hs ho hp hx => ?_⟩⟩
  · rw [exec_acceptForeign hq hr h hin]
    exact congrArg _ (hport .inUnknown (by simp) (by simp))
  · rw [hmedia h, checkMedia_held (by exact hh)]
    exact congrArg _ (hport .inactive (by simp) (by simp))
  · rw [hmedia h, checkMedia_agrees (n := n) rfl (by exact hh) (by exact ha), if_pos (by exact hs)]
    exact congrArg _ (hport .inactive (by simp) (by simp))
  · have hrole : (s.entry n).role ≠ .origin := by rw [ho]; decide
    rw [hmedia h, checkMedia_agrees (n := n) rfl (by exact hh) (by exact ha), if_neg (by exact fun hne => hne hs), if_pos (by exact hrole)]
    exact congrArg _ (hport .inUnknown (by simp) (by simp))
  · rw [hmedia h, checkMedia_agrees (n := n) rfl (by exact hh) (by exact ha), if_neg (by exact fun hne => hne hs),
      if_neg (by exact fun hne => hne ho), if_pos (by exact hp)]
    exact congrArg _ (hport .inWrongPort (by simp) (by simp))
  · rw [hmedia h, checkMedia_policed (n := n) rfl (by exact hh) (by exact ha) (by exact hs) (by exact ho) (by exact hp)]
    rw [show police ((tookCell p rest s).entry n) ((tookCell p rest s).run n) = .dropped from police_dropped (by exact hrate) hlow hx]
    exact congrArg _ (hstream .policeDrop (by simp))
  · intro demoted ls
    rw [hmedia h, checkMedia_admits (n := n) rfl (by exact hh) (by exact ha) (by exact hs) (by exact ho) (by exact hp) (by exact hx),
      admitMedia]
    refine ⟨fun hl => ?_, fun hl hfree => ?_⟩
    · exact congrArg _ ((if_pos hl).trans (hstream .noLane (by simp)))
    · refine congrArg _ ((if_neg hl).trans ?_)
      rw [allocateMedia_none (by exact hfree)]
      exact hstream .admitDrop (by simp)

end Sys2Proof.Machine
end

section
/-! PROOF SUPPORT. A good MEDIA cell taken by dispatch, the offers to the egress FIFOs, and the unmerged forward filter (R78, R113, R135). -/

namespace Sys2Proof.Machine

open Safety

/-! ### The cell in its buffer -/

/-- What dispatch hands on of a good MEDIA cell (R78). -/
def arrivalOf (l : Lane) (cell : List Byte) (b : Nat) : Arrival := { buffer := b, seq := seqOf cell, epoch := byteAt cell 6, lane := l }

section
variable {s : State} {l : Lane} {cell : List Byte} {n : StreamId} {b : Nat} {bs : List Nat}

theorem takeMedia_granted {c : Cell} {epoch : Epoch} (hx : (s.counter (.stream c.stream StreamCounter.rxCells.id)).atHalf = false)
    (hg : Grants s (Config.mediaThreshold c.admissionClass) b bs) :
    takeMedia l c epoch s =
      if (s.entry c.stream).merge then
        mergeUnit c.stream { buffer := b, seq := c.seq, epoch := epoch, lane := l }
          (granted b bs 1 c (bump (.stream c.stream StreamCounter.rxCells.id) s))
      else forwardFilter c.stream { buffer := b, seq := c.seq, epoch := epoch, lane := l }
          (granted b bs 1 c (bump (.stream c.stream StreamCounter.rxCells.id) s)) := by
  have hcount : countStream c.stream .rxCells s = bump (.stream c.stream StreamCounter.rxCells.id) s := count_bump hx
  unfold takeMedia
  dsimp only
  rw [hcount, allocateMedia_granted (by exact ⟨hg.free, hg.above, hg.notLow⟩)]
  rfl

/-- A good MEDIA cell counted, stored in its buffer and handed on (R78). -/
theorem exec_takesMedia (h : TakesMedia s l cell n b bs) (hg : (s.counter (.lane l LaneCounter.rxGood.id)).atHalf = false)
    (hx : (s.counter (.stream n StreamCounter.rxCells.id)).atHalf = false) :
    exec (.laneCellReceive l cell) s = .next (if (s.entry n).merge then mergeUnit n (arrivalOf l cell b) (taken l cell n b bs s)
      else forwardFilter n (arrivalOf l cell b) (taken l cell n b bs s)) := by
  obtain ⟨hgood, rfl, hheld, hagrees, hactive, hterm, hgrants⟩ := h
  have hcounter : ((counted l s).counter (.stream (byteAt cell 2).toFin StreamCounter.rxCells.id)).atHalf = false :=
    atHalf_bump_ne (by simp) ((congrArg Counter.atHalf (State.setRx_counter ..)).trans hx)
  rw [exec_goodCell_calm (kind := .media) hgood hg]
  exact congrArg _ ((dispatchMedia_takes (s := counted l s) (c := storedCell .media cell) hheld hagrees hactive hterm).trans
    (takeMedia_granted (s := counted l s) (c := storedCell .media cell) hcounter ⟨hgrants.free, hgrants.above, hgrants.notLow⟩))

end

/-! ### Offers to an egress FIFO (R135) -/

theorem egress_bump (r : CounterRef) (v : State) (p : PortId) : (bump r v).egress p = v.egress p := by rw [bump_eq]; rfl

theorem setEgress_bump (r : CounterRef) (v : State) (p : PortId) (q : List EgressEntry) :
    (bump r v).setEgress p q = bump r (v.setEgress p q) := by
  rw [bump_eq, bump_eq]
  rfl

section
variable {v : State} {n : StreamId} {p : PortId} {e : EgressEntry} {b : Nat} {seq : Seq} {epoch : Epoch}

/-- The port of the stream takes no entry: it is absent or its FIFO is full. -/
def ShutsOut (v : State) (p : PortId) : Prop := v.present p = false ∨ 512 ≤ (v.egress p).length

theorem offerEgress_joins (hport : (v.entry n).port = p) (hp : v.present p = true) (hh : v.mga.held = false)
    (hroom : (v.egress p).length < 512) : offerEgress n e v = v.setEgress p (v.egress p ++ [e]) := by
  subst hport
  exact if_pos (by rw [hp, hh]; exact decide_eq_true hroom)

theorem takesEntry_false (h : ShutsOut v p) :
    (v.present p && !v.mga.held && decide ((v.egress p).length < Config.egressDepth)) = false := by
  rcases h with h | h
  · rw [h]; rfl
  · rw [decide_eq_false (show ¬ (v.egress p).length < Config.egressDepth from Nat.not_lt.mpr h), Bool.and_false]

theorem offerEgress_drops (hport : (v.entry n).port = p) (h : ShutsOut v p) :
    offerEgress n e v = match e with
      | .media b _ _ => countPort p .outDrop (countStream n .egressDrop (dereference b v))
      | _ => countPort p .outDrop v := by
  subst hport
  exact if_neg (by rw [takesEntry_false h]; exact Bool.false_ne_true)

/-- A delivery counted and recorded (R103, R113). -/
def delivering (n : StreamId) (seq : Seq) (epoch : Epoch) (v : State) : State :=
  (bump (.stream n StreamCounter.delivered.id) v).setRun n { v.run n with lastValid := true, lastSeq := seq, lastEpoch := epoch }

theorem deliver_calm (hc : (v.counter (.stream n StreamCounter.delivered.id)).atHalf = false) :
    deliver n b seq epoch v = offerEgress n (.media b n seq) (delivering n seq epoch v) := by
  have hcount : countStream n .delivered v = bump (.stream n StreamCounter.delivered.id) v := count_bump hc
  rw [deliver, hcount]
  rfl

theorem delivering_entry (m : StreamId) : ((delivering n seq epoch v).entry m) = v.entry m := State.entry_setRun ..

theorem deliver_joins (hport : (v.entry n).port = p) (hp : v.present p = true) (hh : v.mga.held = false)
    (hroom : (v.egress p).length < 512) (hc : (v.counter (.stream n StreamCounter.delivered.id)).atHalf = false) :
    deliver n b seq epoch v = delivering n seq epoch (v.setEgress p (v.egress p ++ [.media b n seq])) := by
  rw [deliver_calm hc, offerEgress_joins (p := p) (by exact hport) (by exact hp) (by exact hh) (by exact hroom)]
  rfl

/-! ### A resync announced (R97, R113) -/

theorem announceResync_marks (hport : (v.entry n).port = p) (hp : v.present p = true) (hh : v.mga.held = false)
    (hroom : (v.egress p).length < 512) (hc : (v.counter (.stream n StreamCounter.resync.id)).atHalf = false) :
    announceResync n seq v = bump (.stream n StreamCounter.resync.id)
      (v.setEgress p (v.egress p ++ (if (v.entry n).gapMarkers then [.gap n seq 0 true] else []))) := by
  have hcount : countStream n .resync v = bump (.stream n StreamCounter.resync.id) v := count_bump hc
  rw [announceResync, hcount, offerGap]
  by_cases hg : (v.entry n).gapMarkers = true
  · rw [if_pos (by exact hg), if_pos hg, offerEgress_joins (p := p) (by exact hport) (by exact hp) (by exact hh) (by exact hroom)]
    rfl
  · rw [if_neg (by exact hg), if_neg hg, List.append_nil, setEgress_self rfl]

/-! ### The forward filter (R113) -/

theorem isAhead_iff {last seq : Seq} : isAhead last seq = true ↔ 0 < (seq - last).toNat ∧ (seq - last).toNat < 32768 :=
  (Bool.and_eq_true_iff).trans (and_congr decide_eq_true_iff decide_eq_true_iff)

/-- The filter for a stream that does not merge. -/
theorem forwardFilter_unmerged {a : Arrival} (hm : (v.entry n).merge = false) : forwardFilter n a v =
    if !(v.run n).lastValid || ((v.run n).lastValid && a.epoch != (v.run n).lastEpoch) || isAhead (v.run n).lastSeq a.seq then
      deliver n a.buffer a.seq a.epoch
        (if (v.run n).lastValid && a.epoch != (v.run n).lastEpoch then announceResync n a.seq v else v)
    else dereference a.buffer (countStream n .late v) := by
  unfold forwardFilter
  dsimp only
  rw [hm]
  rfl

theorem forwardFilter_delivers {a : Arrival} (hm : (v.entry n).merge = false)
    (h : (v.run n).lastValid = false ∨
      (a.epoch = (v.run n).lastEpoch ∧ 0 < (a.seq - (v.run n).lastSeq).toNat ∧ (a.seq - (v.run n).lastSeq).toNat < 32768)) :
    forwardFilter n a v = deliver n a.buffer a.seq a.epoch v := by
  have hsame : ((v.run n).lastValid && a.epoch != (v.run n).lastEpoch) = false := by
    rcases h with h | ⟨h, -⟩ <;> simp [h]
  have hgo : (!(v.run n).lastValid || isAhead (v.run n).lastSeq a.seq) = true := by
    rcases h with h | ⟨-, h⟩
    · simp [h]
    · simp [isAhead_iff.2 h]
  rw [forwardFilter_unmerged hm, hsame, Bool.or_false, if_pos hgo, if_neg Bool.false_ne_true]

theorem forwardFilter_resyncs {a : Arrival} (hm : (v.entry n).merge = false) (hv : (v.run n).lastValid = true)
    (h : a.epoch ≠ (v.run n).lastEpoch) :
    forwardFilter n a v = deliver n a.buffer a.seq a.epoch (announceResync n a.seq v) := by
  have hnew : ((v.run n).lastValid && a.epoch != (v.run n).lastEpoch) = true := by simp [hv, h]
  rw [forwardFilter_unmerged hm, hnew, Bool.or_true, Bool.true_or, if_pos rfl, if_pos rfl]

theorem forwardFilter_late {a : Arrival} (hm : (v.entry n).merge = false) (hv : (v.run n).lastValid = true)
    (h : a.epoch = (v.run n).lastEpoch) (hd : (a.seq - (v.run n).lastSeq).toNat = 0 ∨ 32768 ≤ (a.seq - (v.run n).lastSeq).toNat) :
    forwardFilter n a v = dereference a.buffer (countStream n .late v) := by
  have hstop : (!(v.run n).lastValid || ((v.run n).lastValid && a.epoch != (v.run n).lastEpoch) || isAhead (v.run n).lastSeq a.seq) = false := by
    have : isAhead (v.run n).lastSeq a.seq = false := Bool.eq_false_iff.2 fun hi => by have := isAhead_iff.1 hi; omega
    simp [hv, h, this]
  rw [forwardFilter_unmerged hm, hstop, if_neg Bool.false_ne_true]

end

/-! ### The state in which the cell is taken -/

section
variable {s : State} {l : Lane} {cell : List Byte} {n : StreamId} {b : Nat} {bs : List Nat}

theorem taken_calm {c : Fin 16} (hne : c ≠ StreamCounter.rxCells.id) (h : (s.counter (.stream n c)).atHalf = false) :
    ((taken l cell n b bs s).counter (.stream n c)).atHalf = false := by
  have hne' : CounterRef.stream n c ≠ .stream n StreamCounter.rxCells.id := fun hr => hne (CounterRef.stream.inj hr).2
  exact atHalf_bump_ne (s := counted l s) hne' (atHalf_bump_ne (s := headerPassed l s) (by simp)
    ((congrArg Counter.atHalf (State.setRx_counter ..)).trans h))

theorem buffer_taken : (taken l cell n b bs s).buffer b = { refs := 1, cell := storedCell .media cell, checkAgrees := true } :=
  buffer_granted b bs (by decide) _ _

end

/-- Settles O26. -/
theorem unmergedDelivers : Obligations.UnmergedDelivers := by
  intro s l cell n b bs h hm seq x p ahead isNew delivered hcalm
  have hexec : exec (.laneCellReceive l cell) s = .next (forwardFilter n (arrivalOf l cell b) (taken l cell n b bs s)) := by
    rw [exec_takesMedia h (hcalm _ (by simp)) (hcalm _ (by simp)), hm]
    rfl
  have hdelivered := taken_calm (c := StreamCounter.delivered.id) (l := l) (cell := cell) (b := b) (bs := bs) (by decide)
    (hcalm (.stream n StreamCounter.delivered.id) (by simp))
  have hresync := taken_calm (c := StreamCounter.resync.id) (l := l) (cell := cell) (b := b) (bs := bs) (by decide) (hcalm (.stream n StreamCounter.resync.id) (by simp))
  have hlate := taken_calm (c := StreamCounter.late.id) (l := l) (cell := cell) (b := b) (bs := bs) (by decide) (hcalm (.stream n StreamCounter.late.id) (by simp))
  refine ⟨fun hnew hp hroom => ?_, fun hv hne hp hroom => ?_, fun hv he hd => ?_⟩
  · rw [hexec, forwardFilter_delivers (by exact hm) (by exact hnew),
      deliver_joins (p := p) (by exact rfl) (by exact hp) (by exact h.notHeld) (by exact hroom) (by exact hdelivered)]
    rfl
  · have hmark : announceResync n seq (taken l cell n b bs s) = _ :=
      announceResync_marks (p := p) (by exact rfl) (by exact hp) (by exact h.notHeld) (by exact Nat.lt_succ_of_lt hroom) (by exact hresync)
    have hfull : ((taken l cell n b bs s).egress p ++ (if (s.entry n).gapMarkers then [EgressEntry.gap n seq 0 true] else [])).length < 512 := by
      rw [List.length_append]
      have : (s.egress p).length < 511 := hroom
      have : (if (s.entry n).gapMarkers then [EgressEntry.gap n seq 0 true] else []).length ≤ 1 := by split <;> simp
      exact Nat.lt_of_le_of_lt (Nat.add_le_add_left this _) (Nat.succ_lt_succ hroom)
    rw [hexec, forwardFilter_resyncs (by exact hm) (by exact hv) (by exact hne)]
    show Host.Outcome.next (deliver n b seq (byteAt cell 6) (announceResync n seq (taken l cell n b bs s))) = _
    rw [hmark, deliver_joins (p := p) (by exact rfl) (by exact hp) (by exact h.notHeld)
      (by rw [egress_bump, State.egress_setEgress_self]; exact hfull) (by exact atHalf_bump_ne (by simp; decide) hdelivered),
      setEgress_bump, setEgress_setEgress, egress_bump, State.egress_setEgress_self]
    rfl
  · rw [hexec, forwardFilter_late (by exact hm) (by exact hv) (by exact he) (by exact hd)]
    have hcount : countStream n .late (taken l cell n b bs s) = bump (.stream n StreamCounter.late.id) (taken l cell n b bs s) :=
      count_bump hlate
    rw [hcount]
    exact congrArg _ (dereference_returned (congrArg Buffer.refs buffer_taken))

end Sys2Proof.Machine
end

section
/-! PROOF SUPPORT. A cell that reaches the context of its stream: the classification of section 6.3 and the slot it takes (R98, R99). -/

namespace Sys2Proof.Machine

open Safety

/-! ### Writes of one context and of one runtime record -/

theorem setContext_setContext (s : State) (c : ContextId) (x y : Context) : (s.setContext c x).setContext c y = s.setContext c y := by
  simp only [State.setContext, put_put]

theorem setRun_setRun (s : State) (n : StreamId) (x y : RunRecord) : (s.setRun n x).setRun n y = s.setRun n y := by
  simp only [State.setRun, put_put]

theorem setContext_bump (r : CounterRef) (v : State) (c : ContextId) (x : Context) :
    (bump r v).setContext c x = bump r (v.setContext c x) := by
  rw [bump_eq, bump_eq]
  rfl

section
variable {v : State} {n : StreamId} {c : ContextId} {a : Arrival}

/-- The arrival flag set for a cell of the context (R97). -/
def arrivedAt (c : ContextId) (v : State) : State := v.setContext c { v.context c with arrived := true }

theorem context_arrivedAt : (arrivedAt c v).context c = { v.context c with arrived := true } := State.context_setContext_self ..

/-- A cell of a stream with a synced context is classified (R95, R98). -/
theorem mergeUnit_classifies (h : (v.run n).context = some c) (hs : (v.context c).synced = true) :
    mergeUnit n a v = classify c n a (arrivedAt c v) := by
  have hsync : ((arrivedAt c v).context c).synced = true := by rw [context_arrivedAt]; exact hs
  unfold mergeUnit
  rw [h]
  exact if_pos hsync

/-! ### Classification (R98) -/

theorem classify_stores (he : a.epoch = (v.context c).epoch) (hd : (a.seq - (v.context c).next).toNat < (v.context c).depth) :
    classify c n a v = storeAt c n (a.seq - (v.context c).next).toNat a v :=
  (if_neg (not_not.mpr he)).trans (if_pos hd)

theorem classify_late (he : a.epoch = (v.context c).epoch) (hd : (v.context c).depth ≤ (a.seq - (v.context c).next).toNat)
    (hl : 32768 ≤ (a.seq - (v.context c).next).toNat) : classify c n a v = dereference a.buffer (countStream n .late v) :=
  (if_neg (not_not.mpr he)).trans ((if_neg (Nat.not_lt.mpr hd)).trans (if_pos hl))

theorem classify_jumps (he : a.epoch = (v.context c).epoch) (hd : (v.context c).depth ≤ (a.seq - (v.context c).next).toNat)
    (hl : (a.seq - (v.context c).next).toNat ≤ 4095) :
    classify c n a v = jump c n (a.seq - (v.context c).next).toNat a v :=
  (if_neg (not_not.mpr he)).trans ((if_neg (Nat.not_lt.mpr hd)).trans ((if_neg (Nat.not_le.mpr (Nat.lt_of_le_of_lt hl (by decide)))).trans
    (if_pos (Nat.lt_succ_of_le hl))))

theorem classify_resyncs (hd : (v.context c).depth ≤ 32)
    (h : a.epoch ≠ (v.context c).epoch ∨
      (4096 ≤ (a.seq - (v.context c).next).toNat ∧ (a.seq - (v.context c).next).toNat ≤ 32767)) :
    classify c n a v = resync c n a v := by
  by_cases he : a.epoch = (v.context c).epoch
  · obtain ⟨hlow, hhigh⟩ := h.resolve_left (not_not.mpr he)
    exact (if_neg (not_not.mpr he)).trans ((if_neg (Nat.not_lt.mpr (hd.trans (Nat.le_trans (by decide) hlow)))).trans
      ((if_neg (Nat.not_le.mpr (Nat.lt_succ_of_le hhigh))).trans
      (if_neg (Nat.not_lt.mpr hlow))))
  · exact if_pos he

/-! ### The slot of a cell (R99) -/

/-- The cell as its slot holds it. -/
def heldBy (a : Arrival) (hold : Nat) (v : State) : Held :=
  { buffer := a.buffer, arrival := v.now, lane := a.lane, release := v.now + BitVec.ofNat 32 hold }

theorem storeAt_fills {d : Nat} (hs : (v.context c).slot d = none) (hh : v.mga.held = false) :
    storeAt c n d a v = v.setContext c
      { v.context c with slots := (v.context c).slots.set d (some (heldBy a (v.context c).hold v)), checkAgrees := true } := by
  unfold storeAt
  dsimp only
  rw [hs]
  exact if_neg (by rw [hh]; exact Bool.false_ne_true)

theorem storeAt_repeats {d : Nat} {h : Held} (hs : (v.context c).slot d = some h)
    (hc : (v.counter (.stream n StreamCounter.dup.id)).atHalf = false) (hb : (v.buffer a.buffer).refs = 1) :
    storeAt c n d a v = (returned a.buffer (bump (.stream n StreamCounter.dup.id) v)).setContext c
      { v.context c with worstGap := max (v.context c).worstGap (min (v.now - h.arrival).toNat 65535) } := by
  have hcount : countStream n .dup v = bump (.stream n StreamCounter.dup.id) v := count_bump hc
  unfold storeAt
  dsimp only
  rw [hs]
  dsimp only
  rw [hcount, dereference_returned (by exact hb)]
  rfl

theorem slot_of_getElem? {x : Context} {d : Nat} {o : Option Held} (h : x.slots[d]? = some o) : x.slot d = o := by
  rw [Context.slot, List.getD_eq_getElem?_getD, h]
  rfl

end

section
variable {s : State} {l : Lane} {cell : List Byte} {n : StreamId} {b : Nat} {bs : List Nat} {c : ContextId}

/-- A good MEDIA cell of a merged stream with a synced context is classified there (R95, R98). -/
theorem exec_classifies (h : TakesMedia s l cell n b bs) (hm : (s.entry n).merge = true) (hx : (s.run n).context = some c)
    (hs : (s.context c).synced = true) (hg : (s.counter (.lane l LaneCounter.rxGood.id)).atHalf = false)
    (hr : (s.counter (.stream n StreamCounter.rxCells.id)).atHalf = false) :
    exec (.laneCellReceive l cell) s =
      .next (classify c n (arrivalOf l cell b) (arrivedAt c (taken l cell n b bs s))) := by
  rw [exec_takesMedia h hg hr, if_pos hm, mergeUnit_classifies (by exact hx) (by exact hs)]

end

/-- Settles O28. -/
theorem windowStores : Obligations.WindowStores := by
  intro s l cell n c b bs hgood seq demoted cls d good stored hn hheld hagrees hactive hterm hm hx hsync hepoch hd hlen hgrants hcalm
  have h : TakesMedia s l cell n b bs := ⟨hgood, hn, hheld, hagrees, hactive, hterm, hgrants⟩
  have hat : (arrivedAt c (taken l cell n b bs s)).context c = { s.context c with arrived := true } := context_arrivedAt
  have hdup : ((arrivedAt c (taken l cell n b bs s)).counter (.stream n StreamCounter.dup.id)).atHalf = false :=
    taken_calm (c := StreamCounter.dup.id) (cell := cell) (b := b) (bs := bs) (by decide) (hcalm _ (by simp))
  have hexec : exec (.laneCellReceive l cell) s = .next (storeAt c n d (arrivalOf l cell b) (arrivedAt c (taken l cell n b bs s))) := by
    rw [exec_classifies h hm hx hsync (hcalm _ (by simp)) (hcalm _ (by simp)),
      classify_stores (by rw [hat]; exact hepoch.symm) (by rw [hat]; exact hd), hat]
    rfl
  refine ⟨fun hslot => ?_, fun held hslot => ?_⟩
  · rw [hexec, storeAt_fills (by rw [hat]; exact slot_of_getElem? hslot) (by exact hheld), hat]
    exact congrArg _ (setContext_setContext ..)
  · rw [hexec, storeAt_repeats (by rw [hat]; exact slot_of_getElem? hslot) hdup
      (by exact congrArg Buffer.refs (buffer_taken (s := s) (l := l) (n := n) (b := b) (bs := bs) (cell := cell))), hat]
    exact congrArg _ (setContext_setContext (returned b (bump (.stream n StreamCounter.dup.id) (taken l cell n b bs s))) c _ _)

end Sys2Proof.Machine
end

section
/-! PROOF SUPPORT. Counters below their half mark (R143, R145), and the window of a context as it moves on (R93, R103). -/

namespace Sys2Proof.Machine

open Safety

/-! ### Counters below the half mark -/

/-- The counter can be counted `m` times without coming to its half mark. -/
def Below (s : State) (r : CounterRef) (m : Nat) : Prop := (s.counter r).value.toNat + m < 2147483648

section
variable {s t u : State} {r q : CounterRef} {k m : Nat}

theorem below_of_far {rs : List CounterRef} (h : Far s rs) (hr : r ∈ rs) : Below s r 8192 := h r hr

theorem below_mono (h : Below s r m) (hk : k ≤ m) : Below s r k := by
  unfold Below at *
  omega

theorem calm_of_below (h : Below s r m) (hm : 1 ≤ m) : (s.counter r).atHalf = false := by
  unfold Below at h
  exact atHalf_false (by omega)

theorem counted_refl (s : State) (r : CounterRef) : Counted s s r 0 := by
  show s.counter r = { value := (s.counter r).value + 0, overflow := (s.counter r).overflow }
  rw [show (s.counter r).value + 0 = (s.counter r).value from BitVec.add_zero _]

theorem counted_congr (h : Counted s t r k) (hu : u.counter r = t.counter r) : Counted s u r k := hu.trans h

theorem below_counted (hc : Counted s t r k) (h : Below s r (k + m)) : Below t r m := by
  have hval : (t.counter r).value.toNat = (s.counter r).value.toNat + k := by
    unfold Below at h
    rw [hc, BitVec.toNat_add, BitVec.toNat_ofNat]
    omega
  unfold Below at *
  omega

theorem below_congr (h : Below s r m) (ht : t.counter r = s.counter r) : Below t r m := by
  unfold Below at *
  rw [ht]
  exact h

theorem increment_below (h : Below s r 1) :
    (s.counter r).increment = { value := (s.counter r).value + 1, overflow := (s.counter r).overflow } := by
  have hne : ((s.counter r).value == BitVec.allOnes 32) = false := by
    refine beq_eq_false_iff_ne.2 fun he => ?_
    unfold Below at h
    rw [he] at h
    simp at h
  rw [Counter.increment, hne, Bool.or_false]

theorem counted_bump (hc : Counted s t r k) (h : Below s r (k + 1)) : Counted s (bump r t) r (k + 1) := by
  have hone : ((t.counter r).increment) = _ := increment_below (below_counted hc h)
  have hsum : (1 : BitVec 32) = BitVec.ofNat 32 1 := rfl
  unfold Counted
  rw [counter_bump, if_pos rfl, hone, hc, hsum, BitVec.add_assoc, ← BitVec.ofNat_add]

theorem counted_bump_ne (hc : Counted s t r k) (hne : r ≠ q) : Counted s (bump q t) r k :=
  counted_congr hc (by rw [counter_bump, if_neg hne])

theorem bumps_succ (r : CounterRef) (k : Nat) (s : State) : bumps r (k + 1) s = bump r (bumps r k s) :=
  Function.iterate_succ_apply' ..

theorem counter_bumps_ne (hne : q ≠ r) (k : Nat) (s : State) : (bumps r k s).counter q = s.counter q := by
  induction k with
  | zero => rfl
  | succ k ih => rw [bumps_succ, counter_bump, if_neg hne, ih]

theorem counted_bumps (h : Below s r k) : Counted s (bumps r k s) r k := by
  induction k with
  | zero => exact counted_refl s r
  | succ k ih =>
    rw [bumps_succ]
    exact counted_bump (ih (below_mono h (Nat.le_succ k))) h

theorem countTimes_eq_bumps (h : Below s r k) : countTimes r k s = bumps r k s := by
  induction k generalizing s with
  | zero => rfl
  | succ k ih =>
    have hone : Counted s (bump r s) r 1 := counted_bump (counted_refl s r) (below_mono h (by omega))
    rw [countTimes, count_bump (calm_of_below h (by omega)), ih (below_counted hone (below_mono h (by omega)))]
    exact (Function.iterate_succ_apply ..).symm

theorem counted_trans {j : Nat} (h : Counted s t r k) (h' : Counted t u r j) : Counted s u r (k + j) := by
  unfold Counted at *
  rw [h', h, BitVec.add_assoc, ← BitVec.ofNat_add]

end

/-! ### The state behind several counts -/

theorem bumps_eq (r : CounterRef) (k : Nat) (s : State) : ∃ x, bumps r k s = s.setCnt x := by
  induction k with
  | zero => exact ⟨s.cnt, rfl⟩
  | succ k ih =>
    obtain ⟨x, hx⟩ := ih
    exact ⟨_, by rw [bumps_succ, hx, bump_eq]; rfl⟩

/-! ### The window moved on (R93) -/

section
variable {x : Context} {j k : Nat}

theorem slot_advanced (x : Context) (k i : Nat) : (x.advanced k).slot i = x.slot (k + i) := by
  simp only [Context.slot, Context.advanced, List.getD_eq_getElem?_getD, List.getElem?_append, List.getElem?_drop, List.length_drop]
  split
  · rfl
  · have hnone : x.slots[k + i]? = none := List.getElem?_eq_none (by omega)
    rw [hnone, List.getElem?_replicate]
    split <;> rfl

theorem length_advanced (x : Context) (k : Nat) : (x.advanced k).slots.length = x.slots.length := by
  simp only [Context.advanced, List.length_append, List.length_drop, List.length_replicate]
  omega

theorem slots_ext {xs ys : List (Option Held)} (hl : xs.length = ys.length) (h : ∀ i, xs.getD i none = ys.getD i none) : xs = ys := by
  refine List.ext_getElem hl fun i hx hy => ?_
  have hi := h i
  rwa [List.getD_eq_getElem _ _ hx, List.getD_eq_getElem _ _ hy] at hi

theorem advanced_advanced (x : Context) (j k : Nat) : (x.advanced j).advanced k = x.advanced (j + k) := by
  have hslots : ((x.advanced j).advanced k).slots = (x.advanced (j + k)).slots :=
    slots_ext (by rw [length_advanced, length_advanced, length_advanced]) fun i => by
      show ((x.advanced j).advanced k).slot i = (x.advanced (j + k)).slot i
      rw [slot_advanced, slot_advanced, slot_advanced, Nat.add_assoc]
  have hnext : ((x.advanced j).advanced k).next = (x.advanced (j + k)).next := by
    show x.next + BitVec.ofNat 16 j + BitVec.ofNat 16 k = x.next + BitVec.ofNat 16 (j + k)
    rw [BitVec.add_assoc, ← BitVec.ofNat_add]
  exact congrArg₂ (fun a b => { x with next := a, slots := b }) hnext hslots

theorem advanced_zero (x : Context) : x.advanced 0 = x := by
  simp [Context.advanced]

/-! ### The held cells as egress entries (R103) -/

/-- The entry that slot `k` makes, if it holds a cell. -/
def entryOf (n : StreamId) (x : Context) (k : Nat) : List EgressEntry :=
  ((x.slot k).map (fun h => EgressEntry.media h.buffer n (x.next + BitVec.ofNat 16 k))).toList

theorem entriesOf_zero (n : StreamId) (x : Context) : entriesOf n x 0 = [] := rfl

theorem entriesOf_succ (n : StreamId) (x : Context) (k : Nat) : entriesOf n x (k + 1) = entriesOf n x k ++ entryOf n x k := by
  unfold entriesOf entryOf Context.slot
  by_cases hk : k < x.slots.length
  · rw [List.take_add_one, List.getElem?_eq_getElem hk, List.zipIdx_append, List.filterMap_append, List.getD_eq_getElem _ _ hk]
    congr 1
    simp only [Option.toList_some, List.length_take, Nat.min_eq_left hk.le, List.zipIdx_singleton, List.filterMap_cons,
      List.filterMap_nil, Nat.zero_add]
    cases x.slots[k] <;> rfl
  · rw [List.take_of_length_le (by omega), List.take_of_length_le (by omega), List.getD_eq_default _ _ (by omega)]
    exact (List.append_nil _).symm

theorem entryOf_none {n : StreamId} (h : x.slot k = none) : entryOf n x k = [] := by
  rw [entryOf, h]
  rfl

theorem entryOf_some {n : StreamId} {h : Held} (hs : x.slot k = some h) :
    entryOf n x k = [.media h.buffer n (x.next + BitVec.ofNat 16 k)] := by
  rw [entryOf, hs]
  rfl

/-- Slots that hold nothing make no entry. -/
theorem entriesOf_skip {n : StreamId} (h : ∀ i, i < j → x.slot (k + i) = none) : entriesOf n x (k + j) = entriesOf n x k := by
  induction j with
  | zero => rfl
  | succ j ih =>
    rw [← Nat.add_assoc, entriesOf_succ, entryOf_none (h j (Nat.lt_succ_self j)), List.append_nil,
      ih fun i hi => h i (Nat.lt_succ_of_lt hi)]

theorem slot_past (h : x.slots.length ≤ k) : x.slot k = none := List.getD_eq_default _ _ h

theorem entriesOf_past {n : StreamId} (h : x.slots.length ≤ k) : entriesOf n x k = entriesOf n x x.slots.length := by
  unfold entriesOf
  rw [List.take_of_length_le h, List.take_length]

end

end Sys2Proof.Machine
end

section
/-! PROOF SUPPORT. Releases and loss declarations one by one, and the whole of a window passed or released (R103, R104). -/

namespace Sys2Proof.Machine

open Safety

/-! ### One release -/

/-- The window one sequence on, its release instant now (R103). -/
def releasedHead (c : ContextId) (t : State) : Context :=
  { (t.context c).advanced 1 with lastRelease := some t.now, checkAgrees := true }

section
variable {s t : State} {c : ContextId} {n : StreamId} {p : PortId} {h : Held} {m : Nat}

theorem releaseHead_delivers (hs : (t.context c).slot 0 = some h) :
    releaseHead c n t = deliver n h.buffer (t.context c).next (t.context c).epoch (t.setContext c (releasedHead c t)) := by
  unfold releaseHead
  dsimp only
  rw [hs]
  rfl

theorem releaseHead_joins (hs : (t.context c).slot 0 = some h) (hport : (t.entry n).port = p) (hp : t.present p = true)
    (hh : t.mga.held = false) (hroom : (t.egress p).length < 512)
    (hc : (t.counter (.stream n StreamCounter.delivered.id)).atHalf = false) :
    releaseHead c n t = delivering n (t.context c).next (t.context c).epoch
      ((t.setContext c (releasedHead c t)).setEgress p (t.egress p ++ [.media h.buffer n (t.context c).next])) := by
  rw [releaseHead_delivers hs, deliver_joins (p := p) (by exact hport) (by exact hp) (by exact hh) (by exact hroom) (by exact hc)]
  rfl

/-! ### One loss declaration (R104) -/

/-- The missing sequences counted and the loss recorded with its event. -/
def lossRecorded (c : ContextId) (n : StreamId) (m : Nat) (t : State) : State :=
  flaggedAs srcStreamLoss (.loss n (t.context c).next m)
    ((bumps (.stream n StreamCounter.lost.id) m t).setRun n { t.run n with lossFirst := (t.context c).next, lossCount := m })

theorem declarePiece_records (hc : Below t (.stream n StreamCounter.lost.id) m) (hs : Silent t srcStreamLoss) :
    declarePiece c n m t =
      (offerGap n (t.context c).next m false (lossRecorded c n m t)).setContext c
        (((offerGap n (t.context c).next m false (lossRecorded c n m t)).context c).advanced m).resealed := by
  obtain ⟨x, hx⟩ := bumps_eq (.stream n StreamCounter.lost.id) m t
  have hrecord : fire srcStreamLoss (.loss n (t.context c).next m)
      ((bumps (.stream n StreamCounter.lost.id) m t).setRun n
        { (bumps (.stream n StreamCounter.lost.id) m t).run n with lossFirst := (t.context c).next, lossCount := m }) =
      lossRecorded c n m t := by
    have hrun : (bumps (.stream n StreamCounter.lost.id) m t).run n = t.run n := by rw [hx]; rfl
    rw [hrun, fire_flaggedAs (by rw [hx]; exact ⟨hs.notFault, hs.unbound, hs.quiet⟩)]
    rfl
  unfold declarePiece
  dsimp only
  rw [countTimes_eq_bumps hc, hrecord]

theorem lossRecorded_eq (c : ContextId) (n : StreamId) (m : Nat) (t : State) : ∃ x y, lossRecorded c n m t =
    ((t.setCnt x).setRun n { t.run n with lossFirst := (t.context c).next, lossCount := m }).setSource srcStreamLoss y := by
  obtain ⟨x, hx⟩ := bumps_eq (.stream n StreamCounter.lost.id) m t
  rw [lossRecorded, hx, flaggedAs_eq]
  exact ⟨x, _, rfl⟩

/-- The gap entry of a loss, when the stream's gap markers are ON. -/
def lossMark (n : StreamId) (first : Seq) (m : Nat) (t : State) : List EgressEntry :=
  if (t.entry n).gapMarkers then [.gap n first m false] else []

theorem declarePiece_joins (hc : Below t (.stream n StreamCounter.lost.id) m) (hs : Silent t srcStreamLoss)
    (hport : (t.entry n).port = p) (hp : t.present p = true) (hh : t.mga.held = false) (hroom : (t.egress p).length < 512) :
    declarePiece c n m t =
      ((lossRecorded c n m t).setEgress p (t.egress p ++ lossMark n (t.context c).next m t)).setContext c
        ((t.context c).advanced m).resealed := by
  obtain ⟨x, y, hxy⟩ := lossRecorded_eq c n m t
  have hoffer : offerGap n (t.context c).next m false (lossRecorded c n m t) =
      (lossRecorded c n m t).setEgress p (t.egress p ++ lossMark n (t.context c).next m t) := by
    rw [hxy, offerGap, lossMark]
    by_cases hg : (t.entry n).gapMarkers = true
    · rw [if_pos (by exact hg), if_pos hg, offerEgress_joins (p := p) (by exact hport) (by exact hp) (by exact hh) (by exact hroom)]
      rfl
    · rw [if_neg (by exact hg), if_neg hg, List.append_nil]
      exact (setEgress_self rfl).symm
  rw [declarePiece_records hc hs, hoffer, hxy]
  rfl

end

/-! ### What the passing of a window leaves -/

/-- What no release and no declaration touches while nothing is dropped. -/
structure MergeFrame (s t : State) : Prop where
  pins : t.pins = s.pins
  lck : t.lck = s.lck
  bfm : t.bfm = s.bfm
  entries : t.stb.entries = s.stb.entries
  ltx : t.ltx = s.ltx
  lrx : t.lrx = s.lrx
  psc : t.psc = s.psc
  mga : t.mga = s.mga

/-- `t` is `s` with the first `k` sequences of the window of context `c` passed (R93, R103). -/
structure Passing (c : ContextId) (n : StreamId) (s : State) (k : Nat) (t : State) : Prop where
  frame : MergeFrame s t
  window : t.context c = { (s.context c).advanced k with
    lastRelease := if entriesOf n (s.context c) k = [] then (s.context c).lastRelease else some s.now
    checkAgrees := (t.context c).checkAgrees }
  delivered : Counted s t (.stream n StreamCounter.delivered.id) (entriesOf n (s.context c) k).length
  others : ∀ r, r ≠ .stream n StreamCounter.delivered.id → r ≠ .stream n StreamCounter.lost.id → t.counter r = s.counter r
  silent : Silent s srcStreamLoss → Silent t srcStreamLoss

section
variable {s t : State} {c : ContextId} {n : StreamId} {p : PortId} {h : Held} {k m : Nat}

theorem mergeFrame_entry (hf : MergeFrame s t) (n : StreamId) : t.entry n = s.entry n := by
  rw [State.entry, hf.entries]
  rfl

theorem mergeFrame_present (hf : MergeFrame s t) (p : PortId) : t.present p = s.present p := by
  rw [State.present, hf.pins]
  rfl

theorem passing_zero (c : ContextId) (n : StreamId) (s : State) : Passing c n s 0 s where
  frame := ⟨rfl, rfl, rfl, rfl, rfl, rfl, rfl, rfl⟩
  window := by rw [advanced_zero, entriesOf_zero, if_pos rfl]
  delivered := counted_refl ..
  others := fun _ _ _ => rfl
  silent := id

theorem passing_slot (hk : Passing c n s k t) (i : Nat) : (t.context c).slot i = (s.context c).slot (k + i) := by
  rw [hk.window]
  exact slot_advanced ..

theorem passing_next (hk : Passing c n s k t) : (t.context c).next = (s.context c).next + BitVec.ofNat 16 k := by
  rw [hk.window]
  rfl

theorem passing_epoch (hk : Passing c n s k t) : (t.context c).epoch = (s.context c).epoch := by
  rw [hk.window]
  rfl

/-- The window moved on past empty slots. -/
theorem passing_skip {x : Context} (hk : Passing c n s k t) (hx : x = { (t.context c).advanced m with checkAgrees := x.checkAgrees })
    (he : ∀ i, i < m → (s.context c).slot (k + i) = none) : Passing c n s (k + m) (t.setContext c x) where
  frame := ⟨hk.frame.pins, hk.frame.lck, hk.frame.bfm, hk.frame.entries, hk.frame.ltx, hk.frame.lrx, hk.frame.psc, hk.frame.mga⟩
  window := by
    rw [State.context_setContext_self, entriesOf_skip he, hx, hk.window, ← advanced_advanced]
    rfl
  delivered := by
    rw [entriesOf_skip he]
    exact hk.delivered
  others := hk.others
  silent := fun hs => ⟨(hk.silent hs).notFault, (hk.silent hs).unbound, (hk.silent hs).quiet⟩

/-- A held cell at the head released. -/
theorem passing_release (hk : Passing c n s k t) (hs : (s.context c).slot k = some h) (hport : (s.entry n).port = p)
    (hp : s.present p = true) (hh : s.mga.held = false) (hroom : (t.egress p).length < 512)
    (hfar : Below s (.stream n StreamCounter.delivered.id) ((entriesOf n (s.context c) k).length + 1)) :
    Passing c n s (k + 1) (releaseHead c n t) ∧
      (releaseHead c n t).egress p = t.egress p ++ entryOf n (s.context c) k ∧
      (releaseHead c n t).evu = t.evu ∧
      (releaseHead c n t).counter (.stream n StreamCounter.lost.id) = t.counter (.stream n StreamCounter.lost.id) ∧
      ∀ o, o ≠ p → (releaseHead c n t).egress o = t.egress o := by
  have hslot : (t.context c).slot 0 = some h := (passing_slot hk 0).trans hs
  have hcalm := calm_of_below (below_counted hk.delivered hfar) le_rfl
  have hentry : entryOf n (s.context c) k = [.media h.buffer n (t.context c).next] := by rw [entryOf_some hs, passing_next hk]
  rw [releaseHead_joins hslot (by rw [mergeFrame_entry hk.frame]; exact hport) (by rw [mergeFrame_present hk.frame]; exact hp)
    (by rw [hk.frame.mga]; exact hh) hroom hcalm, hentry]
  have hnil : entriesOf n (s.context c) (k + 1) ≠ [] := by
    rw [entriesOf_succ, entryOf_some hs]
    simp
  refine ⟨⟨⟨hk.frame.pins, hk.frame.lck, hk.frame.bfm, hk.frame.entries, hk.frame.ltx, hk.frame.lrx, hk.frame.psc, hk.frame.mga⟩,
    ?_, ?_, ?_, fun hq => ⟨(hk.silent hq).notFault, (hk.silent hq).unbound, (hk.silent hq).quiet⟩⟩, ?_, rfl, ?_,
    fun o ho => (State.egress_setEgress ..).trans (if_neg ho)⟩
  · have hctx : ∀ (q : List EgressEntry) (a : Seq) (e : Epoch) (x : Context),
        (delivering n a e ((t.setContext c x).setEgress p q)).context c = x := fun q a e x => State.context_setContext_self ..
    have hnow : t.now = s.now := by rw [State.now, hk.frame.lck]; rfl
    rw [hctx, if_neg hnil, releasedHead, hnow, hk.window, ← advanced_advanced]
    rfl
  · have hcount : (entriesOf n (s.context c) (k + 1)).length = (entriesOf n (s.context c) k).length + 1 := by
      rw [entriesOf_succ, entryOf_some hs, List.length_append]
      rfl
    rw [hcount]
    exact counted_bump (t := (t.setContext c (releasedHead c t)).setEgress p _) hk.delivered hfar
  · intro r hd hl
    exact (counter_bump ..).trans ((if_neg hd).trans (hk.others r hd hl))
  · exact State.egress_setEgress_self ..
  · exact (counter_bump ..).trans (if_neg fun he => absurd (CounterRef.stream.inj he).2 (by decide))

end

end Sys2Proof.Machine
end

section
/-! PROOF SUPPORT. A window released whole, and a window passed slot by slot with its losses declared (R101 to R106). -/

namespace Sys2Proof.Machine

open Safety

section
variable {s t : State} {c : ContextId} {n : StreamId} {p : PortId} {k m : Nat}

/-! ### The first present slot (R105) -/

theorem firstPresent_some {x : Context} {j : Nat} (h : x.firstPresent = some j) :
    (∃ held, x.slot j = some held) ∧ (∀ i, i < j → x.slot i = none) ∧ j < x.slots.length := by
  obtain ⟨hj, hsome, hbefore⟩ := List.findIdx?_eq_some_iff_getElem.1 h
  refine ⟨?_, fun i hi => ?_, hj⟩
  · rw [Context.slot, List.getD_eq_getElem _ _ hj]
    exact Option.isSome_iff_exists.1 hsome
  · rw [Context.slot, List.getD_eq_getElem _ _ (hi.trans hj)]
    simpa using hbefore i hi

theorem firstPresent_none {x : Context} (h : x.firstPresent = none) (i : Nat) : x.slot i = none := by
  by_cases hi : i < x.slots.length
  · rw [Context.slot, List.getD_eq_getElem _ _ hi]
    simpa using List.findIdx?_eq_none_iff.1 h _ (List.getElem_mem hi)
  · exact slot_past (by omega)

theorem entriesOf_length_mono (n : StreamId) (x : Context) {j k : Nat} (h : j ≤ k) : (entriesOf n x j).length ≤ (entriesOf n x k).length := by
  induction h with
  | refl => exact le_rfl
  | step _ ih =>
    rw [entriesOf_succ, List.length_append]
    omega

theorem entriesOf_length_le (n : StreamId) (x : Context) (k : Nat) : (entriesOf n x k).length ≤ x.slots.length := by
  unfold entriesOf
  refine (List.length_filterMap_le _ _).trans ?_
  rw [List.length_zipIdx, List.length_take]
  exact Nat.min_le_right ..

/-- Slots between two counts with as many entries are empty. -/
theorem slot_none_of_entries {x : Context} {i : Nat} (h : (entriesOf n x m).length ≤ (entriesOf n x k).length) (hk : k ≤ i) (hm : i < m) :
    x.slot i = none := by
  by_contra hs
  obtain ⟨held, hheld⟩ := Option.ne_none_iff_exists'.1 hs
  have hgrow : (entriesOf n x (i + 1)).length = (entriesOf n x i).length + 1 := by
    rw [entriesOf_succ, entryOf_some hheld, List.length_append]
    rfl
  have := entriesOf_length_mono n x hk
  have := entriesOf_length_mono n x (show i + 1 ≤ m from hm)
  omega

theorem entriesOf_eq_of_length {x : Context} (hk : k ≤ m) (h : (entriesOf n x m).length ≤ (entriesOf n x k).length) :
    entriesOf n x m = entriesOf n x k := by
  obtain ⟨j, rfl⟩ := Nat.exists_eq_add_of_le hk
  exact entriesOf_skip fun i hi => slot_none_of_entries h (Nat.le_add_right k i) (Nat.add_lt_add_left hi k)

/-- A window past its last held cell is empty. -/
theorem advanced_emptied {x : Context} (h : (entriesOf n x x.slots.length).length ≤ (entriesOf n x k).length) :
    (x.advanced k).slots = List.replicate x.slots.length none := by
  refine slots_ext (by rw [length_advanced, List.length_replicate]) fun i => ?_
  have hslot : (x.advanced k).slots.getD i none = x.slot (k + i) := slot_advanced x k i
  have hrep : (List.replicate x.slots.length (none : Option Held)).getD i none = none := by
    rw [List.getD_eq_getElem?_getD, List.getElem?_replicate]
    split <;> rfl
  rw [hslot, hrep]
  by_cases hi : k + i < x.slots.length
  · exact slot_none_of_entries h (Nat.le_add_right k i) hi
  · exact slot_past (by omega)

/-! ### Every held cell released (R25, R102) -/

theorem heldCells_length (n : StreamId) (x : Context) : x.heldCells.length = (entriesOf n x x.slots.length).length := by
  have hlen : ∀ k, ((x.slots.take k).filterMap id).length = (entriesOf n x k).length := fun k => by
    induction k with
    | zero => rfl
    | succ k ih =>
      rw [entriesOf_succ, List.take_add_one, List.filterMap_append, List.length_append, List.length_append, ih, entryOf, Context.slot,
        List.getD_eq_getElem?_getD]
      rcases x.slots[k]? with _ | _ | held <;> rfl
  rw [← hlen, List.take_length]
  rfl

theorem entriesOf_length_held (n : StreamId) (x : Context) (k : Nat) : (entriesOf n x k).length ≤ x.heldCells.length := by
  rw [heldCells_length n]
  rcases Nat.le_total k x.slots.length with h | h
  · exact entriesOf_length_mono n x h
  · rw [entriesOf_past h]

/-- `t` is `s` with the first `k` slots released in order and no loss declared. -/
structure Released (c : ContextId) (n : StreamId) (p : PortId) (s : State) (k : Nat) (t : State) : Prop
    extends Passing c n s k t where
  egress : t.egress p = s.egress p ++ entriesOf n (s.context c) k
  evu : t.evu = s.evu
  lost : t.counter (.stream n StreamCounter.lost.id) = s.counter (.stream n StreamCounter.lost.id)
  ports : ∀ o, o ≠ p → t.egress o = s.egress o

theorem released_zero (c : ContextId) (n : StreamId) (p : PortId) (s : State) : Released c n p s 0 s where
  toPassing := passing_zero c n s
  egress := (List.append_nil _).symm
  evu := rfl
  lost := rfl
  ports := fun _ _ => rfl

/-- One round: the empty slots ahead of the first present one passed, and its cell released. -/
theorem released_round {j : Nat} (hk : Released c n p s k t) (hj : (t.context c).firstPresent = some j)
    (hport : (s.entry n).port = p) (hp : s.present p = true) (hh : s.mga.held = false)
    (hroom : (s.egress p).length + (s.context c).heldCells.length ≤ 512)
    (hfar : Below s (.stream n StreamCounter.delivered.id) ((s.context c).heldCells.length + 1)) :
    Released c n p s (k + j + 1) (releaseHead c n (t.setContext c ((t.context c).advanced j))) ∧
      (entriesOf n (s.context c) (k + j + 1)).length = (entriesOf n (s.context c) k).length + 1 := by
  obtain ⟨⟨held, hheld⟩, hbefore, -⟩ := firstPresent_some hj
  have hempty : ∀ i, i < j → (s.context c).slot (k + i) = none := fun i hi => (passing_slot hk.toPassing i).symm.trans (hbefore i hi)
  have hslot : (s.context c).slot (k + j) = some held := (passing_slot hk.toPassing j).symm.trans hheld
  have hskip := passing_skip (m := j) (x := (t.context c).advanced j) hk.toPassing rfl hempty
  have hsame : entriesOf n (s.context c) (k + j) = entriesOf n (s.context c) k := entriesOf_skip hempty
  have hgrow : (entriesOf n (s.context c) (k + j + 1)).length = (entriesOf n (s.context c) k).length + 1 := by
    rw [entriesOf_succ, entryOf_some hslot, List.length_append, hsame]
    rfl
  have hlen := entriesOf_length_held n (s.context c) (k + j + 1)
  have hegress : (t.setContext c ((t.context c).advanced j)).egress p = s.egress p ++ entriesOf n (s.context c) k := hk.egress
  obtain ⟨hpass, he, hv, hl, ho⟩ := passing_release hskip hslot hport hp hh
    (by rw [hegress, List.length_append]; omega) (below_mono hfar (by rw [hsame]; omega))
  refine ⟨⟨hpass, ?_, hv.trans hk.evu, hl.trans hk.lost, fun o hne => (ho o hne).trans (hk.ports o hne)⟩, hgrow⟩
  rw [he, hegress, entriesOf_succ, hsame, List.append_assoc]

theorem releaseAll_releases (fuel : Nat) (hk : Released c n p s k t)
    (hfuel : (entriesOf n (s.context c) (s.context c).slots.length).length ≤ (entriesOf n (s.context c) k).length + fuel)
    (hport : (s.entry n).port = p) (hp : s.present p = true) (hh : s.mga.held = false)
    (hroom : (s.egress p).length + (s.context c).heldCells.length ≤ 512)
    (hfar : Below s (.stream n StreamCounter.delivered.id) ((s.context c).heldCells.length + 1)) :
    ∃ m, Released c n p s m (releaseAll c n fuel t) ∧
      (entriesOf n (s.context c) (s.context c).slots.length).length ≤ (entriesOf n (s.context c) m).length := by
  induction fuel generalizing k t with
  | zero => exact ⟨k, hk, hfuel⟩
  | succ fuel ih =>
    unfold releaseAll
    dsimp only
    split
    · next hnone =>
      refine ⟨k, hk, ?_⟩
      by_cases hle : k ≤ (s.context c).slots.length
      · obtain ⟨j, hj⟩ := Nat.exists_eq_add_of_le hle
        rw [hj, entriesOf_skip fun i _ => (passing_slot hk.toPassing i).symm.trans (firstPresent_none hnone i)]
      · exact entriesOf_length_mono n _ (by omega)
    · next j hj =>
      obtain ⟨hround, hgrow⟩ := released_round hk hj hport hp hh hroom hfar
      exact ih hround (by omega)

/-- Every held cell of the window released in order of sequence, and the window empty (R25, R102). -/
theorem releaseAll_whole (hport : (s.entry n).port = p) (hp : s.present p = true) (hh : s.mga.held = false)
    (hroom : (s.egress p).length + (s.context c).heldCells.length ≤ 512)
    (hfar : Below s (.stream n StreamCounter.delivered.id) ((s.context c).heldCells.length + 1)) :
    ∃ m, Released c n p s m (releaseAll c n (s.context c).heldCells.length s) ∧
      entriesOf n (s.context c) m = entriesOf n (s.context c) (s.context c).slots.length ∧
      ((s.context c).advanced m).slots = List.replicate (s.context c).slots.length none := by
  obtain ⟨m, hm, hle⟩ := releaseAll_releases (s.context c).heldCells.length (released_zero c n p s)
    (by rw [heldCells_length n]; exact Nat.le_add_left ..) hport hp hh hroom hfar
  refine ⟨m, hm, ?_, advanced_emptied hle⟩
  rcases Nat.le_total m (s.context c).slots.length with h | h
  · exact (entriesOf_eq_of_length h hle).symm
  · exact entriesOf_past h

end

end Sys2Proof.Machine
end

section
/-! PROOF SUPPORT. A window passed by a jump, and a resync (R101, R102). -/

namespace Sys2Proof.Machine

open Safety

section
variable {s t : State} {c : ContextId} {n : StreamId} {p : PortId} {k m : Nat} {a : Arrival}

/-! ### A run of missing sequences declared lost (R104) -/

/-- Pieces of `run` missing sequences. -/
def piecesOf (run : Nat) : Nat := (run + 31) / 32

/-- `t` is `s` with the first `k` slots passed: each held cell released and each missing sequence declared, with at most `g` entries
more in the FIFO. -/
structure Passed (c : ContextId) (n : StreamId) (p : PortId) (s : State) (k g : Nat) (t : State) : Prop
    extends Passing c n s k t where
  lost : Counted s t (.stream n StreamCounter.lost.id) (k - (entriesOf n (s.context c) k).length)
  room : (t.egress p).length ≤ (s.egress p).length + g
  egress : (s.entry n).gapMarkers = false → t.egress p = s.egress p ++ entriesOf n (s.context c) k

theorem passed_zero (c : ContextId) (n : StreamId) (p : PortId) (s : State) : Passed c n p s 0 0 s where
  toPassing := passing_zero c n s
  lost := counted_refl ..
  room := le_rfl
  egress := fun _ => (List.append_nil _).symm

theorem entriesOf_length_le_count (n : StreamId) (x : Context) (k : Nat) : (entriesOf n x k).length ≤ k := by
  unfold entriesOf
  refine (List.length_filterMap_le _ _).trans ?_
  rw [List.length_zipIdx, List.length_take]
  exact Nat.min_le_left ..

theorem counted_add (hc : Counted s t (.stream n StreamCounter.lost.id) k) (h : Below s (.stream n StreamCounter.lost.id) (k + m)) :
    Counted s (bumps (.stream n StreamCounter.lost.id) m t) (.stream n StreamCounter.lost.id) (k + m) :=
  counted_trans hc (counted_bumps (below_counted hc h))

theorem counter_lossRecorded (r : CounterRef) :
    (lossRecorded c n m t).counter r = (bumps (.stream n StreamCounter.lost.id) m t).counter r := by
  rw [lossRecorded, flaggedAs_eq]
  rfl

theorem silent_lossRecorded (hs : Silent t srcStreamLoss) : Silent (lossRecorded c n m t) srcStreamLoss := by
  obtain ⟨x, y, hxy⟩ := lossRecorded_eq c n m t
  refine ⟨hs.notFault, ?_, ?_⟩
  · have hch : ∀ ch, (lossRecorded c n m t).channel ch = t.channel ch := fun ch => by rw [hxy]; rfl
    have hu := hs.unbound
    unfold State.takerOf at hu ⊢
    simpa only [hch] using hu
  · rw [lossRecorded, flaggedAs_eq, State.source_setSource_self]
    split
    · next hf => exact .inl hf
    · exact .inl rfl

/-- A step that keeps the window and every counter but LOST. -/
theorem passing_mono {u : State} (hk : Passing c n s k t) (hf : MergeFrame t u) (hc : u.context c = t.context c)
    (hcnt : ∀ r, r ≠ .stream n StreamCounter.lost.id → u.counter r = t.counter r)
    (hs : Silent t srcStreamLoss → Silent u srcStreamLoss) : Passing c n s k u where
  frame := ⟨hf.pins.trans hk.frame.pins, hf.lck.trans hk.frame.lck, hf.bfm.trans hk.frame.bfm, hf.entries.trans hk.frame.entries,
    hf.ltx.trans hk.frame.ltx, hf.lrx.trans hk.frame.lrx, hf.psc.trans hk.frame.psc, hf.mga.trans hk.frame.mga⟩
  window := by
    rw [hc]
    exact hk.window
  delivered := counted_congr hk.delivered (hcnt _ fun he => absurd (CounterRef.stream.inj he).2 (by decide))
  others := fun r hd hl => (hcnt r hl).trans (hk.others r hd hl)
  silent := fun h => hs (hk.silent h)

/-- The losses recorded and the gap entry offered, before the window moves on. -/
theorem passing_recorded (q : List EgressEntry) (hk : Passing c n s k t) :
    Passing c n s k ((lossRecorded c n m t).setEgress p q) := by
  obtain ⟨x, y, hxy⟩ := lossRecorded_eq c n m t
  refine passing_mono hk ?_ (by rw [hxy]; rfl) (fun r hr => (counter_lossRecorded r).trans (counter_bumps_ne hr m t)) fun hs => ?_
  · rw [hxy]
    exact ⟨rfl, rfl, rfl, rfl, rfl, rfl, rfl, rfl⟩
  · have h := silent_lossRecorded (c := c) (n := n) (m := m) hs
    exact ⟨h.notFault, h.unbound, h.quiet⟩

/-- One declaration of `m` missing sequences. -/
theorem passed_piece {g : Nat} (hk : Passed c n p s k g t) (he : ∀ i, i < m → (s.context c).slot (k + i) = none)
    (hport : (s.entry n).port = p) (hp : s.present p = true) (hh : s.mga.held = false) (hs : Silent s srcStreamLoss)
    (hroom : (s.egress p).length + g < 512) (hfar : Below s (.stream n StreamCounter.lost.id) (k + m)) :
    Passed c n p s (k + m) (g + 1) (declarePiece c n m t) := by
  have hle := entriesOf_length_le_count n (s.context c) k
  have hlost : Below s (.stream n StreamCounter.lost.id) (k - (entriesOf n (s.context c) k).length + m) := below_mono hfar (by omega)
  have hentry : t.entry n = s.entry n := mergeFrame_entry hk.frame n
  rw [declarePiece_joins (p := p) (below_counted hk.lost hlost) (hk.silent hs) (by rw [hentry]; exact hport)
    (by rw [mergeFrame_present hk.frame]; exact hp) (by rw [hk.frame.mga]; exact hh) (Nat.lt_of_le_of_lt hk.room hroom)]
  have hctx : ((lossRecorded c n m t).setEgress p (t.egress p ++ lossMark n (t.context c).next m t)).context c = t.context c := by
    obtain ⟨x, y, hxy⟩ := lossRecorded_eq c n m t
    rw [hxy]
    rfl
  have hskip := passing_skip (m := m) (x := ((t.context c).advanced m).resealed)
    (passing_recorded (m := m) (p := p) (t.egress p ++ lossMark n (t.context c).next m t) hk.toPassing) (by rw [hctx]; rfl) he
  have hegress : (((lossRecorded c n m t).setEgress p (t.egress p ++ lossMark n (t.context c).next m t)).setContext c
      ((t.context c).advanced m).resealed).egress p = t.egress p ++ lossMark n (t.context c).next m t := State.egress_setEgress_self ..
  have hsame : entriesOf n (s.context c) (k + m) = entriesOf n (s.context c) k := entriesOf_skip he
  refine ⟨hskip, ?_, ?_, fun hg => ?_⟩
  · have hk' : k + m - (entriesOf n (s.context c) (k + m)).length = k - (entriesOf n (s.context c) k).length + m := by
      rw [hsame]
      omega
    rw [hk']
    exact counted_congr (counted_add hk.lost hlost) (by exact counter_lossRecorded (c := c) (.stream n StreamCounter.lost.id))
  · have hmark : (lossMark n (t.context c).next m t).length ≤ 1 := by
      unfold lossMark
      split <;> simp
    have := hk.room
    rw [hegress, List.length_append]
    omega
  · rw [hegress, hsame, lossMark, if_neg (by rw [hentry, hg]; exact Bool.false_ne_true), List.append_nil]
    exact hk.egress hg

/-- A run of missing sequences declared whole. -/
theorem passed_run {g : Nat} (hk : Passed c n p s k g t) (he : ∀ i, i < m → (s.context c).slot (k + i) = none)
    (hport : (s.entry n).port = p) (hp : s.present p = true) (hh : s.mga.held = false) (hs : Silent s srcStreamLoss)
    (hroom : (s.egress p).length + g + piecesOf m < 512) (hfar : Below s (.stream n StreamCounter.lost.id) (k + m)) :
    Passed c n p s (k + m) (g + piecesOf m) (declareRun c n m t) := by
  have hpieces : ∀ j m k g t, Passed c n p s k g t → (∀ i, i < m → (s.context c).slot (k + i) = none) → piecesOf m = j →
      (s.egress p).length + g + j < 512 → Below s (.stream n StreamCounter.lost.id) (k + m) →
      Passed c n p s (k + m) (g + j) (declareLost c n j m t) := by
    intro j
    induction j with
    | zero =>
      intro m k g t hk he hj _ _
      have hm : m = 0 := by unfold piecesOf at hj; omega
      subst hm
      exact hk
    | succ j ih =>
      intro m k g t hk he hj hroom hfar
      have hm : m ≠ 0 := by unfold piecesOf at hj; omega
      have hpiece := passed_piece (m := min m 32) hk (fun i hi => he i (by omega)) hport hp hh hs (by omega)
        (below_mono hfar (by omega))
      have hrest := ih (m - 32) (k + min m 32) (g + 1) _ hpiece
        (fun i hi => by rw [Nat.add_assoc]; exact he _ (by omega)) (by unfold piecesOf at *; omega) (by omega)
        (below_mono hfar (by omega))
      have hsum : k + min m 32 + (m - 32) = k + m := by omega
      rw [hsum, Nat.add_assoc g 1 j, Nat.add_comm 1 j] at hrest
      rw [declareLost, if_neg hm]
      exact hrest
  exact hpieces _ m k g t hk he rfl hroom hfar

/-- A held cell released behind the declared ones. -/
theorem passed_release {g : Nat} {h : Held} (hk : Passed c n p s k g t) (hs : (s.context c).slot k = some h)
    (hport : (s.entry n).port = p) (hp : s.present p = true) (hh : s.mga.held = false) (hroom : (s.egress p).length + g < 512)
    (hfar : Below s (.stream n StreamCounter.delivered.id) (k + 1)) : Passed c n p s (k + 1) (g + 1) (releaseHead c n t) := by
  have hle := entriesOf_length_le_count n (s.context c) k
  obtain ⟨hpass, he, -, hl, -⟩ := passing_release hk.toPassing hs hport hp hh (Nat.lt_of_le_of_lt hk.room hroom)
    (below_mono hfar (by omega))
  have hgrow : (entriesOf n (s.context c) (k + 1)).length = (entriesOf n (s.context c) k).length + 1 := by
    rw [entriesOf_succ, entryOf_some hs, List.length_append]
    rfl
  refine ⟨hpass, ?_, ?_, fun hg => ?_⟩
  · have hsame : k + 1 - (entriesOf n (s.context c) (k + 1)).length = k - (entriesOf n (s.context c) k).length := by omega
    rw [hsame]
    exact counted_congr hk.lost hl
  · have := hk.room
    rw [he, entryOf_some hs, List.length_append, List.length_singleton]
    omega
  · rw [he, hk.egress hg, entriesOf_succ, List.append_assoc]

/-- The slots of a list passed in turn, behind `run` missing sequences not yet declared (R101, R106). -/
theorem passed_slots {slots : List (Option Held)} {run g : Nat} (hk : Passed c n p s k g t)
    (he : ∀ i, i < run → (s.context c).slot (k + i) = none) (hslots : ∀ i, i < slots.length → slots[i]? = some ((s.context c).slot (k + run + i)))
    (hport : (s.entry n).port = p) (hp : s.present p = true) (hh : s.mga.held = false) (hs : Silent s srcStreamLoss)
    (hroom : (s.egress p).length + g + 2 * slots.countP Option.isSome + (run + slots.length) / 32 + 1 < 512)
    (hlost : Below s (.stream n StreamCounter.lost.id) (k + run + slots.length))
    (hdel : Below s (.stream n StreamCounter.delivered.id) (k + run + slots.length)) :
    ∃ g', Passed c n p s (k + run + slots.length) g' (passSlots c n slots run t) := by
  induction slots generalizing k run g t with
  | nil =>
    have hpieces : piecesOf run ≤ run / 32 + 1 := by unfold piecesOf; omega
    simp only [List.countP_nil, List.length_nil, Nat.mul_zero, Nat.add_zero] at hroom hlost ⊢
    exact ⟨_, passed_run hk he hport hp hh hs (by omega) hlost⟩
  | cons slot rest ih =>
    have hhead : slot = (s.context c).slot (k + run) := Option.some.inj (hslots 0 (by simp))
    have htail : ∀ i, i < rest.length → rest[i]? = some ((s.context c).slot (k + run + (i + 1))) := fun i hi =>
      hslots (i + 1) (Nat.succ_lt_succ hi)
    simp only [List.length_cons, List.countP_cons] at hroom hlost hdel ⊢
    cases slot with
    | none =>
      have hsum : k + run + (rest.length + 1) = k + (run + 1) + rest.length := by omega
      rw [hsum] at hlost hdel ⊢
      refine ih hk (fun i hi => ?_) (fun i hi => ?_) (by simpa [Nat.add_right_comm, Nat.add_assoc, Nat.add_comm 1] using hroom) hlost hdel
      · rcases Nat.lt_succ_iff_lt_or_eq.1 hi with hi | rfl
        · exact he i hi
        · exact hhead.symm
      · rw [htail i hi]
        congr 2
        omega
    | some held =>
      have hpieces : piecesOf run ≤ run / 32 + 1 := by unfold piecesOf; omega
      have hone : (if (some held : Option Held).isSome = true then 1 else 0) = 1 := rfl
      rw [hone] at hroom
      have hrun := passed_run hk he hport hp hh hs (by omega) (below_mono hlost (by omega))
      have hrelease := passed_release hrun hhead.symm hport hp hh (by omega) (below_mono hdel (by omega))
      have hsum : k + run + (rest.length + 1) = k + run + 1 + 0 + rest.length := by omega
      rw [hsum] at hlost hdel ⊢
      refine ih hrelease (fun i hi => absurd hi (Nat.not_lt_zero i)) (fun i hi => ?_) (by omega) hlost hdel
      rw [htail i hi]
      congr 2
      omega

end

end Sys2Proof.Machine
end

section
/-! PROOF SUPPORT. A cell beyond the window of its context: late, a jump or a resync (R100 to R102). -/

namespace Sys2Proof.Machine

open Safety

theorem evu_flaggedAs_congr {s t : State} (h : t.evu = s.evu) (src : Source) (d : Detail) :
    (flaggedAs src d t).evu = (flaggedAs src d s).evu := by
  have hsrc : t.source src = s.source src := by rw [State.source, h]; rfl
  rw [flaggedAs_eq, flaggedAs_eq, hsrc, State.setSource, h]
  rfl

section
variable {s t : State} {c : ContextId} {n : StreamId} {p : PortId} {k m d : Nat} {a : Arrival} {x : Context}

/-! ### The slots that a jump passes (R101) -/

/-- The slots of the first `k` sequences; those past the window hold nothing. -/
def passedSlots (x : Context) (k : Nat) : List (Option Held) := x.slots.take k ++ List.replicate (k - x.slots.length) none

theorem passedSlots_length (x : Context) (k : Nat) : (passedSlots x k).length = k := by
  simp only [passedSlots, List.length_append, List.length_take, List.length_replicate]
  omega

theorem passedSlots_getElem? {i : Nat} (hi : i < k) : (passedSlots x k)[i]? = some (x.slot i) := by
  simp only [passedSlots, Context.slot, List.getElem?_append, List.length_take, List.getD_eq_getElem?_getD]
  split
  · next h =>
    rw [List.getElem?_take_of_lt hi, List.getElem?_eq_getElem (by omega)]
    rfl
  · next h =>
    rw [List.getElem?_replicate, if_pos (by omega), List.getElem?_eq_none (by omega)]
    rfl

theorem passedSlots_countP (x : Context) (k : Nat) : (passedSlots x k).countP Option.isSome ≤ x.slots.length := by
  have hrep : (List.replicate (k - x.slots.length) (none : Option Held)).countP Option.isSome = 0 :=
    List.countP_eq_zero.2 fun o ho => by rw [List.eq_of_mem_replicate ho]; exact Bool.false_ne_true
  rw [passedSlots, List.countP_append, hrep]
  exact List.countP_le_length.trans (by rw [List.length_take]; exact Nat.min_le_right ..)

theorem slot_of_heldCells_nil (h : x.heldCells = []) (i : Nat) : x.slot i = none := by
  by_cases hi : i < x.slots.length
  · have hlen := heldCells_length 0 x
    rw [h] at hlen
    exact slot_none_of_entries (n := 0) (k := 0) (by rw [← hlen]; exact Nat.zero_le _) (Nat.zero_le i) hi
  · exact slot_past (by omega)

theorem passedSlots_empty (h : x.heldCells = []) (k : Nat) : passedSlots x k = List.replicate k none := by
  refine List.ext_getElem? fun i => ?_
  by_cases hi : i < k
  · rw [passedSlots_getElem? hi, List.getElem?_replicate, if_pos hi, slot_of_heldCells_nil h]
  · rw [List.getElem?_eq_none (by rw [passedSlots_length]; omega), List.getElem?_eq_none (by rw [List.length_replicate]; omega)]

theorem passSlots_missing (c : ContextId) (n : StreamId) (k run : Nat) (s : State) :
    passSlots c n (List.replicate k none) run s = declareRun c n (run + k) s := by
  induction k generalizing run with
  | zero => rfl
  | succ k ih =>
    rw [List.replicate_succ, passSlots, ih]
    congr 1
    omega

theorem declareRun_one (c : ContextId) (n : StreamId) {m : Nat} (h : 1 ≤ m) (h32 : m ≤ 32) (s : State) :
    declareRun c n m s = declarePiece c n m s := by
  have hpieces : (m + Config.lossPiece - 1) / Config.lossPiece = 1 := by
    show (m + 32 - 1) / 32 = 1
    omega
  rw [declareRun, hpieces, declareLost, if_neg (by omega), show min m Config.lossPiece = m from Nat.min_eq_left h32]
  rfl

/-! ### A jump (R101) -/

/-- The window of a base context with `k` sequences passed and the cell in slot `d`. -/
theorem storeAt_passing (hk : Passing c n s k t) (hpast : (s.context c).slots.length ≤ k + d) (hh : s.mga.held = false) :
    storeAt c n d a t = t.setContext c
      { (s.context c).advanced k with
        lastRelease := if entriesOf n (s.context c) k = [] then (s.context c).lastRelease else some s.now
        slots := ((s.context c).advanced k).slots.set d (some (heldBy a (s.context c).hold s)), checkAgrees := true } := by
  have hnow : t.now = s.now := by rw [State.now, hk.frame.lck]; rfl
  rw [storeAt_fills ((passing_slot hk d).trans (slot_past hpast)) (by rw [hk.frame.mga]; exact hh), heldBy, hnow]
  congr 1
  rw [hk.window]
  rfl

theorem jump_lands (hd : (s.context c).depth ≤ d) (h1 : 1 ≤ (s.context c).depth) (hlen : (s.context c).slots.length = (s.context c).depth)
    (h32 : (s.context c).depth ≤ 32) (hmax : d ≤ 4095) (hport : (s.entry n).port = p) (hp : s.present p = true)
    (hh : s.mga.held = false) (hs : Silent s srcStreamLoss) (hroom : (s.egress p).length ≤ 256)
    (hlost : Below s (.stream n StreamCounter.lost.id) 4096) (hdel : Below s (.stream n StreamCounter.delivered.id) 4096)
    (hjump : (s.counter (.stream n StreamCounter.jump.id)).atHalf = false) :
    let k := d + 1 - (s.context c).depth
    let t := passSlots c n (passedSlots (s.context c) k) 0 s
    ∃ g, Passed c n p s k g t ∧ jump c n d a s = bump (.stream n StreamCounter.jump.id) (t.setContext c
      { (s.context c).advanced k with
        lastRelease := if entriesOf n (s.context c) k = [] then (s.context c).lastRelease else some s.now
        slots := ((s.context c).advanced k).slots.set ((s.context c).depth - 1) (some (heldBy a (s.context c).hold s))
        checkAgrees := true }) := by
  intro k t
  have hcount := passedSlots_countP (s.context c) k
  obtain ⟨g, hg⟩ := passed_slots (slots := passedSlots (s.context c) k) (run := 0) (passed_zero c n p s)
    (fun i hi => absurd hi (Nat.not_lt_zero i))
    (fun i hi => by rw [passedSlots_length] at hi; rw [passedSlots_getElem? hi, Nat.add_zero, Nat.zero_add]) hport hp hh hs
    (by rw [passedSlots_length]; omega) (by rw [passedSlots_length]; exact below_mono hlost (by omega))
    (by rw [passedSlots_length]; exact below_mono hdel (by omega))
  rw [passedSlots_length, Nat.add_zero, Nat.zero_add] at hg
  refine ⟨g, hg, ?_⟩
  have hcalm : (t.counter (.stream n StreamCounter.jump.id)).atHalf = false := by
    rw [hg.others _ (fun he => absurd (CounterRef.stream.inj he).2 (by decide)) fun he => absurd (CounterRef.stream.inj he).2 (by decide)]
    exact hjump
  have hstore := storeAt_passing (a := a) (d := (s.context c).depth - 1) hg.toPassing (by omega) hh
  show countStream n .jump (storeAt c n ((s.context c).depth - 1) a t) = _
  rw [hstore]
  exact count_bump hcalm

/-- What a jump over `k` sequences leaves. -/
structure Jumped (c : ContextId) (n : StreamId) (p : PortId) (a : Arrival) (s : State) (k : Nat) (t : State) : Prop where
  context : t.context c = { s.context c with
    next := (s.context c).next + BitVec.ofNat 16 k
    lastRelease := if entriesOf n (s.context c) k = [] then (s.context c).lastRelease else some s.now
    checkAgrees := true
    slots := ((s.context c).slots.drop k ++ List.replicate (min k (s.context c).slots.length) none).set ((s.context c).depth - 1)
      (some (heldBy a (s.context c).hold s)) }
  jump : Counted s t (.stream n StreamCounter.jump.id) 1
  delivered : Counted s t (.stream n StreamCounter.delivered.id) (entriesOf n (s.context c) k).length
  lost : Counted s t (.stream n StreamCounter.lost.id) (k - (entriesOf n (s.context c) k).length)
  egress : (s.entry n).gapMarkers = false → t.egress p = s.egress p ++ entriesOf n (s.context c) k
  missing : (s.context c).heldCells = [] → k ≤ 32 →
    t.run n = { s.run n with lossFirst := (s.context c).next, lossCount := k } ∧
      t.evu = (flaggedAs srcStreamLoss (.loss n (s.context c).next k) s).evu ∧
      t.egress p = s.egress p ++ lossMark n (s.context c).next k s
  frame : MergeFrame s t

theorem lossRecorded_leaves (c : ContextId) (n : StreamId) (m : Nat) (s : State) :
    (lossRecorded c n m s).run n = { s.run n with lossFirst := (s.context c).next, lossCount := m } ∧
      (lossRecorded c n m s).evu = (flaggedAs srcStreamLoss (.loss n (s.context c).next m) s).evu := by
  obtain ⟨x, hx⟩ := bumps_eq (.stream n StreamCounter.lost.id) m s
  constructor
  · obtain ⟨x, y, hxy⟩ := lossRecorded_eq c n m s
    rw [hxy]
    exact State.run_setRun_self ..
  · rw [lossRecorded]
    exact evu_flaggedAs_congr (by rw [hx]; rfl) _ _

theorem jump_jumps (hd : (s.context c).depth ≤ d) (h1 : 1 ≤ (s.context c).depth) (hlen : (s.context c).slots.length = (s.context c).depth)
    (h32 : (s.context c).depth ≤ 32) (hmax : d ≤ 4095) (hport : (s.entry n).port = p) (hp : s.present p = true)
    (hh : s.mga.held = false) (hs : Silent s srcStreamLoss) (hroom : (s.egress p).length ≤ 256)
    (hlost : Below s (.stream n StreamCounter.lost.id) 4096) (hdel : Below s (.stream n StreamCounter.delivered.id) 4096)
    (hjump : Below s (.stream n StreamCounter.jump.id) 1) : Jumped c n p a s (d + 1 - (s.context c).depth) (jump c n d a s) := by
  obtain ⟨g, hg, hland⟩ := jump_lands (a := a) hd h1 hlen h32 hmax hport hp hh hs hroom hlost hdel (calm_of_below hjump le_rfl)
  rw [hland]
  have hmissing (hnil : (s.context c).heldCells = []) (hle : d + 1 - (s.context c).depth ≤ 32) :
      passSlots c n (passedSlots (s.context c) (d + 1 - (s.context c).depth)) 0 s =
        ((lossRecorded c n (d + 1 - (s.context c).depth) s).setEgress p
          (s.egress p ++ lossMark n (s.context c).next (d + 1 - (s.context c).depth) s)).setContext c
            ((s.context c).advanced (d + 1 - (s.context c).depth)).resealed := by
    rw [passedSlots_empty hnil, passSlots_missing, Nat.zero_add, declareRun_one c n (by omega) hle,
      declarePiece_joins (p := p) (below_mono hlost (by omega)) hs hport hp hh (Nat.lt_of_le_of_lt hroom (by decide))]
  generalize d + 1 - (s.context c).depth = k at hg hmissing
  generalize passSlots c n (passedSlots (s.context c) k) 0 s = t at hg hmissing
  have hcounter (i : Fin 16) (hi : i ≠ StreamCounter.jump.id) (y : Context) :
      (bump (.stream n StreamCounter.jump.id) (t.setContext c y)).counter (.stream n i) = t.counter (.stream n i) :=
    (counter_bump ..).trans (if_neg fun hc => hi (CounterRef.stream.inj hc).2)
  have hsame : t.counter (.stream n StreamCounter.jump.id) = s.counter (.stream n StreamCounter.jump.id) :=
    hg.others _ (fun he => absurd (CounterRef.stream.inj he).2 (by decide)) fun he => absurd (CounterRef.stream.inj he).2 (by decide)
  constructor
  case context => exact State.context_setContext_self ..
  case jump => exact counted_bump (k := 0) (t := t.setContext c _) (counted_congr (counted_refl ..) hsame) hjump
  case delivered => exact counted_congr hg.delivered (hcounter _ (by decide) _)
  case lost => exact counted_congr hg.lost (hcounter _ (by decide) _)
  case egress => exact hg.egress
  case missing =>
    intro hnil hle
    obtain ⟨hrun, hevu⟩ := lossRecorded_leaves c n k s
    have hrun' : t.run n = { s.run n with lossFirst := (s.context c).next, lossCount := k } := by
      rw [hmissing hnil hle]
      exact hrun
    have hevu' : t.evu = (flaggedAs srcStreamLoss (.loss n (s.context c).next k) s).evu := by
      rw [hmissing hnil hle]
      exact hevu
    have hegress' : t.egress p = s.egress p ++ lossMark n (s.context c).next k s := by
      rw [hmissing hnil hle]
      exact State.egress_setEgress_self (lossRecorded c n k s) p _
    exact ⟨hrun', hevu', hegress'⟩
  case frame =>
    exact ⟨hg.frame.pins, hg.frame.lck, hg.frame.bfm, hg.frame.entries, hg.frame.ltx, hg.frame.lrx, hg.frame.psc, hg.frame.mga⟩

/-! ### A resync (R102) -/

theorem startRun_fills {j : Nat} (hs : (t.context c).slots = List.replicate j none) (hh : t.mga.held = false) :
    startRun c n a t = t.setContext c
      { t.context c with
        next := a.seq, epoch := a.epoch, synced := true, checkAgrees := true
        slots := (t.context c).slots.set 0 (some (heldBy a (t.context c).hold t)) } := by
  have hat : (t.setContext c { t.context c with next := a.seq, epoch := a.epoch, synced := true, checkAgrees := true }).context c =
      { t.context c with next := a.seq, epoch := a.epoch, synced := true, checkAgrees := true } := State.context_setContext_self ..
  have hslot : { t.context c with next := a.seq, epoch := a.epoch, synced := true, checkAgrees := true : Context }.slot 0 = none := by
    show (t.context c).slots.getD 0 none = none
    rw [hs, List.getD_eq_getElem?_getD, List.getElem?_replicate]
    split <;> rfl
  unfold startRun
  dsimp only
  rw [storeAt_fills (by rw [hat]; exact hslot) (by exact hh), hat, setContext_setContext]
  rfl

theorem resync_runs (hport : (s.entry n).port = p) (hp : s.present p = true) (hh : s.mga.held = false)
    (hroom : (s.egress p).length + (s.context c).slots.length < 512)
    (hdel : Below s (.stream n StreamCounter.delivered.id) ((s.context c).slots.length + 1))
    (hresync : (s.counter (.stream n StreamCounter.resync.id)).atHalf = false) :
    ∃ m t, Released c n p s m t ∧ entriesOf n (s.context c) m = entriesOf n (s.context c) (s.context c).slots.length ∧
      resync c n a s = (bump (.stream n StreamCounter.resync.id) (t.setEgress p
        (t.egress p ++ (if (s.entry n).gapMarkers then [.gap n a.seq 0 true] else [])))).setContext c
          { s.context c with
            next := a.seq, epoch := a.epoch, synced := true, checkAgrees := true
            lastRelease :=
              if entriesOf n (s.context c) (s.context c).slots.length = [] then (s.context c).lastRelease else some s.now
            slots := (List.replicate (s.context c).slots.length none).set 0 (some (heldBy a (s.context c).hold s)) } := by
  have hheld : (s.context c).heldCells.length ≤ (s.context c).slots.length := by
    rw [heldCells_length n]
    exact entriesOf_length_le ..
  obtain ⟨m, hm, hall, hempty⟩ := releaseAll_whole hport hp hh (by omega) (below_mono hdel (Nat.succ_le_succ hheld))
  have hresyncs : resync c n a s = startRun c n a (announceResync n a.seq (releaseAll c n (s.context c).heldCells.length s)) := rfl
  refine ⟨m, _, hm, hall, ?_⟩
  rw [hresyncs]
  generalize releaseAll c n (s.context c).heldCells.length s = t at hm
  have hnow : t.now = s.now := by rw [State.now, hm.frame.lck]; rfl
  have hentry : t.entry n = s.entry n := mergeFrame_entry hm.frame n
  have hheld : t.mga.held = false := by rw [hm.frame.mga]; exact hh
  have hlen := entriesOf_length_le n (s.context c) m
  have hcalm : (t.counter (.stream n StreamCounter.resync.id)).atHalf = false := by
    rw [hm.others _ (fun he => absurd (CounterRef.stream.inj he).2 (by decide)) fun he => absurd (CounterRef.stream.inj he).2 (by decide)]
    exact hresync
  have hwindow : t.context c = { s.context c with
      next := (s.context c).next + BitVec.ofNat 16 m, slots := List.replicate (s.context c).slots.length none
      lastRelease := if entriesOf n (s.context c) (s.context c).slots.length = [] then (s.context c).lastRelease else some s.now
      checkAgrees := (t.context c).checkAgrees } := by
    rw [← hall, ← hempty]
    exact hm.window
  have hfull : (t.egress p).length < 512 := by
    rw [hm.egress, List.length_append]
    omega
  have hmark := announceResync_marks (seq := a.seq) (by rw [hentry]; exact hport) ((mergeFrame_present hm.frame p).trans hp) hheld hfull hcalm
  rw [hentry] at hmark
  rw [hmark, startRun_fills (j := (s.context c).slots.length) (by exact congrArg Context.slots hwindow) (by exact hheld)]
  refine congrArg (State.setContext _ c) ?_
  show ({ t.context c with
    next := a.seq, epoch := a.epoch, synced := true, checkAgrees := true
    slots := (t.context c).slots.set 0 (some { buffer := a.buffer, arrival := t.now, lane := a.lane
                                               release := t.now + BitVec.ofNat 32 (t.context c).hold }) } : Context) = _
  rw [hwindow, hnow]
  rfl

/-- What a resync leaves. -/
structure Resynced (c : ContextId) (n : StreamId) (p : PortId) (a : Arrival) (s t : State) : Prop where
  context : t.context c = { s.context c with
    next := a.seq, epoch := a.epoch, synced := true, checkAgrees := true
    lastRelease := if entriesOf n (s.context c) (s.context c).slots.length = [] then (s.context c).lastRelease else some s.now
    slots := (List.replicate (s.context c).slots.length none).set 0 (some (heldBy a (s.context c).hold s)) }
  resync : Counted s t (.stream n StreamCounter.resync.id) 1
  delivered : Counted s t (.stream n StreamCounter.delivered.id) (entriesOf n (s.context c) (s.context c).slots.length).length
  lost : t.counter (.stream n StreamCounter.lost.id) = s.counter (.stream n StreamCounter.lost.id)
  egress : t.egress p = s.egress p ++ entriesOf n (s.context c) (s.context c).slots.length ++
    (if (s.entry n).gapMarkers then [.gap n a.seq 0 true] else [])
  evu : t.evu = s.evu
  frame : MergeFrame s t

theorem resync_resyncs (hport : (s.entry n).port = p) (hp : s.present p = true) (hh : s.mga.held = false)
    (hroom : (s.egress p).length + (s.context c).slots.length < 512)
    (hdel : Below s (.stream n StreamCounter.delivered.id) ((s.context c).slots.length + 1))
    (hresync : Below s (.stream n StreamCounter.resync.id) 1) : Resynced c n p a s (resync c n a s) := by
  obtain ⟨m, t, hm, hall, hruns⟩ := resync_runs (a := a) hport hp hh hroom hdel (calm_of_below hresync le_rfl)
  rw [hruns]
  have hcounter (i : Fin 16) (hi : i ≠ StreamCounter.resync.id) (q : List EgressEntry) (y : Context) :
      ((bump (.stream n StreamCounter.resync.id) (t.setEgress p q)).setContext c y).counter (.stream n i) = t.counter (.stream n i) :=
    (counter_bump ..).trans (if_neg fun hc => hi (CounterRef.stream.inj hc).2)
  have hsame : t.counter (.stream n StreamCounter.resync.id) = s.counter (.stream n StreamCounter.resync.id) :=
    hm.others _ (fun he => absurd (CounterRef.stream.inj he).2 (by decide)) fun he => absurd (CounterRef.stream.inj he).2 (by decide)
  have hegress := hm.egress
  have hdelivered := hm.delivered
  rw [hall] at hegress hdelivered
  constructor
  case context => exact State.context_setContext_self ..
  case resync =>
    have hbase (q : List EgressEntry) : Counted s (t.setEgress p q) (.stream n StreamCounter.resync.id) 0 :=
      counted_congr (counted_refl s _) hsame
    exact counted_bump (hbase _) hresync
  case delivered => exact counted_congr hdelivered (hcounter _ (by decide) _ _)
  case lost => exact (hcounter _ (by decide) _ _).trans hm.lost
  case egress =>
    rw [← hegress]
    exact State.egress_setEgress_self ..
  case evu => exact hm.evu
  case frame =>
    exact ⟨hm.frame.pins, hm.frame.lck, hm.frame.bfm, hm.frame.entries, hm.frame.ltx, hm.frame.lrx, hm.frame.psc, hm.frame.mga⟩

theorem next_passed {next seq : Seq} {w : Nat} (h : w ≤ (seq - next).toNat) :
    next + BitVec.ofNat 16 ((seq - next).toNat + 1 - w) = seq + 1 - BitVec.ofNat 16 w := by
  obtain ⟨j, hj⟩ := Nat.exists_eq_add_of_le (Nat.le_succ_of_le h)
  have hsum : seq - next + 1 = BitVec.ofNat 16 w + BitVec.ofNat 16 j := by
    rw [← BitVec.ofNat_add, ← hj, Nat.succ_eq_add_one, BitVec.ofNat_add, BitVec.ofNat_toNat, BitVec.setWidth_eq]
    rfl
  have hj' : (seq - next).toNat + 1 - w = j := by omega
  have hsub : BitVec.ofNat 16 j = seq - next + 1 - BitVec.ofNat 16 w := by rw [hsum]; ring
  rw [hj', hsub]
  ring

end

/-! ### The cell as it is taken -/

section
variable {s t : State} {l : Lane} {cell : List Byte} {n : StreamId} {c : ContextId} {b : Nat} {bs : List Nat} {r : CounterRef} {k : Nat}

theorem counter_taken_ne (hl : r ≠ .lane l LaneCounter.rxGood.id) (hx : r ≠ .stream n StreamCounter.rxCells.id) :
    (taken l cell n b bs s).counter r = s.counter r := by
  have hcells := counter_bump (.stream n StreamCounter.rxCells.id) r (counted l s)
  have hgood := counter_bump (.lane l LaneCounter.rxGood.id) r (headerPassed l s)
  rw [if_neg hx] at hcells
  rw [if_neg hl] at hgood
  exact (hcells.trans hgood).trans (State.setRx_counter ..)

/-- What the taking of the cell leaves of a counter that it does not count. -/
theorem counter_arrivedAt_taken {i : Fin 16} (hi : i ≠ StreamCounter.rxCells.id) :
    (arrivedAt c (taken l cell n b bs s)).counter (.stream n i) = s.counter (.stream n i) :=
  counter_taken_ne (r := .stream n i) (cell := cell) (b := b) (bs := bs) (fun he => by cases he) fun he => hi (CounterRef.stream.inj he).2

theorem counted_since {u : State} (h : Counted u t r k) (hu : u.counter r = s.counter r) : Counted s t r k := by
  unfold Counted at *
  rw [h, hu]

end

/-- Settles O29. -/
theorem windowMoves : Obligations.WindowMoves := by
  intro s l cell n c b bs h hm hx hatt hsync hlen h32 h1 x q seq offset new same jumps resyncs passed released instant hfar
  have hcalm (i : Fin 16) (hi : i ≠ StreamCounter.rxCells.id) (hmem : CounterRef.stream n i ∈ [CounterRef.lane l LaneCounter.rxGood.id,
      .stream n StreamCounter.rxCells.id, .stream n StreamCounter.late.id, .stream n StreamCounter.lost.id,
      .stream n StreamCounter.jump.id, .stream n StreamCounter.resync.id, .stream n StreamCounter.delivered.id]) :
      Below (arrivedAt c (taken l cell n b bs s)) (.stream n i) 8192 :=
    below_congr (below_of_far hfar hmem) (counter_arrivedAt_taken hi)
  have hat : (arrivedAt c (taken l cell n b bs s)).context c = { x with arrived := true } := context_arrivedAt
  have hexec := exec_classifies h hm hx hsync (calm_of_below (below_of_far hfar (by simp)) (by decide))
    (calm_of_below (below_of_far hfar (by simp)) (by decide))
  have hsilent (hs : Silent s srcStreamLoss) : Silent (arrivedAt c (taken l cell n b bs s)) srcStreamLoss :=
    ⟨hs.notFault, hs.unbound, hs.quiet⟩
  refine ⟨fun he hl => ?late, fun hj hp hroom hs => ?jump, fun hr hp hroom => ?resync⟩
  case late =>
    have hcount : countStream n .late (arrivedAt c (taken l cell n b bs s)) =
        bump (.stream n StreamCounter.late.id) (arrivedAt c (taken l cell n b bs s)) :=
      count_bump (calm_of_below (hcalm StreamCounter.late.id (by decide) (by simp)) (by decide))
    rw [hexec, classify_late (by rw [hat]; exact he) (by rw [hat]; exact Nat.le_trans h32 (Nat.le_trans (by decide) hl)) (by rw [hat]; exact hl),
      hcount]
    exact congrArg _ (dereference_returned (by exact congrArg Buffer.refs (buffer_taken (s := s) (l := l) (n := n) (b := b) (bs := bs) (cell := cell))))
  case jump =>
    obtain ⟨he, hd, hmax⟩ := hj
    have hlost := hcalm StreamCounter.lost.id (by decide) (by simp)
    have hdel := hcalm StreamCounter.delivered.id (by decide) (by simp)
    have hjump := hcalm StreamCounter.jump.id (by decide) (by simp)
    have hsil := hsilent hs
    have hlands := jump_jumps (s := arrivedAt c (taken l cell n b bs s)) (c := c) (n := n) (p := q) (d := offset) (a := arrivalOf l cell b)
      (by rw [hat]; exact hd) (by rw [hat]; exact h1) (by rw [hat]; exact hlen) (by rw [hat]; exact h32) hmax (by exact rfl) (by exact hp)
      (by exact h.notHeld) hsil (by exact hroom) (below_mono hlost (by decide)) (below_mono hdel (by decide)) (below_mono hjump (by decide))
    have hk : x.next + BitVec.ofNat 16 passed = seq + 1 - BitVec.ofNat 16 x.depth := next_passed hd
    have hclassify := classify_jumps (n := n) (a := arrivalOf l cell b) (v := arrivedAt c (taken l cell n b bs s)) (c := c)
      (by rw [hat]; exact he) (by rw [hat]; exact hd) (by rw [hat]; exact hmax)
    rw [hat] at hclassify hlands
    have hevu : (arrivedAt c (taken l cell n b bs s)).evu = s.evu := rfl
    have hloss := evu_flaggedAs_congr hevu srcStreamLoss (.loss n x.next passed)
    have hexecR : exec (.laneCellReceive l cell) s = .next (jump c n offset (arrivalOf l cell b) (arrivedAt c (taken l cell n b bs s))) :=
      hexec.trans (congrArg Host.Outcome.next hclassify)
    generalize jump c n offset (arrivalOf l cell b) (arrivedAt c (taken l cell n b bs s)) = R at hexecR hlands
    obtain ⟨hctx, hjumped, hdelivered, hlosses, hegress, hmissing, hframe⟩ := hlands
    rw [hat] at hctx hdelivered hlosses hegress hmissing
    refine ⟨R, hexecR, ?_, counted_since hjumped (counter_arrivedAt_taken (by decide)),
      counted_since hdelivered (counter_arrivedAt_taken (by decide)), counted_since hlosses (counter_arrivedAt_taken (by decide)),
      hegress, fun hnil hle => ?_, hframe.mga, hframe.entries, hframe.ltx, hframe.psc⟩
    · have hmin : min passed x.slots.length = min passed x.depth := by rw [hlen]
      rw [hctx, ← hk, ← hmin]
      rfl
    · obtain ⟨hrun, he, hq⟩ := hmissing hnil hle
      exact ⟨hrun, he.trans hloss, hq⟩
  case resync =>
    have hdel := hcalm StreamCounter.delivered.id (by decide) (by simp)
    have hresync := hcalm StreamCounter.resync.id (by decide) (by simp)
    have hslots : x.slots.length ≤ 32 := hlen ▸ h32
    have hruns := resync_resyncs (s := arrivedAt c (taken l cell n b bs s)) (c := c) (n := n) (p := q) (a := arrivalOf l cell b)
      (by exact rfl) (by exact hp) (by exact h.notHeld)
      (by rw [hat]; exact Nat.lt_of_le_of_lt (Nat.add_le_add hroom hslots) (by decide))
      (by rw [hat]; exact below_mono hdel (Nat.le_trans (Nat.add_le_add_right hslots 1) (by decide))) (below_mono hresync (by decide))
    have hclassify := classify_resyncs (n := n) (a := arrivalOf l cell b) (v := arrivedAt c (taken l cell n b bs s)) (c := c)
      (by rw [hat]; exact h32) (by rw [hat]; exact hr)
    have hexecR := hexec.trans (congrArg Host.Outcome.next hclassify)
    generalize resync c n (arrivalOf l cell b) (arrivedAt c (taken l cell n b bs s)) = R at hexecR hruns
    obtain ⟨hctx, hresynced, hdelivered, hlost, hegress, hevu, hframe⟩ := hruns
    rw [hat] at hctx hdelivered hegress
    refine ⟨R, hexecR, ?_, counted_since hresynced (counter_arrivedAt_taken (by decide)), ?_,
      hlost.trans (counter_arrivedAt_taken (by decide)), ?_, hevu, hframe.mga, hframe.entries, hframe.ltx, hframe.psc⟩
    · rw [hctx]
      show ({ x with
        next := seq, epoch := byteAt cell 6, synced := true, checkAgrees := true, arrived := true, lastRelease := instant x.slots.length
        slots := (List.replicate x.slots.length none).set 0 (some new) } : Context) = _
      rw [hlen, ← hsync]
    · rw [← hlen]
      exact counted_since hdelivered (counter_arrivedAt_taken (by decide))
    · rw [← hlen]
      exact hegress

end Sys2Proof.Machine
end

section
/-! PROOF SUPPORT. RELEASE_EXPIRY of one due cell, alone or behind a run of missing sequences (R103 to R106). -/

namespace Sys2Proof.Machine

open Safety

section
variable {s t : State} {c : ContextId} {n : StreamId} {p : PortId} {h : Held} {k j m : Nat} {x : Context}

/-! ### A window whose only held cell stands behind `k` empty slots -/

theorem loneSlot (hx : x.slots = List.replicate k none ++ some h :: List.replicate j none) :
    x.slot k = some h ∧ (∀ i, i ≠ k → x.slot i = none) ∧ x.heldCells = [h] ∧ x.firstPresent = some k := by
  have hslot : ∀ i, x.slot i = if i = k then some h else none := fun i => by
    rw [Context.slot, hx, List.getD_eq_getElem?_getD, List.getElem?_append]
    simp only [List.length_replicate, List.getElem?_replicate, List.getElem?_cons]
    grind
  have hnone (i : Nat) : (List.replicate i (none : Option Held)).filterMap id = [] := by
    rw [List.filterMap_replicate_of_none rfl]
  refine ⟨by rw [hslot, if_pos rfl], fun i hi => by rw [hslot, if_neg hi], ?_, ?_⟩
  · rw [Context.heldCells, hx, List.filterMap_append, hnone, List.nil_append, List.filterMap_cons, hnone]
    rfl
  · rw [Context.firstPresent, hx, List.findIdx?_append]
    have hmiss : (List.replicate k (none : Option Held)).findIdx? Option.isSome = none :=
      List.findIdx?_eq_none_iff.2 fun o ho => by rw [List.eq_of_mem_replicate ho]; rfl
    rw [hmiss, List.findIdx?_cons]
    simp

theorem loneSlot_advanced (hx : x.slots = List.replicate k none ++ some h :: List.replicate j none) :
    (x.advanced k).slots = some h :: List.replicate (k + j) none := by
  have hlen : k ≤ x.slots.length := by
    rw [hx, List.length_append, List.length_replicate]
    exact Nat.le_add_right ..
  rw [Context.advanced, Nat.min_eq_left hlen, hx, List.drop_left' List.length_replicate, List.cons_append, ← List.replicate_add,
    Nat.add_comm]

theorem slots_advanced_one {y : List (Option Held)} (hx : x.slots = some h :: y) : (x.advanced 1).slots = y ++ [none] := by
  rw [Context.advanced, hx]
  simp

/-- A due expiry with one held cell: the missing sequences declared, the cell released (R106). -/
theorem expireDue_lone (hx : (s.context c).slots = List.replicate k none ++ some h :: List.replicate j none) {due : Time}
    (hdue : (s.context c).deadline = some due) (hown : (s.context c).owner = some n) :
    execReleaseExpiry c s = .next (if later due s.now then s else releaseHead c n (declareRun c n k s)) := by
  obtain ⟨-, -, hheld, hfirst⟩ := loneSlot hx
  have htake : (s.context c).slots.take (k + 1) = List.replicate k none ++ [some h] := by
    rw [hx, List.take_append, List.length_replicate, List.take_of_length_le (by rw [List.length_replicate]; omega)]
    simp
  have hpass : ∀ k run, passSlots c n (List.replicate k none ++ [some h]) run s = releaseHead c n (declareRun c n (run + k) s) := by
    intro k
    induction k with
    | zero => intro run; rfl
    | succ k ih =>
      intro run
      rw [List.replicate_succ, List.cons_append, passSlots, ih]
      congr 2
      omega
  unfold execReleaseExpiry
  dsimp only
  rw [hown, hheld]
  show Host.Outcome.next (expireDue c n 1 s) = _
  unfold expireDue
  dsimp only
  rw [hdue, hfirst]
  dsimp only
  rw [htake, hpass, Nat.zero_add]
  rfl

theorem deadline_lone (hx : (s.context c).slots = List.replicate k none ++ some h :: List.replicate j none)
    (hatt : (s.context c).condition = .attached) :
    (s.context c).deadline = some (match (s.context c).lastRelease with
      | none => h.release
      | some r => if (r - h.release).toNat = 0 ∨ 2147483648 ≤ (r - h.release).toNat then h.release else r) := by
  obtain ⟨-, -, hheld, -⟩ := loneSlot hx
  unfold Context.deadline
  rw [if_pos hatt, hheld]
  cases (s.context c).lastRelease with
  | none => rfl
  | some r =>
    have hlater : later r h.release = true ↔ ¬ ((r - h.release).toNat = 0 ∨ 2147483648 ≤ (r - h.release).toNat) := by
      rw [later, Bool.and_eq_true_iff, decide_eq_true_iff, decide_eq_true_iff]
      omega
    dsimp only
    by_cases hl : later r h.release = true
    · rw [if_pos hl, if_neg (hlater.1 hl)]
    · rw [if_neg hl, if_pos (not_not.1 (mt hlater.2 hl))]

theorem later_iff {u t : Time} : later u t = true ↔ 0 < (u - t).toNat ∧ (u - t).toNat < 2147483648 := by
  rw [later, Bool.and_eq_true_iff, decide_eq_true_iff, decide_eq_true_iff]
  exact Iff.rfl

/-! ### What a declaration and a release leave whatever happens to their entries -/

/-- The runtime records, the windows and what the Merge Unit does not own are those of `s`. -/
structure SameWindow (s t : State) : Prop where
  stb : t.stb = s.stb
  mrg : t.mrg = s.mrg
  pins : t.pins = s.pins
  lck : t.lck = s.lck
  lrx : t.lrx = s.lrx
  psc : t.psc = s.psc

theorem sameWindow_of_events (h : OnlyEvents s t) : SameWindow s t := ⟨h.stb, h.mrg, h.pins, h.lck, h.lrx, h.psc⟩

theorem sameWindow_trans {u : State} (h : SameWindow s t) (k : SameWindow t u) : SameWindow s u :=
  ⟨k.stb.trans h.stb, k.mrg.trans h.mrg, k.pins.trans h.pins, k.lck.trans h.lck, k.lrx.trans h.lrx, k.psc.trans h.psc⟩

theorem offerGap_sameWindow (n : StreamId) (first : Seq) (lost : Nat) (d : Bool) (s : State) : SameWindow s (offerGap n first lost d s) := by
  unfold offerGap
  split
  · unfold offerEgress
    dsimp only
    split
    · exact ⟨rfl, rfl, rfl, rfl, rfl, rfl⟩
    · exact sameWindow_of_events (countPort_only ..)
  · exact ⟨rfl, rfl, rfl, rfl, rfl, rfl⟩

/-- A declaration records its losses and moves the window on (R104). -/
theorem declarePiece_moves (c : ContextId) (n : StreamId) (m : Nat) (s : State) :
    ∃ u, SameWindow (s.setRun n { s.run n with lossFirst := (s.context c).next, lossCount := m }) u ∧
      declarePiece c n m s = u.setContext c ((s.context c).advanced m).resealed := by
  have hcount := sameWindow_of_events (countTimes_only (.stream n StreamCounter.lost.id) m s)
  unfold declarePiece
  dsimp only
  generalize countTimes (.stream n StreamCounter.lost.id) m s = v at hcount
  have hrun : v.run n = s.run n := by rw [State.run, hcount.stb]; rfl
  have hmoved : SameWindow (s.setRun n { s.run n with lossFirst := (s.context c).next, lossCount := m })
      (v.setRun n { v.run n with lossFirst := (s.context c).next, lossCount := m }) := by
    refine ⟨?_, hcount.mrg, hcount.pins, hcount.lck, hcount.lrx, hcount.psc⟩
    rw [hrun, State.setRun, State.setRun, hcount.stb]
  have hend := sameWindow_trans hmoved (sameWindow_trans (sameWindow_of_events (fire_only srcStreamLoss (.loss n (s.context c).next m) _))
    (offerGap_sameWindow n (s.context c).next m false _))
  refine ⟨_, hend, congrArg (fun y : Context => State.setContext _ c (y.advanced m).resealed) ?_⟩
  rw [State.context, hend.mrg]
  rfl

/-- A delivery moves the last delivered sequence, and whatever becomes of its entry fills no window (R103, R135). -/
theorem deliver_moves {b : Nat} {seq : Seq} {epoch : Epoch} (n : StreamId) (c : ContextId) (v : State) (he : WindowEmpty v c) :
    ∃ u, SameWindow (v.setRun n { v.run n with lastValid := true, lastSeq := seq, lastEpoch := epoch }) u ∧
      OnlyHold u (deliver n b seq epoch v) ∧ WindowEmpty (deliver n b seq epoch v) c := by
  have hcount := sameWindow_of_events (countStream_only n .delivered v)
  unfold deliver
  generalize countStream n .delivered v = w at hcount
  have hrun : w.run n = v.run n := by rw [State.run, hcount.stb]; rfl
  have hset : SameWindow (v.setRun n { v.run n with lastValid := true, lastSeq := seq, lastEpoch := epoch }) (setDelivered n seq epoch w) := by
    refine ⟨?_, hcount.mrg, hcount.pins, hcount.lck, hcount.lrx, hcount.psc⟩
    rw [setDelivered, hrun, State.setRun, State.setRun, hcount.stb]
  have hempty : WindowEmpty (setDelivered n seq epoch w) c := by
    unfold WindowEmpty at *
    rw [State.context, hset.mrg]
    exact he
  unfold offerEgress
  dsimp only
  split
  · refine ⟨_, ?_, OnlyHold.refl _, hempty⟩
    exact ⟨hset.stb, hset.mrg, hset.pins, hset.lck, hset.lrx, hset.psc⟩
  · refine ⟨_, hset, ?_, ?_⟩
    · exact (dereference_hold _ _).trans ((countStream_hold _ _ _).trans (countPort_hold _ _ _))
    · exact (stays_closed.trans (stays_closed.dereference b _) (stays_closed.trans (stays_closed.count (.stream n StreamCounter.egressDrop.id) _)
        (stays_closed.count _ _))).windows c hempty

/-- One due cell behind `m` declared sequences, whatever becomes of the entries (R104, R106). -/
theorem expiry_moves (hatt : (s.context c).condition = .attached) (hm : 1 ≤ m) (hm32 : m ≤ 32)
    (hx : (s.context c).slots = List.replicate m none ++ some h :: List.replicate j none) :
    let t := releaseHead c n (declareRun c n m s)
    (t.run n).lossFirst = (s.context c).next ∧ (t.run n).lossCount = m ∧ (t.run n).lastValid = true ∧
      (t.run n).lastSeq = (s.context c).next + BitVec.ofNat 16 m ∧ (t.run n).lastEpoch = (s.context c).epoch ∧
      (t.context c).next = (s.context c).next + BitVec.ofNat 16 (m + 1) ∧ (t.context c).heldCells = [] ∧
      t.lrx = s.lrx ∧ t.psc = s.psc ∧ t.pins = s.pins ∧ t.lck = s.lck := by
  obtain ⟨u, hu, hdeclared⟩ := declarePiece_moves c n m s
  have hctx : (u.setContext c ((s.context c).advanced m).resealed).context c = ((s.context c).advanced m).resealed :=
    State.context_setContext_self ..
  have hslots : (((s.context c).advanced m).resealed).slots = some h :: List.replicate (m + j) none := loneSlot_advanced hx
  have hhead : ((u.setContext c ((s.context c).advanced m).resealed).context c).slot 0 = some h := by
    rw [hctx, Context.slot, hslots]
    rfl
  intro t
  have ht : t = releaseHead c n (u.setContext c ((s.context c).advanced m).resealed) := by
    rw [← hdeclared, ← declareRun_one c n hm hm32 s]
  rw [releaseHead_delivers hhead, releasedHead, hctx, setContext_setContext] at ht
  generalize hy : { (((s.context c).advanced m).resealed).advanced 1 with
    lastRelease := some (u.setContext c ((s.context c).advanced m).resealed).now, checkAgrees := true : Context } = y at ht
  have hyslots : y.slots = List.replicate (m + j) none ++ [none] := by rw [← hy]; exact slots_advanced_one hslots
  have hyheld : y.heldCells = [] := by
    rw [Context.heldCells, hyslots, List.filterMap_append, List.filterMap_replicate_of_none rfl]
    rfl
  have hycond : y.condition = .attached := by rw [← hy]; exact hatt
  have hynext : y.next = (s.context c).next + BitVec.ofNat 16 (m + 1) := by
    rw [← hy]
    show (s.context c).next + BitVec.ofNat 16 m + BitVec.ofNat 16 1 = _
    rw [BitVec.ofNat_add, BitVec.add_assoc]
  have hself : (u.setContext c y).context c = y := State.context_setContext_self ..
  obtain ⟨z, hz, hhold, hempty⟩ := deliver_moves (b := h.buffer) (seq := (((s.context c).advanced m).resealed).next)
    (epoch := (((s.context c).advanced m).resealed).epoch) n c (u.setContext c y) (fun _ => by rw [hself]; exact hyheld)
  rw [← ht] at hhold hempty
  have hrun : z.run n = { u.run n with
      lastValid := true, lastSeq := (((s.context c).advanced m).resealed).next, lastEpoch := (((s.context c).advanced m).resealed).epoch } := by
    rw [State.run, hz.stb]
    exact State.run_setRun_self (u.setContext c y) n _
  have hloss : u.run n = { s.run n with lossFirst := (s.context c).next, lossCount := m } := by
    rw [State.run, hu.stb]
    exact State.run_setRun_self ..
  have hzctx : z.context c = y := by
    rw [State.context, hz.mrg]
    exact hself
  obtain ⟨q, hq⟩ := hhold.run n
  obtain ⟨sl, lr, ck, hc⟩ := hhold.context c
  rw [hrun, hloss] at hq
  rw [hzctx] at hc
  have hcond : (t.context c).condition = .attached := by rw [hc]; exact hycond
  have hnext : (t.context c).next = y.next := by rw [hc]
  refine ⟨?_, ?_, ?_, ?_, ?_, hnext.trans hynext, hempty hcond, ?_, ?_, ?_, ?_⟩
  · rw [hq]
  · rw [hq]
  · rw [hq]
  · rw [hq]
    rfl
  · rw [hq]
    rfl
  · exact hhold.lrx.trans (hz.lrx.trans hu.lrx)
  · exact hhold.psc.trans (hz.psc.trans hu.psc)
  · exact hhold.pins.trans (hz.pins.trans hu.pins)
  · exact hhold.lck.trans (hz.lck.trans hu.lck)

/-! ### The two effects together -/

theorem delivering_rewritten (seq : Seq) (epoch : Epoch) (v : State) (q q' : List EgressEntry) (x y : Context) :
    delivering n seq epoch ((((v.setEgress p q).setContext c x).setContext c y).setEgress p q') =
      (((bump (.stream n StreamCounter.delivered.id) v).setContext c y).setEgress p q').setRun n
        { v.run n with lastValid := true, lastSeq := seq, lastEpoch := epoch } := by
  have hbase : (((v.setEgress p q).setContext c x).setContext c y).setEgress p q' = (v.setContext c y).setEgress p q' := by
    rw [setContext_setContext]
    exact setEgress_setEgress (v.setContext c y) p q q'
  rw [hbase, delivering, ← setEgress_bump, ← setContext_bump]
  rfl

theorem flaggedAs_setRun (src : Source) (d : Detail) (v : State) (x : RunRecord) :
    flaggedAs src d (v.setRun n x) = (flaggedAs src d v).setRun n x := by
  rw [flaggedAs_eq, flaggedAs_eq]
  rfl

theorem bump_flaggedAs (r : CounterRef) (src : Source) (d : Detail) (v : State) :
    bump r (flaggedAs src d v) = flaggedAs src d (bump r v) := by
  rw [flaggedAs_eq, flaggedAs_eq, bump_eq, bump_eq]
  rfl

theorem bump_setRun (r : CounterRef) (v : State) (x : RunRecord) : bump r (v.setRun n x) = (bump r v).setRun n x := by
  rw [bump_eq, bump_eq]
  rfl

theorem lossRecorded_delivered (c : ContextId) (n : StreamId) (m : Nat) (s : State) (r : RunRecord) :
    (bump (.stream n StreamCounter.delivered.id) (lossRecorded c n m s)).setRun n r =
      (flaggedAs srcStreamLoss (.loss n (s.context c).next m)
        (bump (.stream n StreamCounter.delivered.id) (bumps (.stream n StreamCounter.lost.id) m s))).setRun n r := by
  rw [lossRecorded, flaggedAs_setRun, bump_setRun, setRun_setRun, bump_flaggedAs]

/-- A due cell behind `m` missing sequences, with room for what it brings (R104, R106). -/
theorem expiry_joins (hm : 1 ≤ m) (hm32 : m ≤ 32)
    (hx : (s.context c).slots = List.replicate m none ++ some h :: List.replicate j none) (hport : (s.entry n).port = p)
    (hp : s.present p = true) (hh : s.mga.held = false) (hroom : (s.egress p).length < 511) (hs : Silent s srcStreamLoss)
    (hlost : Below s (.stream n StreamCounter.lost.id) 32) (hdel : (s.counter (.stream n StreamCounter.delivered.id)).atHalf = false) :
    releaseHead c n (declareRun c n m s) =
      ((((flaggedAs srcStreamLoss (.loss n (s.context c).next m) (bump (.stream n StreamCounter.delivered.id)
        (bumps (.stream n StreamCounter.lost.id) m s))).setContext c
          { s.context c with
            next := (s.context c).next + BitVec.ofNat 16 m + 1
            slots := List.replicate (m + j + 1) none
            lastRelease := some s.now
            checkAgrees := true }).setEgress p
          (s.egress p ++ lossMark n (s.context c).next m s ++ [.media h.buffer n ((s.context c).next + BitVec.ofNat 16 m)])).setRun n
        { s.run n with
          lastValid := true, lastSeq := (s.context c).next + BitVec.ofNat 16 m, lastEpoch := (s.context c).epoch
          lossFirst := (s.context c).next, lossCount := m }) := by
  rw [declareRun_one c n hm hm32, declarePiece_joins (p := p) (below_mono hlost hm32) hs hport hp hh (by omega)]
  have hslots : (((s.context c).advanced m).resealed).slots = some h :: List.replicate (m + j) none := loneSlot_advanced hx
  obtain ⟨hrun, -⟩ := lossRecorded_leaves c n m s
  obtain ⟨x, y, hxy⟩ := lossRecorded_eq c n m s
  have hmark : (lossMark n (s.context c).next m s).length ≤ 1 := by
    unfold lossMark
    split <;> simp
  have hfull : (s.egress p ++ lossMark n (s.context c).next m s).length < 512 := by
    rw [List.length_append]
    omega
  have hcounter : (lossRecorded c n m s).counter (.stream n StreamCounter.delivered.id) = s.counter (.stream n StreamCounter.delivered.id) :=
    (counter_lossRecorded _).trans (counter_bumps_ne (fun he => absurd (CounterRef.stream.inj he).2 (by decide)) m s)
  have hentry : (lossRecorded c n m s).entry n = s.entry n := by rw [hxy]; rfl
  have hpresent : (lossRecorded c n m s).present p = s.present p := by rw [hxy]; rfl
  have hheld : (lossRecorded c n m s).mga.held = s.mga.held := by rw [hxy]; rfl
  have hnow : (lossRecorded c n m s).now = s.now := by rw [hxy]; rfl
  have hswap := lossRecorded_delivered c n m s { s.run n with
    lastValid := true, lastSeq := (s.context c).next + BitVec.ofNat 16 m, lastEpoch := (s.context c).epoch
    lossFirst := (s.context c).next, lossCount := m }
  generalize lossRecorded c n m s = v at hrun hcounter hentry hpresent hheld hnow hswap
  generalize lossMark n (s.context c).next m s = mark at hfull
  generalize hA : ((s.context c).advanced m).resealed = A at hslots
  have hctx : ((v.setEgress p (s.egress p ++ mark)).setContext c A).context c = A := State.context_setContext_self ..
  have hegress : ((v.setEgress p (s.egress p ++ mark)).setContext c A).egress p = s.egress p ++ mark := State.egress_setEgress_self ..
  have hnext : A.next = (s.context c).next + BitVec.ofNat 16 m := by rw [← hA]; rfl
  have hepoch : A.epoch = (s.context c).epoch := by rw [← hA]; rfl
  have hreleased : releasedHead c ((v.setEgress p (s.egress p ++ mark)).setContext c A) = { s.context c with
      next := (s.context c).next + BitVec.ofNat 16 m + 1, slots := List.replicate (m + j + 1) none, lastRelease := some s.now
      checkAgrees := true } := by
    rw [List.replicate_succ', ← slots_advanced_one hslots, releasedHead, hctx, ← hA, ← hnow]
    rfl
  rw [releaseHead_joins (h := h) (p := p) (by rw [hctx, Context.slot, hslots]; rfl)
    (by exact (congrArg StreamEntry.port hentry).trans hport) (by exact hpresent.trans hp) (by exact hheld.trans hh)
    (by rw [hegress]; exact hfull) (by exact (congrArg Counter.atHalf hcounter).trans hdel), hreleased, hegress, hctx,
    delivering_rewritten, hnext, hepoch, hrun]
  exact congrArg (fun w : State => (w.setContext c _).setEgress p _) hswap

end

/-- Settles O30. -/
theorem releasesAndLosses : Obligations.ReleasesAndLosses := by
  refine ⟨fun s c n h j hatt hown hx => ?alone, fun s c n h k j hatt hown hk hk32 hx hlast hlate => ?behind⟩
  case alone =>
    intro p isLater due
    have hexec : exec (.releaseExpiry c) s = .next (if later due s.now then s else releaseHead c n (declareRun c n 0 s)) :=
      expireDue_lone (k := 0) hx (deadline_lone (k := 0) hx hatt) hown
    refine ⟨fun hl => ?_, fun hl hheld hp hroom hcalm => ?_⟩
    · rw [hexec, if_pos (later_iff.2 hl)]
    · have hhead : (s.context c).slot 0 = some h := (loneSlot (k := 0) hx).1
      have hreleased : releasedHead c s = { s.context c with
          next := (s.context c).next + 1, slots := List.replicate j none ++ [none], lastRelease := some s.now, checkAgrees := true } := by
        rw [← slots_advanced_one hx]
        rfl
      rw [hexec, if_neg (mt later_iff.1 hl)]
      show Host.Outcome.next (releaseHead c n s) = _
      rw [releaseHead_joins hhead rfl hp hheld hroom (hcalm _ (List.mem_singleton_self _)), hreleased]
      rfl
  case behind =>
    intro first behind p
    have hdeadline := deadline_lone hx hatt
    rw [hlast] at hdeadline
    have hexec : exec (.releaseExpiry c) s = .next (releaseHead c n (declareRun c n k s)) :=
      (expireDue_lone hx hdeadline hown).trans (congrArg _ (if_neg fun hl => by
        have hfuture : 0 < (h.release - s.now).toNat ∧ (h.release - s.now).toNat < 2147483648 := later_iff.1 hl
        omega))
    refine ⟨⟨_, hexec, expiry_moves hatt hk hk32 hx⟩, fun hheld hp hroom hs hfar => ?_⟩
    have hlost := below_of_far hfar (r := .stream n StreamCounter.lost.id) (by simp)
    have hdel := below_of_far hfar (r := .stream n StreamCounter.delivered.id) (by simp)
    rw [hexec, expiry_joins hk hk32 hx rfl hp hheld hroom hs (below_mono hlost (by decide)) (calm_of_below hdel (by decide))]
    rfl

end Sys2Proof.Machine
end

section
/-! PROOF SUPPORT. The attachment of a context by an arriving cell (R95 to R97, R109 to R111). -/

namespace Sys2Proof.Machine

open Safety

section
variable {s v : State} {c : ContextId} {n : StreamId} {p : PortId} {a : Arrival} {x y : Context} {epoch : Epoch}

/-! ### A context linked to its stream -/

/-- Context `c` set to `x` and carried by stream `n` (R96). -/
def linkedTo (c : ContextId) (n : StreamId) (x : Context) (v : State) : State :=
  (v.setContext c x).setRun n { v.run n with context := some c }

theorem context_linkedTo : (linkedTo c n x v).context c = x := State.context_setContext_self v c x

theorem linkedTo_setContext : (linkedTo c n x v).setContext c y = linkedTo c n y v :=
  congrArg (State.setRun · n { v.run n with context := some c }) (setContext_setContext v c x y)

theorem arrivedAt_linkedTo : arrivedAt c (linkedTo c n x v) = linkedTo c n { x with arrived := true } v := by
  rw [arrivedAt, linkedTo_setContext, context_linkedTo]

theorem linkedTo_setEgress (q : List EgressEntry) : (linkedTo c n x v).setEgress p q = linkedTo c n x (v.setEgress p q) := rfl

theorem linkedTo_bump (r : CounterRef) : bump r (linkedTo c n x v) = linkedTo c n x (bump r v) := by
  have hrun : (bump r v).run n = v.run n := by rw [bump_eq]; rfl
  rw [linkedTo, linkedTo, bump_setRun, setContext_bump, hrun]

theorem attach_fixed (h : (v.entry n).holdMode = .fixed) :
    attach c n epoch v =
      linkedTo c n { attachedContext n (v.entry n) (v.run n) c epoch with hold := (v.entry n).holdUs } v := by
  unfold attach
  dsimp only
  rw [h]
  show (linkedTo c n (attachedContext n (v.entry n) (v.run n) c epoch) v).setContext c
    { (linkedTo c n (attachedContext n (v.entry n) (v.run n) c epoch) v).context c with hold := (v.entry n).holdUs } = _
  rw [linkedTo_setContext, context_linkedTo]

theorem attach_auto (h : (v.entry n).holdMode = .auto) :
    attach c n epoch v = evaluateHold c n (v.targetOf n) (linkedTo c n (attachedContext n (v.entry n) (v.run n) c epoch) v) := by
  unfold attach
  dsimp only
  rw [h]
  rfl

/-! ### The arrival at the attached context (R97, R98) -/

theorem arrive_starts (h : (v.context c).synced = false) :
    arrive c n a v = startRun c n a (if (v.run n).lastValid then announceResync n a.seq (arrivedAt c v) else arrivedAt c v) := by
  have hsync : ((arrivedAt c v).context c).synced = false := by rw [context_arrivedAt]; exact h
  exact if_neg (by show ¬ ((arrivedAt c v).context c).synced = true; rw [hsync]; exact Bool.false_ne_true)

theorem arrive_classifies (h : (v.context c).synced = true) : arrive c n a v = classify c n a (arrivedAt c v) := by
  have hsync : ((arrivedAt c v).context c).synced = true := by rw [context_arrivedAt]; exact h
  exact if_pos hsync

/-- The context of a run that starts in slot 0. -/
def started (a : Arrival) (x : Context) (v : State) : Context :=
  { x with arrived := true, next := a.seq, epoch := a.epoch, synced := true, checkAgrees := true
           slots := x.slots.set 0 (some (heldBy a x.hold v)) }

theorem startRun_linkedTo {j : Nat} (hx : x.slots = List.replicate j none) (hh : v.mga.held = false) :
    startRun c n a (linkedTo c n { x with arrived := true } v) = linkedTo c n (started a x v) v := by
  rw [startRun_fills (j := j) (by rw [context_linkedTo]; exact hx) (by exact hh), linkedTo_setContext, context_linkedTo]
  rfl

/-- The first cell of the stream starts the run (R97). -/
theorem arrive_first {j : Nat} (hx : x.slots = List.replicate j none) (hs : x.synced = false) (hh : v.mga.held = false)
    (hv : (v.run n).lastValid = false) : arrive c n a (linkedTo c n x v) = linkedTo c n (started a x v) v := by
  have hrun : ((linkedTo c n x v).run n).lastValid = false := by
    rw [linkedTo, State.run_setRun_self]
    exact hv
  rw [arrive_starts (by rw [context_linkedTo]; exact hs), hrun, if_neg Bool.false_ne_true, arrivedAt_linkedTo, startRun_linkedTo hx hh]

/-- A cell of another epoch announces its resync and starts the run (R97). -/
theorem arrive_resyncs {j : Nat} (hx : x.slots = List.replicate j none) (hs : x.synced = false) (hh : v.mga.held = false)
    (hv : (v.run n).lastValid = true) (hport : (v.entry n).port = p) (hp : v.present p = true) (hroom : (v.egress p).length < 512)
    (hc : (v.counter (.stream n StreamCounter.resync.id)).atHalf = false) :
    arrive c n a (linkedTo c n x v) = linkedTo c n (started a x v) (bump (.stream n StreamCounter.resync.id)
      (v.setEgress p (v.egress p ++ (if (v.entry n).gapMarkers then [.gap n a.seq 0 true] else [])))) := by
  have hrun : ((linkedTo c n x v).run n).lastValid = true := by
    rw [linkedTo, State.run_setRun_self]
    exact hv
  have hmark := announceResync_marks (v := linkedTo c n { x with arrived := true } v) (n := n) (seq := a.seq) (p := p)
    (by exact hport) (by exact hp) (by exact hh) (by exact hroom) (by exact hc)
  rw [arrive_starts (by rw [context_linkedTo]; exact hs), hrun, if_pos rfl, arrivedAt_linkedTo, hmark, linkedTo_setEgress, linkedTo_bump,
    startRun_linkedTo hx (by exact hh)]
  rfl

/-- A cell within the window resumed behind the last delivered sequence (R96, R99). -/
theorem arrive_resumes {j : Nat} (hx : x.slots = List.replicate j none) (hs : x.synced = true) (hh : v.mga.held = false)
    (he : a.epoch = x.epoch) (hd : (a.seq - x.next).toNat < x.depth) :
    arrive c n a (linkedTo c n x v) = linkedTo c n { x with
      arrived := true, checkAgrees := true, slots := x.slots.set (a.seq - x.next).toNat (some (heldBy a x.hold v)) } v := by
  have hslot : ({ x with arrived := true } : Context).slot (a.seq - x.next).toNat = none := by
    show x.slots.getD _ none = none
    rw [hx, List.getD_eq_getElem?_getD, List.getElem?_replicate]
    split <;> rfl
  have hctx : (linkedTo c n { x with arrived := true } v).context c = { x with arrived := true } := context_linkedTo
  have hclass := classify_stores (v := linkedTo c n { x with arrived := true } v) (c := c) (n := n) (a := a)
    (by rw [hctx]; exact he) (by rw [hctx]; exact hd)
  rw [hctx] at hclass
  rw [arrive_classifies (by rw [context_linkedTo]; exact hs), arrivedAt_linkedTo, hclass,
    storeAt_fills (by rw [hctx]; exact hslot) (by exact hh), linkedTo_setContext, hctx]
  rfl

/-! ### The AUTO hold at attachment (R109 to R111) -/

theorem skewOf_congr (h : ∀ l, (v.rx l).state = (s.rx l).state ∧ (v.rx l).delay = (s.rx l).delay) (hp : v.effectivePlan n = s.effectivePlan n) :
    v.skewOf n = s.skewOf n := by
  have hstate (l : Lane) := (h l).1
  have hdelay (l : Lane) := (h l).2
  simp only [State.skewOf, State.countingDelays, hp, hstate, hdelay]

theorem clamp_min (w lo hi : Nat) : clamp w lo hi = if w < lo then lo else min w hi := by
  unfold clamp
  split
  · rfl
  · split <;> omega

/-- The context and the record after an AUTO attachment and the start of the run, and the SKEW it raises. -/
theorem arrive_auto {j hold : Nat} (hx : x.slots = List.replicate j none) (hs : x.synced = false) (hh : v.mga.held = false)
    (hv : (v.run n).lastValid = false) (hskew : x.skew = false) (hseal : x.checkAgrees = true) :
    let t := arrive c n a (evaluateHold c n hold (linkedTo c n x v))
    let raw := v.rawOf n
    let exceeds := decide ((v.entry n).holdMax < raw)
    t.context c = started a { x with hold := hold, raw := raw, skew := exceeds } v ∧ t.run n = { v.run n with context := some c } ∧
      ((v.entry n).holdMax < raw → Silent v srcSkew → t.evu = (flaggedAs srcSkew (.skew n (min raw 65535)) v).evu) := by
  intro t raw exceeds
  have hwith : (linkedTo c n x v).setContext c (((linkedTo c n x v).context c).withHold hold raw exceeds) =
      linkedTo c n { x with hold := hold, raw := raw, skew := exceeds } v := by
    rw [linkedTo_setContext, context_linkedTo, Context.withHold, hseal, ite_self, ← hseal]
  have hskewed : (exceeds && !((linkedTo c n x v).context c).skew) = exceeds := by rw [context_linkedTo, hskew, Bool.not_false, Bool.and_true]
  have hhold : evaluateHold c n hold (linkedTo c n x v) =
      if exceeds then fire srcSkew (.skew n (min raw 65535)) (linkedTo c n { x with hold := hold, raw := raw, skew := exceeds } v)
      else linkedTo c n { x with hold := hold, raw := raw, skew := exceeds } v := by
    rw [← hwith]
    exact congrArg (fun b : Bool => if b then fire srcSkew (.skew n (min raw 65535)) ((linkedTo c n x v).setContext c
      (((linkedTo c n x v).context c).withHold hold raw exceeds)) else (linkedTo c n x v).setContext c
      (((linkedTo c n x v).context c).withHold hold raw exceeds)) hskewed
  have ht : t = arrive c n a (if exceeds then fire srcSkew (.skew n (min raw 65535))
      (linkedTo c n { x with hold := hold, raw := raw, skew := exceeds } v)
      else linkedTo c n { x with hold := hold, raw := raw, skew := exceeds } v) := congrArg (arrive c n a) hhold
  have honly : OnlyEvents (linkedTo c n { x with hold := hold, raw := raw, skew := exceeds } v)
      (if exceeds then fire srcSkew (.skew n (min raw 65535)) (linkedTo c n { x with hold := hold, raw := raw, skew := exceeds } v)
      else linkedTo c n { x with hold := hold, raw := raw, skew := exceeds } v) := by
    split
    · exact fire_only ..
    · exact .refl _
  have hevu (he : (v.entry n).holdMax < raw) (hq : Silent v srcSkew) :
      (if exceeds then fire srcSkew (.skew n (min raw 65535)) (linkedTo c n { x with hold := hold, raw := raw, skew := exceeds } v)
      else linkedTo c n { x with hold := hold, raw := raw, skew := exceeds } v).evu = (flaggedAs srcSkew (.skew n (min raw 65535)) v).evu := by
    rw [if_pos (by exact decide_eq_true he), fire_flaggedAs (by exact ⟨hq.notFault, hq.unbound, hq.quiet⟩)]
    exact evu_flaggedAs_congr (by rfl) _ _
  generalize (if exceeds then fire srcSkew (.skew n (min raw 65535)) (linkedTo c n { x with hold := hold, raw := raw, skew := exceeds } v)
      else linkedTo c n { x with hold := hold, raw := raw, skew := exceeds } v) = w at ht honly hevu
  have hctx : w.context c = { x with hold := hold, raw := raw, skew := exceeds } := by
    rw [State.context, honly.mrg]
    exact context_linkedTo
  have hrun : w.run n = { v.run n with context := some c } := by
    rw [State.run, honly.stb]
    exact State.run_setRun_self ..
  have hnow : w.now = v.now := by rw [State.now, honly.lck]; rfl
  have hat : (arrivedAt c w).context c = { x with hold := hold, raw := raw, skew := exceeds, arrived := true } := by
    rw [context_arrivedAt, hctx]
  rw [arrive_starts (by rw [hctx]; exact hs), hrun, hv, if_neg Bool.false_ne_true,
    startRun_fills (j := j) (by rw [hat]; exact hx) (by rw [← hh]; exact congrArg ManagementAgent.held honly.mga), hat] at ht
  rw [ht]
  refine ⟨?_, hrun, hevu⟩
  rw [State.context_setContext_self, started, heldBy, heldBy, ← hnow]
  rfl

end

/-! ### The context a stream takes (R95) -/

theorem contextFor_takes {s : State} {n : StreamId} {c : ContextId} (h : (s.entry n).pin = some c ∨
    ((s.entry n).pin = none ∧ (s.context c).condition = .free ∧ ∀ d, d < c → (s.context d).condition ≠ .free)) : s.contextFor n = some c := by
  unfold State.contextFor
  rcases h with h | ⟨h, hfree, hbefore⟩
  · rw [h]
  · rw [h]
    refine List.find?_eq_some_iff_getElem.2 ⟨by rw [hfree]; rfl, c.val, by rw [contextIds, List.length_finRange]; exact c.isLt, ?_, fun j hj => ?_⟩
    · simp [contextIds]
    · have := hbefore ⟨j, hj.trans c.isLt⟩ hj
      simpa [contextIds] using this

theorem contextFor_none {s : State} {n : StreamId} (h : (s.entry n).pin = none) (hfree : ∀ c, (s.context c).condition ≠ .free) :
    s.contextFor n = none := by
  unfold State.contextFor
  rw [h]
  exact List.find?_eq_none.2 fun c _ => by simpa using hfree c

section
variable {v : State} {n : StreamId} {c : ContextId} {a : Arrival} {p : PortId}

theorem mergeUnit_attaches (hx : (v.run n).context = none) (ha : (v.entry n).checkAgrees = true) (hc : v.contextFor n = some c) :
    mergeUnit n a v = arrive c n a (attach c n a.epoch v) := by
  unfold mergeUnit
  rw [hx]
  dsimp only
  rw [if_pos ha, hc]

theorem mergeUnit_unmerged (hx : (v.run n).context = none) (ha : (v.entry n).checkAgrees = true) (hc : v.contextFor n = none) :
    mergeUnit n a v = forwardFilter n a (fire srcMergePool (.mergePool n) v) := by
  unfold mergeUnit
  rw [hx]
  dsimp only
  rw [if_pos ha, hc]

/-- The first cell of a merging stream without a context, by the forward filter (R95, R113). -/
theorem forwardFilter_pooled (hm : (v.entry n).merge = true) (hv : (v.run n).lastValid = false) (hport : (v.entry n).port = p)
    (hp : v.present p = true) (hh : v.mga.held = false) (hroom : (v.egress p).length < 512)
    (hu : (v.counter (.stream n StreamCounter.unmerged.id)).atHalf = false)
    (hd : (v.counter (.stream n StreamCounter.delivered.id)).atHalf = false) :
    forwardFilter n a v = delivering n a.seq a.epoch
      (bump (.stream n StreamCounter.unmerged.id) (v.setEgress p (v.egress p ++ [.media a.buffer n a.seq]))) := by
  have hcount : countStream n .unmerged v = bump (.stream n StreamCounter.unmerged.id) v := count_bump hu
  unfold forwardFilter
  dsimp only
  rw [hm, hv, Bool.not_false, Bool.true_or, Bool.true_or, if_pos rfl, if_pos rfl, Bool.false_and, if_neg Bool.false_ne_true, hcount,
    deliver_joins (p := p) (by exact hport) (by exact hp) (by exact hh) (by rw [egress_bump]; exact hroom)
      (atHalf_bump_ne (fun he => absurd (CounterRef.stream.inj he).2 (by decide)) hd), setEgress_bump, egress_bump]

theorem flaggedAs_setEgress (src : Source) (d : Detail) (q : List EgressEntry) :
    flaggedAs src d (v.setEgress p q) = (flaggedAs src d v).setEgress p q := by
  rw [flaggedAs_eq, flaggedAs_eq]
  rfl

/-- The filter behind the MERGE_POOL event. -/
theorem forwardFilter_flagged {d : Detail} (hm : (v.entry n).merge = true) (hv : (v.run n).lastValid = false) (hport : (v.entry n).port = p)
    (hp : v.present p = true) (hh : v.mga.held = false) (hroom : (v.egress p).length < 512)
    (hu : (v.counter (.stream n StreamCounter.unmerged.id)).atHalf = false)
    (hd : (v.counter (.stream n StreamCounter.delivered.id)).atHalf = false) :
    forwardFilter n a (flaggedAs srcMergePool d v) =
      (flaggedAs srcMergePool d (bump (.stream n StreamCounter.delivered.id) (bump (.stream n StreamCounter.unmerged.id)
        (v.setEgress p (v.egress p ++ [.media a.buffer n a.seq]))))).setRun n
          { v.run n with lastValid := true, lastSeq := a.seq, lastEpoch := a.epoch } := by
  rw [← bump_flaggedAs, ← bump_flaggedAs, flaggedAs_setEgress]
  rw [flaggedAs_eq]
  rw [forwardFilter_pooled (p := p) (by exact hm) (by exact hv) (by exact hport) (by exact hp) (by exact hh) (by exact hroom) (by exact hu)
    (by exact hd), delivering, bump_eq (.stream n StreamCounter.unmerged.id)]
  rfl

end

theorem skew_taken (l : Lane) (cell : List Byte) (n : StreamId) (b : Nat) (bs : List Nat) (s : State) (m : Lane) :
    ((taken l cell n b bs s).rx m).state = (s.rx m).state ∧ ((taken l cell n b bs s).rx m).delay = (s.rx m).delay := by
  have hrx : (taken l cell n b bs s).rx m = (s.setRx l { s.rx l with badHeaders := 0 }).rx m := rfl
  rw [hrx, State.rx_setRx]
  split
  · next he => exact he ▸ ⟨rfl, rfl⟩
  · exact ⟨rfl, rfl⟩

/-! ### The context as attachment prepares it (R96) -/

/-- An empty context of the stream, its run not begun. -/
def freshContext (n : StreamId) (e : StreamEntry) (c : ContextId) : Context :=
  { Context.cleared with
    condition := .attached, owner := some n, pinned := decide (e.pin = some c), depth := e.depth, slots := List.replicate e.depth none }

theorem attachedContext_fresh {n : StreamId} {e : StreamEntry} {r : RunRecord} {c : ContextId} {epoch : Epoch}
    (h : r.lastValid = false ∨ epoch ≠ r.lastEpoch) : attachedContext n e r c epoch = freshContext n e c := by
  have hresumes : (r.lastValid && epoch == r.lastEpoch) = false := by
    rcases h with h | h
    · rw [h, Bool.false_and]
    · rw [beq_eq_false_iff_ne.2 h, Bool.and_false]
  rw [attachedContext, hresumes, freshContext, beq_eq_decide]
  rfl

theorem attachedContext_resumes {n : StreamId} {e : StreamEntry} {r : RunRecord} {c : ContextId} {epoch : Epoch}
    (hv : r.lastValid = true) (h : epoch = r.lastEpoch) :
    attachedContext n e r c epoch = { freshContext n e c with synced := true, next := r.lastSeq + 1, epoch := r.lastEpoch } := by
  have hresumes : (r.lastValid && epoch == r.lastEpoch) = true := by rw [hv, h, Bool.true_and, beq_self_eq_true]
  rw [attachedContext, hresumes, freshContext, beq_eq_decide]
  rfl

/-- Settles O27. -/
theorem contextAttaches : Obligations.ContextAttaches := by
  intro s l cell n b bs h hm hnone e x seq hcalm
  have hgood := hcalm (.lane l LaneCounter.rxGood.id) (by simp)
  have hcells := hcalm (.stream n StreamCounter.rxCells.id) (by simp)
  have hexec : exec (.laneCellReceive l cell) s = .next (mergeUnit n (arrivalOf l cell b) (taken l cell n b bs s)) := by
    rw [exec_takesMedia h hgood hcells, if_pos hm]
  refine ⟨fun c hc => ?attaches, fun hpin hfree hv hs hp hroom => ?pooled⟩
  case attaches =>
    intro held attached linked
    have hfor : (taken l cell n b bs s).contextFor n = some c := contextFor_takes (by exact hc)
    have hattach : exec (.laneCellReceive l cell) s = .next (arrive c n (arrivalOf l cell b)
        (attach c n (byteAt cell 6) (taken l cell n b bs s))) := by
      rw [hexec, mergeUnit_attaches (by exact hnone) (by exact h.agrees) hfor]
      rfl
    refine ⟨fun hmode hv => ?_, fun hmode hv he hp hroom => ?_, fun hmode hv he hd => ?_, fun hmode hv => ?_⟩
    · rw [hattach, attach_fixed (by exact hmode), attachedContext_fresh (.inl (by exact hv)),
        arrive_first (j := e.depth) (by exact rfl) (by exact rfl) (by exact h.notHeld) (by exact hv)]
      rfl
    · have hresync := taken_calm (c := StreamCounter.resync.id) (l := l) (cell := cell) (b := b) (bs := bs) (by decide)
        (hcalm (.stream n StreamCounter.resync.id) (by simp))
      rw [hattach, attach_fixed (by exact hmode), attachedContext_fresh (.inr (by exact he)),
        arrive_resyncs (j := e.depth) (p := e.port) (by exact rfl) (by exact rfl) (by exact h.notHeld) (by exact hv) (by exact rfl)
          (by exact hp) (by exact hroom) hresync]
      rfl
    · rw [hattach, attach_fixed (by exact hmode), attachedContext_resumes (by exact hv) (by exact he),
        arrive_resumes (j := e.depth) (by exact rfl) (by exact rfl) (by exact h.notHeld) (by exact he) (by exact hd)]
      rfl
    · have hauto := arrive_auto (c := c) (a := arrivalOf l cell b) (v := taken l cell n b bs s) (n := n) (x := freshContext n e c)
        (hold := (taken l cell n b bs s).targetOf n) (j := e.depth) rfl rfl (by exact h.notHeld) (by exact hv) rfl rfl
      have hraw : (taken l cell n b bs s).rawOf n = s.skewOf n + s.mga.settings.guards.get s.psc.effective :=
        congrArg (· + s.mga.settings.guards.get s.psc.effective) (skewOf_congr (skew_taken l cell n b bs s) rfl)
      obtain ⟨hctx, hrun, hevu⟩ := hauto
      have htarget : (taken l cell n b bs s).targetOf n = if (taken l cell n b bs s).rawOf n < e.holdMin then e.holdMin
          else min ((taken l cell n b bs s).rawOf n) e.holdMax := clamp_min ..
      have hstep := hattach
      rw [attach_auto (by exact hmode), attachedContext_fresh (.inl (by exact hv))] at hstep
      refine ⟨_, s.skewOf n, hstep, skewIs_skewOf s n, ?_⟩
      intro raw
      rw [hraw] at hevu
      refine ⟨hctx.trans ?_, hrun, fun hlt hq => (hevu hlt ⟨hq.notFault, hq.unbound, hq.quiet⟩).trans (evu_flaggedAs_congr (by rfl) _ _)⟩
      rw [htarget, hraw]
      rfl
  case pooled =>
    have hunmerged := taken_calm (c := StreamCounter.unmerged.id) (l := l) (cell := cell) (b := b) (bs := bs) (by decide)
      (hcalm (.stream n StreamCounter.unmerged.id) (by simp))
    have hdelivered := taken_calm (c := StreamCounter.delivered.id) (l := l) (cell := cell) (b := b) (bs := bs) (by decide)
      (hcalm (.stream n StreamCounter.delivered.id) (by simp))
    have hs' : Silent (taken l cell n b bs s) srcMergePool := ⟨hs.notFault, hs.unbound, hs.quiet⟩
    rw [hexec, mergeUnit_unmerged (by exact hnone) (by exact h.agrees) (contextFor_none (by exact hpin) (by exact hfree)),
      fire_flaggedAs hs' (.mergePool n), forwardFilter_flagged (p := e.port) (by exact hm) (by exact hv) (by exact rfl) (by exact hp)
        (by exact h.notHeld) (by exact hroom) hunmerged hdelivered]
    rfl

end Sys2Proof.Machine
end

section
/-! PROOF SUPPORT. The ports: what an absent or full port drops, and the emptying of an egress FIFO at PRESENT_NEGATED (R135, R140). -/

namespace Sys2Proof.Machine

open Safety

section
variable {s t u v : State} {p : PortId} {n : StreamId} {b : Nat} {c : ContextId} {seq : Seq} {epoch : Epoch}

/-! ### Media fed to a port that takes nothing (R135) -/

/-- A delivered cell that its port does not take is dropped. -/
theorem deliver_drops (hport : (v.entry n).port = p) (h : ShutsOut v p) (hb : (v.buffer b).refs = 1)
    (hd : (v.counter (.stream n StreamCounter.delivered.id)).atHalf = false)
    (he : (v.counter (.stream n StreamCounter.egressDrop.id)).atHalf = false)
    (ho : (v.counter (.port p PortCounter.outDrop.id)).atHalf = false) :
    deliver n b seq epoch v = bump (.port p PortCounter.outDrop.id) (bump (.stream n StreamCounter.egressDrop.id)
      (returned b (delivering n seq epoch v))) := by
  have hegress : ((returned b (delivering n seq epoch v)).counter (.stream n StreamCounter.egressDrop.id)).atHalf = false :=
    atHalf_bump_ne (s := v) (fun hr => absurd (CounterRef.stream.inj hr).2 (by decide)) he
  have hout : ((bump (.stream n StreamCounter.egressDrop.id) (returned b (delivering n seq epoch v))).counter
      (.port p PortCounter.outDrop.id)).atHalf = false :=
    atHalf_bump_ne (fun hr => by cases hr) (atHalf_bump_ne (s := v) (fun hr => by cases hr) ho)
  rw [deliver_calm hd, offerEgress_drops (p := p) (by exact hport) (by exact h)]
  dsimp only
  rw [dereference_returned (by exact hb), countStream, count_bump hegress, countPort, count_bump hout]

/-- A resync marker that its port does not take is dropped. -/
theorem announceResync_drops (hport : (v.entry n).port = p) (h : ShutsOut v p) (hg : (v.entry n).gapMarkers = true)
    (hr : (v.counter (.stream n StreamCounter.resync.id)).atHalf = false)
    (ho : (v.counter (.port p PortCounter.outDrop.id)).atHalf = false) :
    announceResync n seq v = bump (.port p PortCounter.outDrop.id) (bump (.stream n StreamCounter.resync.id) v) := by
  have hcount : countStream n .resync v = bump (.stream n StreamCounter.resync.id) v := count_bump hr
  rw [announceResync, hcount, offerGap, if_pos (by exact hg), offerEgress_drops (p := p) (by exact hport) (by exact h)]
  dsimp only
  rw [countPort, count_bump (atHalf_bump_ne (fun he => by cases he) ho)]

/-- A delivery dropped behind its dropped resync marker. -/
theorem deliver_drops_again (hport : (v.entry n).port = p) (h : ShutsOut v p) (hb : (v.buffer b).refs = 1)
    (hd : (v.counter (.stream n StreamCounter.delivered.id)).atHalf = false)
    (he : (v.counter (.stream n StreamCounter.egressDrop.id)).atHalf = false) (ho : Below v (.port p PortCounter.outDrop.id) 2) :
    deliver n b seq epoch (bump (.port p PortCounter.outDrop.id) (bump (.stream n StreamCounter.resync.id) v)) =
      bump (.port p PortCounter.outDrop.id) (bump (.stream n StreamCounter.egressDrop.id) (returned b
        (delivering n seq epoch (bump (.port p PortCounter.outDrop.id) (bump (.stream n StreamCounter.resync.id) v))))) := by
  have hother (i : Fin 16) (hi : i ≠ StreamCounter.resync.id) (hc : (v.counter (.stream n i)).atHalf = false) :
      ((bump (.port p PortCounter.outDrop.id) (bump (.stream n StreamCounter.resync.id) v)).counter (.stream n i)).atHalf = false :=
    atHalf_bump_ne (fun hr => by cases hr) (atHalf_bump_ne (fun hr => hi (CounterRef.stream.inj hr).2) hc)
  have hcounted : Counted v (bump (.port p PortCounter.outDrop.id) (bump (.stream n StreamCounter.resync.id) v))
      (.port p PortCounter.outDrop.id) 1 :=
    counted_bump (counted_bump_ne (counted_refl v _) fun hr => by cases hr) (below_mono ho (by decide))
  exact deliver_drops (by exact hport) (by exact h) (by exact hb) (hother _ (by decide) hd) (hother _ (by decide) he)
    (calm_of_below (below_counted (m := 1) hcounted ho) le_rfl)

/-! ### An egress FIFO that stays empty while its port is absent -/

/-- While the port is absent, its empty egress FIFO stays empty. -/
def StaysShut (p : PortId) (s t : State) : Prop :=
  t.pins = s.pins ∧ (s.present p = false → s.egress p = [] → t.egress p = [])

theorem staysShut_of_eq (hp : t.pins = s.pins) (hd : t.dlv = s.dlv) : StaysShut p s t :=
  ⟨hp, fun _ h => by rw [State.egress, hd]; exact h⟩

theorem staysShut_closed (p : PortId) : HoldClosed (StaysShut p) where
  refl s := staysShut_of_eq rfl rfl
  trans {s t u} h k := ⟨k.1.trans h.1, fun hp he => k.2 (by rw [State.present, h.1]; exact hp) (h.2 hp he)⟩
  bfm _ _ := staysShut_of_eq rfl rfl
  counter _ r _ := by cases r <;> exact staysShut_of_eq rfl rfl
  source _ _ _ _ := staysShut_of_eq rfl rfl
  floor _ _ _ := staysShut_of_eq rfl rfl
  channel _ _ _ := staysShut_of_eq rfl rfl
  joinPort s o b hreach _ := ⟨rfl, fun hp he => by
    have hne : p ≠ o := fun h => by rw [h, present_of_reachablePort hreach] at hp; exact Bool.noConfusion hp
    rw [State.egress_setEgress, if_neg hne]
    exact he⟩
  joinLane _ _ _ _ := staysShut_of_eq rfl rfl
  load _ _ _ := staysShut_of_eq rfl rfl
  record _ _ _ _ := staysShut_of_eq rfl rfl
  further _ _ := staysShut_of_eq rfl rfl
  suspend _ _ _ := staysShut_of_eq rfl rfl
  flush _ _ _ := staysShut_of_eq rfl rfl
  subQueued _ _ := staysShut_of_eq rfl rfl
  window _ _ _ := staysShut_of_eq rfl rfl
  purge s o := ⟨rfl, fun _ he => by
    rw [State.egress_setEgress]
    split
    · next h => rw [← h, he]; rfl
    · exact he⟩

theorem dropAbsent_staysShut (p : PortId) (s : State) (e : EgressEntry) : StaysShut p s (dropAbsent p s e) := by
  have hR := staysShut_closed p
  cases e with
  | media b n q => exact hR.trans (hR.dereference b s) (hR.trans (hR.count _ _) (hR.count _ _))
  | gap n first lost d => exact hR.count _ _
  | control b => exact hR.trans (hR.dereference b s) (hR.trans (hR.undeliverable _) (hR.count _ _))

theorem dropAbsent_hold (p : PortId) (s : State) (e : EgressEntry) : OnlyHold s (dropAbsent p s e) := by
  cases e with
  | media b n q => exact (dereference_hold b s).trans ((countStream_hold _ _ _).trans (countPort_hold _ _ _))
  | gap n first lost d => exact countPort_hold _ _ _
  | control b => exact (dereference_hold b s).trans ((OnlyHold.ofEvents (undeliverable_only _)).trans (countPort_hold _ _ _))

/-! ### The entries of a FIFO dropped one after the other (R140) -/

/-- The buffers that the entries hold. -/
def buffersOf (q : List EgressEntry) : List Nat :=
  q.filterMap (fun e => match e with
    | .media b _ _ => some b
    | .control b => some b
    | .gap _ _ _ _ => none)

/-- The media entries of a stream. -/
def mediaOf (n : StreamId) (e : EgressEntry) : Bool :=
  match e with
  | .media _ m _ => m == n
  | _ => false

/-- `t` is `v` with the entries dropped at absent port `p`. -/
structure EntriesDropped (p : PortId) (q : List EgressEntry) (v t : State) : Prop where
  free : t.bfm.free = v.bfm.free ++ buffersOf q
  freeCount : t.bfm.freeCount = v.bfm.freeCount + (buffersOf q).length
  zero : ∀ b ∈ buffersOf q, (t.buffer b).refs = 0
  kept : ∀ b, b ∉ buffersOf q → t.buffer b = v.buffer b
  wf : PoolCanonical t
  out : Counted v t (.port p PortCounter.outDrop.id) q.length
  media : ∀ n, Counted v t (.stream n StreamCounter.egressDrop.id) (q.countP (mediaOf n))
  control : Counted v t (.station StationCounter.undeliverable.id) (q.countP EgressEntry.isControl)
  flag : (v.source srcUndeliverable).flag = true ∨ (∃ e ∈ q, e.isControl = true) → (t.source srcUndeliverable).flag = true
  silent : Silent t srcUndeliverable
  egress : t.egress p = v.egress p
  mga : t.mga = v.mga
  stb : t.stb = v.stb
  ltx : t.ltx = v.ltx
  mrg : t.mrg = v.mrg

theorem entriesDropped_nil (hw : PoolCanonical v) (hs : Silent v srcUndeliverable) : EntriesDropped p [] v v where
  free := (List.append_nil _).symm
  freeCount := rfl
  zero := fun _ h => absurd h List.not_mem_nil
  kept := fun _ _ => rfl
  wf := hw
  out := counted_refl ..
  media := fun _ => counted_refl ..
  control := counted_refl ..
  flag := fun h => h.elim id fun ⟨_, he, _⟩ => absurd he List.not_mem_nil
  silent := hs
  egress := rfl
  mga := rfl
  stb := rfl
  ltx := rfl
  mrg := rfl

theorem buffersOf_cons (e : EgressEntry) (q : List EgressEntry) : buffersOf (e :: q) = buffersOf [e] ++ buffersOf q := by
  cases e <;> rfl

theorem entriesDropped_cons {e : EgressEntry} {q : List EgressEntry} (h : EntriesDropped p [e] v u) (k : EntriesDropped p q u t)
    (hd : ∀ b ∈ buffersOf [e], b ∉ buffersOf q) : EntriesDropped p (e :: q) v t where
  free := by rw [k.free, h.free, buffersOf_cons e q, List.append_assoc]
  freeCount := by rw [k.freeCount, h.freeCount, buffersOf_cons e q, List.length_append, Nat.add_assoc]
  zero b hb := by
    rw [buffersOf_cons, List.mem_append] at hb
    by_cases hq : b ∈ buffersOf q
    · exact k.zero b hq
    · rw [k.kept b hq]
      exact h.zero b (hb.resolve_right hq)
  kept b hb := by
    rw [buffersOf_cons, List.mem_append, not_or] at hb
    exact (k.kept b hb.2).trans (h.kept b hb.1)
  wf := k.wf
  out := by
    rw [List.length_cons, Nat.add_comm]
    exact counted_trans h.out k.out
  media n := by
    have hcons : (e :: q).countP (mediaOf n) = [e].countP (mediaOf n) + q.countP (mediaOf n) := List.countP_append (l₁ := [e])
    rw [hcons]
    exact counted_trans (h.media n) (k.media n)
  control := by
    have hcons : (e :: q).countP EgressEntry.isControl = [e].countP EgressEntry.isControl + q.countP EgressEntry.isControl :=
      List.countP_append (l₁ := [e])
    rw [hcons]
    exact counted_trans h.control k.control
  flag hf := by
    rcases hf with hf | ⟨x, hx, hc⟩
    · exact k.flag (.inl (h.flag (.inl hf)))
    · rcases List.mem_cons.1 hx with rfl | hx
      · exact k.flag (.inl (h.flag (.inr ⟨x, List.mem_singleton_self x, hc⟩)))
      · exact k.flag (.inr ⟨x, hx, hc⟩)
  silent := k.silent
  egress := k.egress.trans h.egress
  mga := k.mga.trans h.mga
  stb := k.stb.trans h.stb
  ltx := k.ltx.trans h.ltx
  mrg := k.mrg.trans h.mrg

/-! ### One entry dropped -/

theorem refs_returned_self (hw : PoolCanonical v) : ((returned b v).buffer b).refs = 0 := by
  have hread : (returned b v).buffer b = { v.buffer b with refs := 0 } :=
    (Pool.read_write hw b b _).trans (if_pos rfl)
  rw [hread]

theorem silent_flagged (h : Silent v srcUndeliverable) : Silent (flagged srcUndeliverable v) srcUndeliverable := by
  refine ⟨h.notFault, ?_, .inl ?_⟩
  · have hch : ∀ ch, (flagged srcUndeliverable v).channel ch = v.channel ch := fun ch => by rw [flagged, flaggedAs_eq]; rfl
    have hu := h.unbound
    unfold State.takerOf at hu ⊢
    simpa only [hch] using hu
  · rw [source_flagged_self]
    split
    · assumption
    · rfl

theorem counter_flagged (src : Source) (r : CounterRef) : (flagged src v).counter r = v.counter r := by
  rw [flagged, flaggedAs_eq]
  cases r <;> rfl

theorem counted_returned (b : Nat) (v : State) (r : CounterRef) : Counted v (returned b v) r 0 := by
  cases r <;> exact counted_congr (counted_refl v _) rfl

/-- The counts that dropping one entry takes. -/
theorem dropAbsent_drops {e : EgressEntry} (hw : PoolCanonical v) (hs : Silent v srcUndeliverable)
    (hb : ∀ b ∈ buffersOf [e], (v.buffer b).refs = 1) (ho : Below v (.port p PortCounter.outDrop.id) 1)
    (hm : ∀ n, Below v (.stream n StreamCounter.egressDrop.id) 1) (hu : Below v (.station StationCounter.undeliverable.id) 1) :
    EntriesDropped p [e] v (dropAbsent p v e) := by
  have hout (w : State) (hw : w.counter (.port p PortCounter.outDrop.id) = v.counter (.port p PortCounter.outDrop.id)) :
      countPort p .outDrop w = bump (.port p PortCounter.outDrop.id) w :=
    count_bump (by rw [hw]; exact calm_of_below ho le_rfl)
  have hone (r : CounterRef) (hr : Below v r 1) : Counted v (bump r v) r 1 := counted_bump (counted_refl v r) hr
  cases e with
  | gap n first lost d =>
    have hdrop : dropAbsent p v (.gap n first lost d) = bump (.port p PortCounter.outDrop.id) v := hout v rfl
    rw [hdrop]
    exact
      { entriesDropped_nil (p := p) hw hs with
        out := hone _ ho
        media := fun n => counted_bump_ne (counted_refl ..) (fun he => by cases he)
        control := counted_bump_ne (counted_refl ..) (fun he => by cases he)
        flag := fun h => h.elim id fun ⟨x, hx, hc⟩ => by rw [List.mem_singleton.1 hx] at hc; exact absurd hc Bool.false_ne_true
        silent := ⟨hs.notFault, hs.unbound, hs.quiet⟩ }
  | media b n q =>
    have hrefs : (v.buffer b).refs = 1 := hb b (List.mem_singleton_self b)
    have hegress : countStream n .egressDrop (returned b v) = bump (.stream n StreamCounter.egressDrop.id) (returned b v) :=
      count_bump (s := returned b v) (calm_of_below (hm n) le_rfl)
    have hdrop : dropAbsent p v (.media b n q) =
        bump (.port p PortCounter.outDrop.id) (bump (.stream n StreamCounter.egressDrop.id) (returned b v)) := by
      unfold dropAbsent
      dsimp only
      rw [dereference_returned hrefs, hegress]
      exact hout _ ((counter_bump ..).trans (if_neg fun he => by cases he))
    rw [hdrop]
    refine ⟨rfl, rfl, fun a ha => ?_, fun a ha => ?_, Pool.wf_write hw _ _, ?_, fun m => ?_, ?_, fun h => ?_,
      ⟨hs.notFault, hs.unbound, hs.quiet⟩, rfl, rfl, rfl, rfl, rfl⟩
    · rw [List.mem_singleton.1 ha]
      exact refs_returned_self hw
    · exact buffer_returned_ne (fun he => ha (List.mem_singleton.2 he)) v
    · have hbase : Counted v (bump (.stream n StreamCounter.egressDrop.id) (returned b v)) (.port p PortCounter.outDrop.id) 0 :=
        counted_bump_ne (counted_returned b v _) (fun he => by cases he)
      exact counted_bump hbase ho
    · refine counted_bump_ne ?_ (fun he => by cases he)
      by_cases he : n = m
      · subst he
        have hcount : [EgressEntry.media b n q].countP (mediaOf n) = 0 + 1 := by simp [mediaOf]
        rw [hcount]
        exact counted_bump (counted_returned b v _) (hm n)
      · have hcount : [EgressEntry.media b n q].countP (mediaOf m) = 0 := by simp [mediaOf, he]
        rw [hcount]
        exact counted_bump_ne (counted_returned b v _) (fun hr => he (CounterRef.stream.inj hr).1.symm)
    · exact counted_bump_ne (counted_bump_ne (counted_returned b v _) (fun he => by cases he)) (fun he => by cases he)
    · exact h.elim id fun ⟨x, hx, hc⟩ => by rw [List.mem_singleton.1 hx] at hc; exact absurd hc Bool.false_ne_true
  | control b =>
    have hrefs : (v.buffer b).refs = 1 := hb b (List.mem_singleton_self b)
    have hs' : Silent (returned b v) srcUndeliverable := ⟨hs.notFault, hs.unbound, hs.quiet⟩
    have hund : undeliverable (returned b v) = undelivered (returned b v) :=
      undeliverable_silent (s := returned b v) (calm_of_below hu le_rfl) hs'
    have hcount : (undelivered (returned b v)).counter (.port p PortCounter.outDrop.id) = v.counter (.port p PortCounter.outDrop.id) :=
      (counter_flagged ..).trans ((counter_bump ..).trans (if_neg fun he => by cases he))
    have hdrop : dropAbsent p v (.control b) = bump (.port p PortCounter.outDrop.id) (undelivered (returned b v)) := by
      unfold dropAbsent
      dsimp only
      rw [dereference_returned hrefs, hund]
      exact hout _ hcount
    have hflag : (undelivered (returned b v)).source srcUndeliverable = _ := source_flagged_self ..
    have hframe : ∃ x y, undelivered (returned b v) = ((returned b v).setCnt x).setSource srcUndeliverable y := by
      rw [undelivered, flagged, flaggedAs_eq, bump_eq]
      exact ⟨_, _, rfl⟩
    have hsilent : Silent (undelivered (returned b v)) srcUndeliverable :=
      silent_flagged (v := bump (.station StationCounter.undeliverable.id) (returned b v)) ⟨hs.notFault, hs.unbound, hs.quiet⟩
    have hcontrol : Counted v (undelivered (returned b v)) (.station StationCounter.undeliverable.id) 1 :=
      counted_congr (counted_bump (counted_returned b v _) hu) (counter_flagged ..)
    have hmedia (m : StreamId) : (undelivered (returned b v)).counter (.stream m StreamCounter.egressDrop.id) =
        v.counter (.stream m StreamCounter.egressDrop.id) :=
      (counter_flagged ..).trans ((counter_bump ..).trans (if_neg fun he => by cases he))
    rw [hdrop]
    generalize undelivered (returned b v) = w at hcount hflag hframe hsilent hcontrol hmedia
    obtain ⟨x, y, hw'⟩ := hframe
    refine ⟨by rw [hw']; rfl, by rw [hw']; rfl, fun a ha => ?_, fun a ha => ?_, by rw [hw']; exact Pool.wf_write hw _ _, ?_, fun m => ?_,
      counted_bump_ne hcontrol (fun he => by cases he), fun h => ?_, ⟨hsilent.notFault, hsilent.unbound, hsilent.quiet⟩,
      by rw [hw']; rfl, by rw [hw']; rfl, by rw [hw']; rfl, by rw [hw']; rfl, by rw [hw']; rfl⟩
    · rw [List.mem_singleton.1 ha, hw']
      exact refs_returned_self hw
    · rw [hw']
      exact buffer_returned_ne (fun he => ha (List.mem_singleton.2 he)) v
    · exact counted_bump (counted_congr (counted_refl v _) hcount) ho
    · exact counted_bump_ne (counted_congr (counted_refl v _) (hmedia m)) (fun he => by cases he)
    · show (w.source srcUndeliverable).flag = true
      rw [hflag]
      split
      · assumption
      · rfl

theorem foldl_dropAbsent (q : List EgressEntry) (hw : PoolCanonical v) (hs : Silent v srcUndeliverable) (hd : (buffersOf q).Nodup)
    (hb : ∀ b ∈ buffersOf q, (v.buffer b).refs = 1) (ho : Below v (.port p PortCounter.outDrop.id) q.length)
    (hm : ∀ n, Below v (.stream n StreamCounter.egressDrop.id) q.length) (hu : Below v (.station StationCounter.undeliverable.id) q.length) :
    EntriesDropped p q v (q.foldl (dropAbsent p) v) := by
  induction q generalizing v with
  | nil => exact entriesDropped_nil hw hs
  | cons e q ih =>
    rw [buffersOf_cons] at hd hb
    obtain ⟨-, hrest, hdisjoint⟩ := List.nodup_append'.1 hd
    have hone := dropAbsent_drops (p := p) (e := e) hw hs (fun b hx => hb b (List.mem_append_left _ hx)) (below_mono ho (by simp))
      (fun n => below_mono (hm n) (by simp)) (below_mono hu (by simp))
    have hmedia (n : StreamId) : [e].countP (mediaOf n) ≤ 1 := List.countP_le_length
    have hcontrol : [e].countP EgressEntry.isControl ≤ 1 := List.countP_le_length
    have hlen : (e :: q).length = 1 + q.length := by rw [List.length_cons, Nat.add_comm]
    rw [hlen] at ho hm hu
    refine entriesDropped_cons hone (ih hone.wf hone.silent hrest (fun b hx => ?_) (below_counted hone.out ho)
      (fun n => below_counted (hone.media n) (below_mono (hm n) (Nat.add_le_add_right (hmedia n) _)))
      (below_counted hone.control (below_mono hu (Nat.add_le_add_right hcontrol _)))) fun b hx hq => hdisjoint hx hq
    rw [hone.kept b fun hx' => hdisjoint hx' hx]
    exact hb b (List.mem_append_right _ hx)

end

/-- Settles O10. -/
theorem portsFollowPins : Obligations.PortsFollowPins := by
  intro s p
  have hnegated : exec (.presentNegated p) s = .next (if s.restarting then s.setPresent p false
      else (s.egress p).foldl (dropAbsent p) ((s.setPresent p false).setEgress p [])) := rfl
  have hset : (s.setPresent p false).present p = false := by
    show (s.pins.present.put p false).look p = false
    rw [Bank.look_put_self]
  refine ⟨fun cell => ⟨fun hl hp hr hroom => ?_, fun hl hno => ?_, fun hl => if_neg hl⟩, ?negated, ?emptied, fun hq => ?_, rfl, fun hshut => ⟨?unmerged, ?merged⟩⟩
  · have hspace : s.showsSpace p = true := by
      rw [State.showsSpace, hp, hr]
      exact decide_eq_true hroom
    exact (if_pos hl).trans (congrArg _ (if_pos hspace))
  · have hspace : s.showsSpace p = false := by
      unfold State.showsSpace
      rcases hno with h | h | h
      · rw [h]; rfl
      · rw [h, Bool.not_true, Bool.and_false, Bool.false_and]
      · rw [decide_eq_false (show ¬ (s.ingress p).length < Config.ingressDepth from Nat.not_lt.mpr h), Bool.and_false]
    exact (if_pos hl).trans (congrArg _ (if_neg (by rw [hspace]; exact Bool.false_ne_true)))
  case negated =>
    have hfold : StaysShut p ((s.setPresent p false).setEgress p []) ((s.egress p).foldl (dropAbsent p) ((s.setPresent p false).setEgress p [])) :=
      (staysShut_closed p).foldl (dropAbsent_staysShut p) _ _
    have hhold : OnlyHold ((s.setPresent p false).setEgress p []) ((s.egress p).foldl (dropAbsent p) ((s.setPresent p false).setEgress p [])) :=
      OnlyHold.foldl (dropAbsent_hold p) _ _
    have hothers (o : PortId) (ho : o ≠ p) : (s.setPresent p false).present o = s.present o := Bank.look_put_ne s.pins.present false ho
    refine ⟨_, hnegated, ?_⟩
    by_cases hr : s.restarting = true
    · rw [if_pos hr]
      exact ⟨hset, hothers, fun h => absurd (hr.symm.trans h) (by decide), rfl, rfl, rfl, rfl⟩
    · rw [if_neg hr]
      generalize (s.egress p).foldl (dropAbsent p) ((s.setPresent p false).setEgress p []) = t at hfold hhold
      have hpresent (o : PortId) : t.present o = (s.setPresent p false).present o := by
        rw [State.present, hfold.1]
        rfl
      refine ⟨(hpresent p).trans hset, fun o ho => (hpresent o).trans (hothers o ho), fun _ => ?_, ?_, hhold.lrx, hhold.psc, hhold.settings⟩
      · exact hfold.2 (by exact hset) (State.egress_setEgress_self ..)
      · rw [State.ingress, hhold.tin]
        rfl
  case emptied =>
    intro q held refs hr hlen hnodup hrefs hw hfar hs
    have hbelow (r : CounterRef) (hmem : r ∈ refs) : Below s r q.length := below_mono (below_of_far hfar hmem) (hlen.trans (by decide))
    have hout := hbelow (.port p PortCounter.outDrop.id) (by simp [refs])
    have hmedia (n : StreamId) := hbelow (.stream n StreamCounter.egressDrop.id) (by simp [refs])
    have hund := hbelow (.station StationCounter.undeliverable.id) (by simp [refs])
    have hdrop := foldl_dropAbsent (p := p) (v := (s.setPresent p false).setEgress p []) q hw ⟨hs.notFault, hs.unbound, hs.quiet⟩ hnodup hrefs
      (by exact hout) (by exact hmedia) (by exact hund)
    rw [if_neg (by rw [hr]; exact Bool.false_ne_true)] at hnegated
    exact ⟨_, hnegated, hdrop.egress.trans (State.egress_setEgress_self ..), hdrop.free, hdrop.freeCount, hdrop.zero, hdrop.kept, hdrop.out,
      hdrop.media, hdrop.control, fun h => hdrop.flag (.inr h), hdrop.mga, hdrop.stb, hdrop.ltx, hdrop.mrg⟩
  · rw [hnegated, hq]
    exact congrArg _ (ite_eq_left_iff.2 fun _ => setEgress_self (s := s.setPresent p false) (by exact hq))
  case unmerged =>
    intro l cell n b bs h hm hport hfar x ahead dropped
    have hexec : exec (.laneCellReceive l cell) s = .next (forwardFilter n (arrivalOf l cell b) (taken l cell n b bs s)) := by
      rw [exec_takesMedia h (calm_of_below (below_of_far hfar (by simp)) (by decide)) (calm_of_below (below_of_far hfar (by simp)) (by decide)), hm]
      rfl
    have hbuf : ((taken l cell n b bs s).buffer b).refs = 1 := congrArg Buffer.refs buffer_taken
    have hdel := taken_calm (c := StreamCounter.delivered.id) (l := l) (cell := cell) (b := b) (bs := bs) (by decide)
      (calm_of_below (below_of_far hfar (r := .stream n StreamCounter.delivered.id) (by simp)) (by decide))
    have hdrop := taken_calm (c := StreamCounter.egressDrop.id) (l := l) (cell := cell) (b := b) (bs := bs) (by decide)
      (calm_of_below (below_of_far hfar (r := .stream n StreamCounter.egressDrop.id) (by simp)) (by decide))
    have hresync := taken_calm (c := StreamCounter.resync.id) (l := l) (cell := cell) (b := b) (bs := bs) (by decide)
      (calm_of_below (below_of_far hfar (r := .stream n StreamCounter.resync.id) (by simp)) (by decide))
    have hout : Below (taken l cell n b bs s) (.port p PortCounter.outDrop.id) 2 :=
      below_congr (below_mono (below_of_far hfar (by simp)) (by decide)) (counter_taken_ne (fun he => by cases he) (fun he => by cases he))
    refine ⟨fun hnew => ?_, fun hv he hg => ?_⟩
    · rw [hexec, forwardFilter_delivers (by exact hm) (by exact hnew)]
      show Host.Outcome.next (deliver n b (seqOf cell) (byteAt cell 6) (taken l cell n b bs s)) = _
      rw [deliver_drops (p := p) (by exact hport) (by exact hshut) hbuf hdel hdrop (calm_of_below hout (by decide))]
      rfl
    · rw [hexec, forwardFilter_resyncs (by exact hm) (by exact hv) (by exact he),
        announceResync_drops (p := p) (by exact hport) (by exact hshut) (by exact hg) hresync (calm_of_below hout (by decide))]
      show Host.Outcome.next (deliver n b (seqOf cell) (byteAt cell 6) (bump (.port p PortCounter.outDrop.id)
        (bump (.stream n StreamCounter.resync.id) (taken l cell n b bs s)))) = _
      rw [deliver_drops_again (by exact hport) (by exact hshut) hbuf hdel hdrop hout]
      rfl
  case merged =>
    intro c n held j hatt hown hport hx hlast hlate hheld hb hfar
    have hdeadline := deadline_lone (k := 0) hx hatt
    rw [hlast] at hdeadline
    have hexec : exec (.releaseExpiry c) s = .next (releaseHead c n s) :=
      (expireDue_lone (k := 0) hx hdeadline hown).trans (congrArg _ (if_neg fun hl => by
        have hfuture : 0 < (held.release - s.now).toNat ∧ (held.release - s.now).toNat < 2147483648 := later_iff.1 hl
        omega))
    have hhead : (s.context c).slot 0 = some held := (loneSlot (k := 0) hx).1
    have hdel := calm_of_below (below_of_far hfar (r := .stream n StreamCounter.delivered.id) (by simp)) (by decide)
    have hdrop := calm_of_below (below_of_far hfar (r := .stream n StreamCounter.egressDrop.id) (by simp)) (by decide)
    have hout := calm_of_below (below_of_far hfar (r := .port p PortCounter.outDrop.id) (by simp)) (by decide)
    have hreleased : releasedHead c s = { s.context c with
        next := (s.context c).next + 1, slots := List.replicate j none ++ [none], lastRelease := some s.now, checkAgrees := true } := by
      rw [← slots_advanced_one hx]
      rfl
    rw [hexec, releaseHead_delivers hhead, hreleased, deliver_drops (p := p) (by exact hport) (by exact hshut) (by exact hb) (by exact hdel)
      (by exact hdrop) (by exact hout)]
    rfl

end Sys2Proof.Machine
end

section
/-! PROOF SUPPORT. The copies of an accepted cell offered to the class queues of its lanes (R60). -/

namespace Sys2Proof.Machine

open Safety

section
variable {y t : State} {b : Nat} {n : StreamId} {k : Fin 4} {l : Lane} {ls : List Lane} {j : Nat}

/-- The class queue of the lane takes one entry more (R59). -/
def takesCopy (k : Fin 4) (y : State) (l : Lane) : Bool := decide ((y.classQueue l k).length < classDepth l)

/-- The lanes whose class queue takes its copy. -/
def joining (k : Fin 4) (y : State) (ls : List Lane) : List Lane := ls.filter (takesCopy k y)

/-- `t` is `y` with the copies offered to the lanes `ls`, `j` references being held for others. -/
structure Offered (b : Nat) (n : StreamId) (k : Fin 4) (ls : List Lane) (j : Nat) (y t : State) : Prop where
  shape : ∃ x B C, t = ((({ y with ltx := x } : State).setRun n
    { y.run n with queued := (y.run n).queued + (joining k y ls).length }).setBfm B).setCnt C
  tx : ∀ l, t.tx l = { y.tx l with classes := (t.tx l).classes }
  queue : ∀ l i, t.classQueue l i =
    if l ∈ joining k y ls ∧ i = k then y.classQueue l i ++ [{ buffer := b, stream := n }] else y.classQueue l i
  buffer : t.buffer b = { y.buffer b with refs := j + (joining k y ls).length }
  free : t.bfm.free = if j + (joining k y ls).length = 0 then y.bfm.free ++ [b] else y.bfm.free
  freeCount : t.bfm.freeCount = y.bfm.freeCount + if j + (joining k y ls).length = 0 then 1 else 0
  drops : Counted y t (.stream n StreamCounter.queueDrop.id) (ls.length - (joining k y ls).length)
  others : ∀ r, r ≠ .stream n StreamCounter.queueDrop.id → t.counter r = y.counter r
  whole : joining k y ls = ls → t.bfm = y.bfm ∧ t.cnt = y.cnt

theorem offered_nil (hj : 1 ≤ j) (hb : (y.buffer b).refs = j) : Offered b n k [] j y y where
  shape := ⟨y.ltx, y.bfm, y.cnt, by
    show y = y.setRun n (y.run n)
    rw [State.setRun, State.run, put_look]⟩
  tx _ := rfl
  queue l i := (if_neg fun h => absurd h.1 List.not_mem_nil).symm
  buffer := by
    show y.buffer b = { y.buffer b with refs := j }
    rw [← hb]
  free := (if_neg (by show ¬ j + 0 = 0; omega)).symm
  freeCount := by rw [if_neg (by show ¬ j + 0 = 0; omega)]; rfl
  drops := counted_refl ..
  others _ _ := rfl
  whole _ := ⟨rfl, rfl⟩

theorem joining_congr {y' : State} (h : ∀ l ∈ ls, y'.classQueue l k = y.classQueue l k) : joining k y' ls = joining k y ls :=
  List.filter_congr fun l hl => by rw [takesCopy, takesCopy, h l hl]

/-- The copy for lane `l` at the tail of its class queue. -/
def copyJoined (b : Nat) (n : StreamId) (k : Fin 4) (y : State) (l : Lane) : State :=
  (y.setClassQueue l k (y.classQueue l k ++ [{ buffer := b, stream := n }])).addQueued n

theorem offered_joins (hl : l ∉ ls) (hroom : takesCopy k y l = true) (h : Offered b n k ls (j + 1) (copyJoined b n k y l) t) :
    Offered b n k (l :: ls) j y t := by
  have hother (m : Lane) (i : Fin 4) : (copyJoined b n k y l).classQueue m i =
      if m = l ∧ i = k then y.classQueue m i ++ [{ buffer := b, stream := n }] else y.classQueue m i := by
    refine (State.classQueue_setClassQueue y l m k i _).trans ?_
    split
    · next he => rw [he.1, he.2]
    · rfl
  have hjoin : joining k (copyJoined b n k y l) ls = joining k y ls := joining_congr fun m hm => by
    rw [hother, if_neg fun he : m = l ∧ k = k => hl (he.1 ▸ hm)]
  have hcons : joining k y (l :: ls) = l :: joining k y ls := List.filter_cons_of_pos hroom
  have hsum : j + 1 + (joining k y ls).length = j + (joining k y (l :: ls)).length := by
    rw [hcons, List.length_cons]
    omega
  obtain ⟨⟨x, B, C, ht⟩, htx, hqueue, hbuffer, hfree, hcount, hdrops, hothers, hwhole⟩ := h
  rw [hjoin] at ht hqueue hbuffer hfree hcount hdrops hwhole
  rw [hsum] at hbuffer hfree hcount
  refine ⟨⟨x, B, C, ?_⟩, fun m => ?_, fun m i => ?_, hbuffer, hfree, hcount, ?_, hothers, fun hall => ?_⟩
  · have hrun : (copyJoined b n k y l).run n = { y.run n with queued := (y.run n).queued + 1 } := State.run_setRun_self ..
    rw [ht, hrun, hcons, List.length_cons, Nat.add_comm (joining k y ls).length 1, ← Nat.add_assoc]
    exact congrArg (fun v : State => (v.setBfm B).setCnt C) (setRun_setRun ({ y with ltx := x }) n _ _)
  · have hsame : (copyJoined b n k y l).tx m = { y.tx m with classes := ((copyJoined b n k y l).tx m).classes } := by
      have hset : (copyJoined b n k y l).tx m = if m = l then _ else y.tx m := State.tx_setTx ..
      rw [hset]
      split
      · next he => rw [he]
      · rfl
    rw [htx m, hsame]
  · rw [hqueue, hother, hcons]
    by_cases hm : m = l
    · subst hm
      have hnot : m ∉ joining k y ls := fun hmem => hl (List.mem_of_mem_filter hmem)
      rw [if_neg fun h => hnot h.1]
      simp
    · simp [hm]
  · have hcount : (l :: ls).length - (joining k y (l :: ls)).length = ls.length - (joining k y ls).length := by
      rw [hcons, List.length_cons, List.length_cons, Nat.add_sub_add_right]
    rw [hcount]
    exact hdrops
  · rw [hcons] at hall
    exact hwhole (List.cons.inj hall).2

/-- The copy for a full class queue counted and its reference let go. -/
theorem offered_drops (hj : 1 ≤ j + ls.length) (hb : (y.buffer b).refs = j + ls.length + 1) (hroom : takesCopy k y l = false)
    (hfar : Below y (.stream n StreamCounter.queueDrop.id) (ls.length + 1))
    (h : Offered b n k ls j ((bump (.stream n StreamCounter.queueDrop.id) y).setBuffer b { y.buffer b with refs := j + ls.length }) t) :
    Offered b n k (l :: ls) j y t := by
  have hcons : joining k y (l :: ls) = joining k y ls := List.filter_cons_of_neg (by rw [hroom]; exact Bool.false_ne_true)
  have hjoin : joining k ((bump (.stream n StreamCounter.queueDrop.id) y).setBuffer b { y.buffer b with refs := j + ls.length }) ls =
      joining k y ls := rfl
  have hle : (joining k y ls).length ≤ ls.length := List.length_filter_le _ _
  have hself : ((bump (.stream n StreamCounter.queueDrop.id) y).setBuffer b { y.buffer b with refs := j + ls.length }).buffer b =
      { y.buffer b with refs := j + ls.length } :=
    Pool.read_write_self_of_ne _ _ (Buffer.ne_unlisted_of_refs (show j + ls.length ≠ 0 by omega))
  obtain ⟨⟨x, B, C, ht⟩, htx, hqueue, hbuffer, hfree, hcount, hdrops, hothers, hwhole⟩ := h
  rw [hjoin] at ht hqueue hbuffer hfree hcount hdrops hwhole
  have hone : Counted y ((bump (.stream n StreamCounter.queueDrop.id) y).setBuffer b { y.buffer b with refs := j + ls.length })
      (.stream n StreamCounter.queueDrop.id) 1 := counted_bump (counted_refl y _) (below_mono hfar (by omega))
  refine ⟨⟨x, B, C, by rw [hcons]; exact ht⟩, htx, by rw [hcons]; exact hqueue, ?_, by rw [hcons]; exact hfree, by rw [hcons]; exact hcount, ?_,
    fun r hr => ?_, fun hall => ?_⟩
  · rw [hcons, hbuffer, hself]
  · have hsum : (l :: ls).length - (joining k y (l :: ls)).length = 1 + (ls.length - (joining k y ls).length) := by
      rw [hcons, List.length_cons]
      omega
    rw [hsum]
    exact counted_trans hone hdrops
  · rw [hothers r hr]
    have hne := counter_bump (.stream n StreamCounter.queueDrop.id) r y
    rw [if_neg hr] at hne
    rw [← hne]
    cases r <;> rfl
  · rw [hcons] at hall
    have := congrArg List.length hall
    rw [List.length_cons] at this
    omega

/-- The last copy dropped lets the buffer go. -/
theorem offered_lost (hcell : (y.buffer b).cell ≠ .empty) (hroom : takesCopy k y l = false)
    (hfar : Below y (.stream n StreamCounter.queueDrop.id) 1) :
    Offered b n k [l] 0 y (returned b (bump (.stream n StreamCounter.queueDrop.id) y)) := by
  have hnone : joining k y [l] = [] := by
    rw [joining, List.filter_cons_of_neg (by rw [hroom]; exact Bool.false_ne_true), List.filter_nil]
  have hne : ({ y.buffer b with refs := 0 } : Buffer) ≠ .unlisted := fun he => hcell (congrArg Buffer.cell he)
  have hone : Counted y (bump (.stream n StreamCounter.queueDrop.id) y) (.stream n StreamCounter.queueDrop.id) 1 :=
    counted_bump (counted_refl y _) hfar
  constructor
  case shape =>
    rw [hnone]
    refine ⟨y.ltx, (returned b (bump (.stream n StreamCounter.queueDrop.id) y)).bfm, (bump (.stream n StreamCounter.queueDrop.id) y).cnt, ?_⟩
    have hself : y.setRun n { y.run n with queued := (y.run n).queued + ([] : List Lane).length } = y := by
      show y.setRun n (y.run n) = y
      rw [State.setRun, State.run, put_look]
    have hshape : ({ y with ltx := y.ltx } : State).setRun n { y.run n with queued := (y.run n).queued + ([] : List Lane).length } = y := hself
    rw [hshape, bump_eq]
    rfl
  case tx => exact fun _ => rfl
  case queue => exact fun m i => (if_neg fun h => absurd (hnone ▸ h.1) List.not_mem_nil).symm
  case buffer =>
    rw [hnone]
    exact Pool.read_write_self_of_ne _ _ hne
  case free =>
    rw [hnone]
    rfl
  case freeCount =>
    rw [hnone]
    rfl
  case drops =>
    rw [hnone]
    exact counted_congr hone (by rfl)
  case others =>
    intro r hr
    have hb := counter_bump (.stream n StreamCounter.queueDrop.id) r y
    rw [if_neg hr] at hb
    rw [← hb]
    cases r <;> rfl
  case whole => exact fun h => absurd (hnone.symm.trans h) (by simp)

theorem foldl_offerCopy (hheld : y.mga.held = false) (hnodup : ls.Nodup) (hj : 1 ≤ j + ls.length) (hb : (y.buffer b).refs = j + ls.length)
    (hcell : (y.buffer b).cell ≠ .empty)
    (hfar : joining k y ls ≠ ls → Below y (.stream n StreamCounter.queueDrop.id) ls.length) :
    Offered b n k ls j y (ls.foldl (offerCopy b n k) y) := by
  induction ls generalizing y j with
  | nil => exact offered_nil hj hb
  | cons l ls ih =>
    obtain ⟨hl, hrest⟩ := List.nodup_cons.1 hnodup
    rw [List.length_cons] at hj hb hfar
    have hfree : ¬ y.mga.held = true := by rw [hheld]; exact Bool.false_ne_true
    by_cases hroom : takesCopy k y l = true
    · have hstep : offerCopy b n k y l = copyJoined b n k y l := (if_neg hfree).trans (if_pos (of_decide_eq_true hroom))
      have hjoin : joining k (copyJoined b n k y l) ls = joining k y ls := joining_congr fun m hm => by
        refine (State.classQueue_setClassQueue y l m k k _).trans (if_neg fun he : m = l ∧ k = k => hl (he.1 ▸ hm))
      rw [List.foldl_cons, hstep]
      refine offered_joins hl hroom (ih (by exact hheld) hrest (by omega) (hb.trans (by omega)) (by exact hcell) fun hne => ?_)
      rw [hjoin] at hne
      have hcons : joining k y (l :: ls) = l :: joining k y ls := List.filter_cons_of_pos hroom
      exact below_mono (hfar (by rw [hcons]; exact fun he => hne (List.cons.inj he).2)) (Nat.le_succ _)
    · have hroom : takesCopy k y l = false := Bool.eq_false_iff.2 hroom
      have hcons : joining k y (l :: ls) = joining k y ls := List.filter_cons_of_neg (by rw [hroom]; exact Bool.false_ne_true)
      have hbelow := hfar (by
        rw [hcons]
        intro he
        have hlen : (joining k y ls).length ≤ ls.length := List.length_filter_le _ _
        rw [he, List.length_cons] at hlen
        omega)
      have hcount : countStream n .queueDrop y = bump (.stream n StreamCounter.queueDrop.id) y :=
        count_bump (calm_of_below hbelow (by omega))
      have hstep : offerCopy b n k y l = dereference b (bump (.stream n StreamCounter.queueDrop.id) y) := by
        rw [← hcount]
        exact (if_neg hfree).trans (if_neg (of_decide_eq_false hroom))
      rw [List.foldl_cons, hstep]
      rcases Nat.eq_zero_or_pos (j + ls.length) with hzero | hpos
      · obtain rfl : j = 0 := by omega
        obtain rfl : ls = [] := List.length_eq_zero_iff.1 (by omega)
        rw [dereference_returned (by exact hb)]
        exact offered_lost hcell hroom hbelow
      · obtain ⟨m, hm⟩ : ∃ m, j + ls.length = m + 1 := ⟨j + ls.length - 1, by omega⟩
        have hrefs : (y.buffer b).refs = j + ls.length + 1 := by omega
        have hself : ((bump (.stream n StreamCounter.queueDrop.id) y).setBuffer b { y.buffer b with refs := j + ls.length }).buffer b =
            { y.buffer b with refs := j + ls.length } :=
          Pool.read_write_self_of_ne _ _ (Buffer.ne_unlisted_of_refs (show j + ls.length ≠ 0 by omega))
        have hone : Counted y ((bump (.stream n StreamCounter.queueDrop.id) y).setBuffer b { y.buffer b with refs := j + ls.length })
            (.stream n StreamCounter.queueDrop.id) 1 := counted_bump (counted_refl y _) (below_mono hbelow (by omega))
        rw [dereference_shared (k := m) (by exact (show (y.buffer b).refs = m + 2 by omega))]
        refine offered_drops hpos hrefs hroom hbelow ?_
        rw [hm]
        rw [hm] at hself hone
        exact ih (by exact hheld) hrest hpos (by rw [hself, hm]) (by rw [hself]; exact hcell) fun _ =>
          below_counted hone (below_mono hbelow (by omega))

end

end Sys2Proof.Machine
end

section
/-! PROOF SUPPORT. INGRESS_ACCEPTANCE of a media cell that passes every check (R43 to R46, R60). -/

namespace Sys2Proof.Machine

open Safety

section
variable {s y w t : State} {b : Nat} {bs : List Nat} {n : StreamId} {k : Fin 4} {ls : List Lane} {cell : List Byte} {demoted : Bool} {r : RunRecord}

/-! ### The copies and NO_LANE -/

/-- Whether every copy is lost. -/
def lostWhole (k : Fin 4) (y : State) (ls : List Lane) : Bool := decide (joining k y ls = [])

theorem classFull_eq (k : Fin 4) (l : Lane) (y : State) : y.classFull k l = !takesCopy k y l := by
  rw [State.classFull, takesCopy, ← decide_not]
  exact decide_eq_decide.2 Nat.not_lt.symm

theorem noRoom_eq (k : Fin 4) (y : State) (ls : List Lane) : ls.all (y.classFull k) = lostWhole k y ls := by
  rw [lostWhole, Bool.eq_iff_iff, List.all_eq_true, decide_eq_true_iff, joining, List.filter_eq_nil_iff]
  refine forall₂_congr fun l _ => ?_
  rw [classFull_eq, Bool.not_eq_true', Bool.not_eq_true]

/-- The copies offered, and NO_LANE when every one is lost (R60). -/
theorem offerCopies_offers (h : Offered b n k ls 0 y (ls.foldl (offerCopy b n k) y))
    (hc : lostWhole k y ls = true → (y.counter (.stream n StreamCounter.noLane.id)).atHalf = false) :
    offerCopies b n k ls y = if lostWhole k y ls then bump (.stream n StreamCounter.noLane.id) (ls.foldl (offerCopy b n k) y)
      else ls.foldl (offerCopy b n k) y := by
  unfold offerCopies
  dsimp only
  rw [noRoom_eq]
  split
  · next hl =>
    have hsame := h.others (.stream n StreamCounter.noLane.id) fun he => absurd (CounterRef.stream.inj he).2 (by decide)
    exact count_bump (by rw [hsame]; exact hc hl)
  · rfl

/-! ### The cell numbered, debited and counted (R46) -/

/-- The runtime record after the acceptance, before its copies are queued. -/
def debited (e : StreamEntry) (demoted : Bool) (r : RunRecord) : RunRecord :=
  { r with level := if e.rate = 0 ∨ demoted then r.level else r.level - 16, sendSeq := r.sendSeq + 1 }

theorem accepted_eq (e : StreamEntry) (demoted : Bool) (r : RunRecord) : r.accepted (e.rate != 0 && !demoted) = debited e demoted r := by
  unfold RunRecord.accepted debited
  by_cases hr : e.rate = 0 <;> cases demoted <;> simp [hr]

/-- TX_CELLS counted, and POLICE_DEMOTE for a demoted cell. -/
def txCounted (n : StreamId) (demoted : Bool) (s : State) : State :=
  if demoted then bump (.stream n StreamCounter.policeDemote.id) (bump (.stream n StreamCounter.txCells.id) s)
  else bump (.stream n StreamCounter.txCells.id) s

theorem acceptMedia_offers (ht : (y.counter (.stream n StreamCounter.txCells.id)).atHalf = false)
    (hd : (y.counter (.stream n StreamCounter.policeDemote.id)).atHalf = false) :
    acceptMedia b n demoted k ls y =
      offerCopies b n k ls (txCounted n demoted (y.setRun n (debited (y.entry n) demoted (y.run n)))) := by
  have htx (v : State) (hv : v.counter (.stream n StreamCounter.txCells.id) = y.counter (.stream n StreamCounter.txCells.id)) :
      countStream n .txCells v = bump (.stream n StreamCounter.txCells.id) v := count_bump (by rw [hv]; exact ht)
  unfold acceptMedia txCounted
  dsimp only
  rw [accepted_eq, htx (y.setRun n (debited (y.entry n) demoted (y.run n))) rfl]
  cases demoted with
  | false => rfl
  | true =>
    have hdemote : countStream n .policeDemote (bump (.stream n StreamCounter.txCells.id) (y.setRun n (debited (y.entry n) true (y.run n)))) =
        bump (.stream n StreamCounter.policeDemote.id) (bump (.stream n StreamCounter.txCells.id) (y.setRun n (debited (y.entry n) true (y.run n)))) :=
      count_bump (atHalf_bump_ne (s := y.setRun n (debited (y.entry n) true (y.run n)))
        (fun he => absurd (CounterRef.stream.inj he).2 (by decide)) hd)
    rw [if_pos rfl, if_pos rfl, hdemote]

theorem admitMedia_accepts (hls : ls ≠ []) (he : s.evaluate (s.effectivePlan n) = ls)
    (ha : allocateMedia (if demoted then 3 else (s.entry n).cls) ls.length
      (ingressCell cell demoted (if demoted then 3 else (s.entry n).cls) (s.run n).sendSeq) s = some (b, y)) :
    admitMedia cell n demoted s = acceptMedia b n demoted (if demoted then 3 else (s.entry n).cls) ls y := by
  subst he
  refine (if_neg hls).trans ?_
  rw [ha]

/-- The allocation that takes the free count from 512 raises BUFFER_LOW (R12). -/
theorem allocateMedia_low (hf : s.bfm.free = b :: bs) (hc : s.bfm.freeCount = 512) (hk : Config.mediaThreshold k < 512)
    (hs : Silent s srcBufferLow) (refs : Nat) (c : Cell) :
    allocateMedia k refs c s = some (b, flagged srcBufferLow (granted b bs refs c s)) := by
  have ha : s.allocate (Config.mediaThreshold k) refs c = some (b, granted b bs refs c s) :=
    State.allocate_eq_some.2 ⟨bs, hc ▸ hk, hf, rfl⟩
  have hs' : Silent (granted b bs refs c s) srcBufferLow := ⟨hs.notFault, hs.unbound, hs.quiet⟩
  unfold allocateMedia allocateWith
  rw [ha]
  dsimp only
  rw [raiseIfLow, if_pos (show s.bfm.freeCount = Config.bufferLowMark from hc), fire_flagged hs']

/-! ### The state before the copies are offered -/

theorem counter_txCounted_ne {q : CounterRef} (h1 : q ≠ .stream n StreamCounter.txCells.id) (h2 : q ≠ .stream n StreamCounter.policeDemote.id) :
    (txCounted n demoted s).counter q = s.counter q := by
  unfold txCounted
  split
  · rw [counter_bump, if_neg h2, counter_bump, if_neg h1]
  · rw [counter_bump, if_neg h1]

theorem counted_txCounted (h : Below s (.stream n StreamCounter.txCells.id) 1) :
    Counted s (txCounted n demoted s) (.stream n StreamCounter.txCells.id) 1 := by
  have hone := counted_bump (counted_refl s _) h
  unfold txCounted
  split
  · exact counted_bump_ne hone fun he => absurd (CounterRef.stream.inj he).2 (by decide)
  · exact hone

theorem counted_policeDemote (h : Below s (.stream n StreamCounter.policeDemote.id) 1) :
    Counted s (txCounted n demoted s) (.stream n StreamCounter.policeDemote.id) demoted.toNat := by
  have hzero : Counted s (bump (.stream n StreamCounter.txCells.id) s) (.stream n StreamCounter.policeDemote.id) 0 :=
    counted_bump_ne (counted_refl s _) fun he => absurd (CounterRef.stream.inj he).2 (by decide)
  unfold txCounted
  cases demoted with
  | true => exact counted_bump hzero h
  | false => exact hzero

theorem txCounted_eq (n : StreamId) (demoted : Bool) (s : State) : txCounted n demoted s = s.setCnt (txCounted n demoted s).cnt := by
  unfold txCounted
  split
  · rw [bump_eq (.stream n StreamCounter.policeDemote.id), bump_eq (.stream n StreamCounter.txCells.id)]
    rfl
  · rw [bump_eq]
    rfl

theorem cnt_txCounted_congr (h : y.cnt = s.cnt) : (txCounted n demoted y).cnt = (txCounted n demoted s).cnt := by
  unfold txCounted
  split
  · rw [bump_eq (.stream n StreamCounter.policeDemote.id), bump_eq (.stream n StreamCounter.policeDemote.id),
      bump_eq (.stream n StreamCounter.txCells.id), bump_eq (.stream n StreamCounter.txCells.id)]
    simp only [State.setCnt, h]
  · rw [bump_eq, bump_eq]
    simp only [State.setCnt, h]

end

section
variable {s y : State} {p : PortId} {cell : List Byte} {rest : List (List Byte)} {n : StreamId} {b : Nat}

/-- A media cell that passes every check goes on with its copies (R46). -/
theorem exec_admits (hq : s.ingress p = cell :: rest) (hr : s.restarting = false) (hl : lengthField cell ≤ 116)
    (hk : tribKindCode cell = 1) (hn : (byteAt cell 2).toFin = n) (hheld : s.mga.held = false) (ha : (s.entry n).checkAgrees = true)
    (hs : (s.entry n).state = .active) (ho : (s.entry n).role = .origin) (hp : (s.entry n).port = p) {demoted : Bool} {ls : List Lane}
    (hd : demoted = decide ((s.entry n).rate ≠ 0 ∧ (s.run n).level < 16)) (hx : demoted = true → (s.entry n).excess = .demote)
    (hls : ls = s.evaluate ((s.entry n).plan.get s.psc.effective)) (hne : ls ≠ [])
    (hin : (s.counter (.port p PortCounter.inCells.id)).atHalf = false)
    (halloc : allocateMedia (if demoted then 3 else (s.entry n).cls) ls.length
      (ingressCell cell demoted (if demoted then 3 else (s.entry n).cls) (s.run n).sendSeq) (tookCell p rest s) = some (b, y))
    (hrun : y.run n = s.run n) (hentry : y.entry n = s.entry n)
    (htx : (y.counter (.stream n StreamCounter.txCells.id)).atHalf = false)
    (hpd : (y.counter (.stream n StreamCounter.policeDemote.id)).atHalf = false) :
    exec (.ingressAcceptance p) s = .next (offerCopies b n (if demoted then 3 else (s.entry n).cls) ls
      (txCounted n demoted (y.setRun n (debited (s.entry n) demoted (s.run n))))) := by
  have hpass : (s.entry n).rate = 0 ∨ 16 ≤ (s.run n).level ∨ (s.entry n).excess = .demote := by
    by_cases hdemoted : demoted = true
    · exact .inr (.inr (hx hdemoted))
    · rw [hd, decide_eq_true_iff] at hdemoted
      omega
  rw [exec_acceptMedia hq hr hl hk hin, checkMedia_admits (n := n) hn (by exact hheld) (by exact ha) (by exact hs) (by exact ho)
    (by exact hp) (by exact hpass)]
  have hdemoted : decide (((tookCell p rest s).entry n).rate ≠ 0 ∧ ((tookCell p rest s).run n).level < 16) = demoted := hd.symm
  rw [hdemoted, admitMedia_accepts (s := tookCell p rest s) (ls := ls) hne (by exact hls.symm) halloc, acceptMedia_offers htx hpd, hrun, hentry]
  rfl

/-- The copies of an accepted cell when every class queue has room. -/
theorem offerCopies_joins {v a : State} {k : Fin 4} {ls : List Lane} (hne : ls ≠ []) (hnodup : ls.Nodup)
    (hroom : ∀ l ∈ ls, (s.classQueue l k).length < classDepth l) (hltx : a.ltx = s.ltx) (hheld : a.mga.held = false)
    (hb : (a.buffer b).refs = ls.length) (hcell : (a.buffer b).cell ≠ .empty)
    (hv : ∀ x, ({ a with ltx := x } : State).setRun n { a.run n with queued := (a.run n).queued + ls.length } = { v with ltx := x }) :
    ∃ t, offerCopies b n k ls a = t ∧ t = { v with ltx := t.ltx } ∧
      ∀ l, t.tx l = { s.tx l with classes := (t.tx l).classes } ∧
        (∀ j, t.classQueue l j =
          if l ∈ ls ∧ j = k then s.classQueue l j ++ [{ buffer := b, stream := n }] else s.classQueue l j) := by
  have hqueue (l : Lane) (j : Fin 4) : a.classQueue l j = s.classQueue l j := by rw [State.classQueue, State.tx, hltx]; rfl
  have htake : ∀ l ∈ ls, takesCopy k a l = true := fun l hl => decide_eq_true (by rw [hqueue]; exact hroom l hl)
  have hall : joining k a ls = ls := List.filter_eq_self.2 htake
  have hoffer : Offered b n k ls 0 a (ls.foldl (offerCopy b n k) a) := by
    have hlen := List.length_pos_iff.2 hne
    exact foldl_offerCopy hheld hnodup (by omega) (by omega) hcell fun h => absurd hall h
  have hlost : lostWhole k a ls = false := by
    rw [lostWhole, hall]
    exact decide_eq_false hne
  have hcopies := offerCopies_offers hoffer fun h => absurd (hlost.symm.trans h) (by decide)
  rw [hlost, if_neg Bool.false_ne_true] at hcopies
  obtain ⟨x, B, C, hshape⟩ := hoffer.shape
  obtain ⟨hB, hC⟩ := hoffer.whole hall
  have hqueues := hoffer.queue
  have htx := hoffer.tx
  generalize ls.foldl (offerCopy b n k) a = t at hcopies hshape hB hC hqueues htx
  rw [hall] at hshape hqueues
  have hB' : B = a.bfm := by rw [← hB, hshape]; rfl
  have hC' : C = a.cnt := by rw [← hC, hshape]; rfl
  have ht : t = { v with ltx := x } := by
    rw [← hv x, hshape, hB', hC']
    rfl
  refine ⟨t, hcopies, ?_, fun l => ⟨?_, fun j => ?_⟩⟩
  · rw [ht]
  · have hsame : a.tx l = s.tx l := by rw [State.tx, hltx]; rfl
    rw [← hsame]
    exact htx l
  · rw [hqueues, hqueue]

/-- The copies of an accepted cell when some class queues are full. -/
theorem offerCopies_partly {a : State} {k : Fin 4} {ls : List Lane} (hne : ls ≠ []) (hnodup : ls.Nodup) (hltx : a.ltx = s.ltx)
    (hheld : a.mga.held = false) (hb : (a.buffer b).refs = ls.length) (hcell : (a.buffer b).cell ≠ .empty)
    (hdrop : Below a (.stream n StreamCounter.queueDrop.id) ls.length) (hlane : Below a (.stream n StreamCounter.noLane.id) 1) :
    let joined := ls.filter (fun l => decide ((s.classQueue l k).length < classDepth l))
    let lost := if joined = [] then 1 else 0
    ∃ t, offerCopies b n k ls a = t ∧
      (∀ l j, t.classQueue l j =
        if l ∈ joined ∧ j = k then s.classQueue l j ++ [{ buffer := b, stream := n }] else s.classQueue l j) ∧
      t.run n = { a.run n with queued := (a.run n).queued + joined.length } ∧ t.buffer b = { a.buffer b with refs := joined.length } ∧
      t.bfm.free = (if joined = [] then a.bfm.free ++ [b] else a.bfm.free) ∧ t.bfm.freeCount = a.bfm.freeCount + lost ∧
      Counted a t (.stream n StreamCounter.queueDrop.id) (ls.length - joined.length) ∧
      Counted a t (.stream n StreamCounter.noLane.id) lost ∧
      (∀ r, r ≠ .stream n StreamCounter.queueDrop.id → r ≠ .stream n StreamCounter.noLane.id → t.counter r = a.counter r) ∧
      t.tin = a.tin ∧ t.mga = a.mga ∧ t.evu = a.evu ∧ t.mrg = a.mrg ∧ t.dlv = a.dlv := by
  intro joined lost
  have hqueue (l : Lane) (j : Fin 4) : a.classQueue l j = s.classQueue l j := by rw [State.classQueue, State.tx, hltx]; rfl
  have hjoined : joining k a ls = joined := List.filter_congr fun l _ => by rw [takesCopy, hqueue]
  have hlen := List.length_pos_iff.2 hne
  have hoffer : Offered b n k ls 0 a (ls.foldl (offerCopy b n k) a) :=
    foldl_offerCopy hheld hnodup (by omega) (by omega) hcell fun _ => hdrop
  have hwhole : lostWhole k a ls = decide (joined = []) := by rw [lostWhole, hjoined]
  have hcopies := offerCopies_offers hoffer fun _ => calm_of_below hlane le_rfl
  obtain ⟨⟨x, B, C, hshape⟩, -, hqueues, hbuffer, hfree, hcount, hdrops, hothers, -⟩ := hoffer
  generalize ls.foldl (offerCopy b n k) a = t at hcopies hshape hqueues hbuffer hfree hcount hdrops hothers
  rw [hjoined, Nat.zero_add] at hbuffer hfree hcount
  rw [hjoined] at hshape hqueues hdrops
  rw [hwhole] at hcopies
  have hzero : joined.length = 0 ↔ joined = [] := List.length_eq_zero_iff
  have hrun : t.run n = { a.run n with queued := (a.run n).queued + joined.length } := by
    rw [hshape]
    exact State.run_setRun_self ..
  have hsame : t.counter (.stream n StreamCounter.noLane.id) = a.counter (.stream n StreamCounter.noLane.id) :=
    hothers _ fun he => absurd (CounterRef.stream.inj he).2 (by decide)
  have hframe : t.tin = a.tin ∧ t.mga = a.mga ∧ t.evu = a.evu ∧ t.mrg = a.mrg ∧ t.dlv = a.dlv := by
    rw [hshape]
    exact ⟨rfl, rfl, rfl, rfl, rfl⟩
  have hq (l : Lane) (j : Fin 4) : t.classQueue l j =
      if l ∈ joined ∧ j = k then s.classQueue l j ++ [{ buffer := b, stream := n }] else s.classQueue l j := by
    rw [hqueues, hqueue]
  by_cases hnil : joined = []
  · rw [if_pos (decide_eq_true hnil)] at hcopies
    rw [if_pos (hzero.2 hnil)] at hfree hcount
    refine ⟨_, hcopies, hq, hrun, hbuffer, ?_, ?_, ?_, ?_, fun r h1 h2 => ?_, hframe⟩
    · rw [if_pos hnil]
      exact hfree
    · rw [show lost = 1 from if_pos hnil]
      exact hcount
    · exact counted_bump_ne hdrops fun he => absurd (CounterRef.stream.inj he).2 (by decide)
    · rw [show lost = 1 from if_pos hnil]
      exact counted_bump (counted_congr (counted_refl a _) hsame) hlane
    · rw [counter_bump, if_neg h2]
      exact hothers r h1
  · rw [if_neg (by rw [decide_eq_true_iff]; exact hnil)] at hcopies
    rw [if_neg (mt hzero.1 hnil)] at hfree hcount
    refine ⟨_, hcopies, hq, hrun, hbuffer, ?_, ?_, hdrops, ?_, fun r h1 _ => hothers r h1, hframe⟩
    · rw [if_neg hnil]
      exact hfree
    · rw [show lost = 0 from if_neg hnil]
      exact hcount
    · rw [show lost = 0 from if_neg hnil]
      exact counted_congr (counted_refl a _) hsame

/-- The state of the accepted cell, its copies in the queues. -/
def acceptedBase (p : PortId) (rest : List (List Byte)) (n : StreamId) (b : Nat) (bs : List Nat) (refs : Nat) (c : Cell) (demoted : Bool)
    (r : RunRecord) (s : State) : State :=
  ((granted b bs refs c (txCounted n demoted (bump (.port p PortCounter.inCells.id) s))).setIngress p rest).setRun n r

theorem txCounted_granted {bs : List Nat} {refs : Nat} {c : Cell} {demoted : Bool} {r r' : RunRecord} (x : PerLane LaneTx) :
    ({ txCounted n demoted ((granted b bs refs c (tookCell p rest s)).setRun n r) with ltx := x } : State).setRun n r' =
      { acceptedBase p rest n b bs refs c demoted r' s with ltx := x } := by
  have hcnt : (txCounted n demoted ((granted b bs refs c (tookCell p rest s)).setRun n r)).cnt =
      (txCounted n demoted (bump (.port p PortCounter.inCells.id) s)).cnt := cnt_txCounted_congr rfl
  rw [txCounted_eq, hcnt, acceptedBase, txCounted_eq n demoted (bump (.port p PortCounter.inCells.id) s)]
  generalize (txCounted n demoted (bump (.port p PortCounter.inCells.id) s)).cnt = C
  exact setRun_setRun ({ (granted b bs refs c (tookCell p rest s)).setCnt C with ltx := x } : State) n r r'

theorem txCounted_flagged {bs : List Nat} {refs : Nat} {c : Cell} {demoted : Bool} {r r' : RunRecord} (x : PerLane LaneTx) :
    ({ txCounted n demoted ((flagged srcBufferLow (granted b bs refs c (tookCell p rest s))).setRun n r) with ltx := x } : State).setRun n r' =
      { flagged srcBufferLow (acceptedBase p rest n b bs refs c demoted r' s) with ltx := x } := by
  have hflag : (flagged srcBufferLow (granted b bs refs c (tookCell p rest s))).setRun n r =
      flagged srcBufferLow ((granted b bs refs c (tookCell p rest s)).setRun n r) := (flaggedAs_setRun ..).symm
  have hcount (v : State) : txCounted n demoted (flagged srcBufferLow v) = flagged srcBufferLow (txCounted n demoted v) := by
    unfold txCounted flagged
    split
    · rw [bump_flaggedAs, bump_flaggedAs]
    · rw [bump_flaggedAs]
  have hbase := txCounted_granted (s := s) (p := p) (rest := rest) (n := n) (b := b) (bs := bs) (refs := refs) (c := c) (demoted := demoted)
    (r := r) (r' := r') x
  have hltx (v : State) : ({ flagged srcBufferLow v with ltx := x } : State) = flagged srcBufferLow { v with ltx := x } := by
    rw [flagged, flagged, flaggedAs_eq, flaggedAs_eq]
    rfl
  rw [hflag, hcount, hltx, hltx, ← hbase]
  exact (flaggedAs_setRun ..).symm

end

section
variable {s y : State} {p : PortId} {rest : List (List Byte)} {n : StreamId} {b : Nat} {bs : List Nat} {refs : Nat} {c : Cell}

theorem run_txCounted (demoted : Bool) (r : RunRecord) (v : State) : (txCounted n demoted (v.setRun n r)).run n = r := by
  rw [txCounted_eq]
  exact State.run_setRun_self ..

theorem calm_tookCell {i : Fin 16} (h : (s.counter (.stream n i)).atHalf = false) :
    ((granted b bs refs c (tookCell p rest s)).counter (.stream n i)).atHalf = false :=
  atHalf_bump_ne (s := s.setIngress p rest) (r := .port p PortCounter.inCells.id) (q := .stream n i) (fun he => by cases he) h

theorem buffer_tookCell (h : refs ≠ 0) : (granted b bs refs c (tookCell p rest s)).buffer b = { refs := refs, cell := c, checkAgrees := true } :=
  buffer_granted b bs h c _

theorem counter_tookCell (r : RunRecord) (s : State) (i : Fin 16) :
    ((granted b bs refs c (tookCell p rest s)).setRun n r).counter (.stream n i) = s.counter (.stream n i) := by
  have h := counter_bump (.port p PortCounter.inCells.id) (.stream n i) (s.setIngress p rest)
  rw [if_neg fun he => by cases he] at h
  exact h

/-- What the state before the copies shares with the granted one. -/
theorem txCounted_leaves (demoted : Bool) (r : RunRecord) (v : State) :
    (txCounted n demoted (v.setRun n r)).ltx = v.ltx ∧ (txCounted n demoted (v.setRun n r)).mga = v.mga ∧
      (txCounted n demoted (v.setRun n r)).bfm = v.bfm ∧ (txCounted n demoted (v.setRun n r)).evu = v.evu ∧
      (txCounted n demoted (v.setRun n r)).mrg = v.mrg ∧ (txCounted n demoted (v.setRun n r)).dlv = v.dlv ∧
      (txCounted n demoted (v.setRun n r)).tin = v.tin := by
  rw [txCounted_eq]
  exact ⟨rfl, rfl, rfl, rfl, rfl, rfl, rfl⟩

theorem buffer_txCounted (demoted : Bool) (r : RunRecord) (v : State) (b : Nat) :
    (txCounted n demoted (v.setRun n r)).buffer b = v.buffer b := by
  rw [State.buffer, (txCounted_leaves demoted r v).2.2.1]
  rfl

end

/-- Settles O12. -/
theorem ingressAccepts : Obligations.IngressAccepts := by
  intro s p cell rest n b bs e demoted k ls stored level hq hr hl hk hn hheld ha hs ho hp hx hls counted u queues
  have hnodup : ls.Nodup := evaluate_nodup ..
  have hlen : ls.length ≠ 0 := fun h => hls (List.length_eq_zero_iff.1 h)
  have hcell : stored ≠ .empty := fun h => absurd (congrArg Cell.kind h) (show ¬ CellKind.media = CellKind.fill by decide)
  have hbuf := buffer_tookCell (s := s) (p := p) (rest := rest) (b := b) (bs := bs) (c := stored) hlen
  have hadmits (y : State) := exec_admits (b := b) (y := y) hq hr hl hk hn hheld ha hs ho hp (demoted := demoted) (ls := ls) rfl hx rfl hls
  refine ⟨fun hfree hcount hthreshold hlow hroom hcalm => ?low, fun hg => ⟨fun hroom hcalm => ?room, fun hfar => ?far⟩⟩
  case low =>
    have hexec := hadmits (flagged srcBufferLow (granted b bs ls.length stored (tookCell p rest s))) (hcalm _ (by simp))
      (allocateMedia_low (s := tookCell p rest s) hfree hcount hthreshold ⟨hlow.notFault, hlow.unbound, hlow.quiet⟩ _ _)
      (by rw [flagged, flaggedAs_eq]; rfl) (by rw [flagged, flaggedAs_eq]; rfl)
      (by rw [counter_flagged]; exact calm_tookCell (hcalm _ (by simp)))
      (by rw [counter_flagged]; exact calm_tookCell (hcalm _ (by simp)))
    have hflagged : flagged srcBufferLow (granted b bs ls.length stored (tookCell p rest s)) =
        (granted b bs ls.length stored (tookCell p rest s)).setSource srcBufferLow _ := flaggedAs_eq ..
    have hleaves := txCounted_leaves (n := n) demoted (debited e demoted (s.run n))
      (flagged srcBufferLow (granted b bs ls.length stored (tookCell p rest s)))
    have hbuffer := buffer_txCounted (n := n) demoted (debited e demoted (s.run n))
      (flagged srcBufferLow (granted b bs ls.length stored (tookCell p rest s))) b
    have hstored : (flagged srcBufferLow (granted b bs ls.length stored (tookCell p rest s))).buffer b =
        { refs := ls.length, cell := stored, checkAgrees := true } := by rw [hflagged]; exact hbuf
    rw [hstored] at hbuffer
    obtain ⟨t, ht, hv, hqueues⟩ := offerCopies_joins (s := s) (v := flagged srcBufferLow u) (k := k) hls hnodup hroom
      (hleaves.1.trans (by rw [hflagged]; rfl)) (by rw [hleaves.2.1, hflagged]; exact hheld) (by rw [hbuffer]) (by rw [hbuffer]; exact hcell)
      (fun x => by rw [run_txCounted]; exact txCounted_flagged x)
    exact ⟨t, hexec.trans (congrArg _ ht), hv, hqueues⟩
  case room =>
    have hexec := hadmits (granted b bs ls.length stored (tookCell p rest s)) (hcalm _ (by simp))
      (allocateMedia_granted (s := tookCell p rest s) ⟨hg.free, hg.above, hg.notLow⟩ _ _) rfl rfl
      (calm_tookCell (hcalm _ (by simp))) (calm_tookCell (hcalm _ (by simp)))
    have hleaves := txCounted_leaves (n := n) demoted (debited e demoted (s.run n)) (granted b bs ls.length stored (tookCell p rest s))
    have hbuffer := buffer_txCounted (n := n) demoted (debited e demoted (s.run n)) (granted b bs ls.length stored (tookCell p rest s)) b
    rw [hbuf] at hbuffer
    obtain ⟨t, ht, hv, hqueues⟩ := offerCopies_joins (s := s) (v := u) (k := k) hls hnodup hroom hleaves.1
      (by rw [hleaves.2.1]; exact hheld) (by rw [hbuffer]) (by rw [hbuffer]; exact hcell)
      (fun x => by rw [run_txCounted]; exact txCounted_granted x)
    exact ⟨t, hexec.trans (congrArg _ ht), hv, hqueues⟩
  case far =>
    intro joined lost
    have hbelow (r : CounterRef) (hmem : r ∈ [CounterRef.port p PortCounter.inCells.id, .stream n StreamCounter.txCells.id,
      .stream n StreamCounter.policeDemote.id, .stream n StreamCounter.queueDrop.id, .stream n StreamCounter.noLane.id]) := below_of_far hfar hmem
    have hin := calm_of_below (hbelow (.port p PortCounter.inCells.id) (by simp)) (by decide)
    have htx := hbelow (.stream n StreamCounter.txCells.id) (by simp)
    have hpd := hbelow (.stream n StreamCounter.policeDemote.id) (by simp)
    have hqd := hbelow (.stream n StreamCounter.queueDrop.id) (by simp)
    have hnl := hbelow (.stream n StreamCounter.noLane.id) (by simp)
    have hexec := hadmits (granted b bs ls.length stored (tookCell p rest s)) hin
      (allocateMedia_granted (s := tookCell p rest s) ⟨hg.free, hg.above, hg.notLow⟩ _ _) rfl rfl
      (calm_tookCell (calm_of_below htx (by decide))) (calm_tookCell (calm_of_below hpd (by decide)))
    have hleaves := txCounted_leaves (n := n) demoted (debited e demoted (s.run n)) (granted b bs ls.length stored (tookCell p rest s))
    have hbuffer := buffer_txCounted (n := n) demoted (debited e demoted (s.run n)) (granted b bs ls.length stored (tookCell p rest s)) b
    rw [hbuf] at hbuffer
    have hbase (i : Fin 16) := counter_tookCell (p := p) (rest := rest) (b := b) (bs := bs) (refs := ls.length) (c := stored) (n := n)
      (debited e demoted (s.run n)) s i
    have hrun := run_txCounted (n := n) demoted (debited e demoted (s.run n)) (granted b bs ls.length stored (tookCell p rest s))
    have hother (i : Fin 16) (h1 : i ≠ StreamCounter.txCells.id) (h2 : i ≠ StreamCounter.policeDemote.id) :=
      (counter_txCounted_ne (n := n) (q := .stream n i) (demoted := demoted) (fun he => h1 (CounterRef.stream.inj he).2)
        (fun he => h2 (CounterRef.stream.inj he).2)).trans (hbase i)
    have hcountTx := counted_since (counted_txCounted (demoted := demoted) (below_congr (below_mono htx (by decide)) (hbase _))) (hbase _)
    have hcountPd := counted_since (counted_policeDemote (demoted := demoted) (below_congr (below_mono hpd (by decide)) (hbase _))) (hbase _)
    have hthree : ls.length ≤ 8192 := 
      (List.subperm_of_subset hnodup fun l _ => show l ∈ lanes by cases l <;> decide).length_le.trans (by decide)
    generalize txCounted n demoted ((granted b bs ls.length stored (tookCell p rest s)).setRun n (debited e demoted (s.run n))) = a
      at hexec hleaves hbuffer hrun hother hcountTx hcountPd
    obtain ⟨hltx, hmga, hbfm, hevu, hmrg, hdlv, htin⟩ := hleaves
    obtain ⟨t, ht, hqueues, hrunt, hbuft, hfree, hcount, hdrops, hlanes, hothers, htin', hmga', hevu', hmrg', hdlv'⟩ :=
      offerCopies_partly (s := s) (a := a) (b := b) (n := n) (k := k) hls hnodup hltx (by rw [hmga]; exact hheld) (by rw [hbuffer])
        (by rw [hbuffer]; exact hcell) (below_congr (below_mono hqd hthree) (hother _ (by decide) (by decide)))
        (below_congr (below_mono hnl (by decide)) (hother _ (by decide) (by decide)))
    rw [hbuffer] at hbuft
    rw [hrun] at hrunt
    rw [hbfm] at hfree hcount
    refine ⟨t, hexec.trans (congrArg _ ht), hqueues, hrunt, hbuft, hfree, hcount, ?_, ?_, counted_since hdrops (hother _ (by decide) (by decide)),
      counted_since hlanes (hother _ (by decide) (by decide)), ?_, hmga'.trans hmga, hevu'.trans hevu, hmrg'.trans hmrg, hdlv'.trans hdlv⟩
    · exact counted_congr hcountTx (hothers _ (fun he => absurd (CounterRef.stream.inj he).2 (by decide))
        fun he => absurd (CounterRef.stream.inj he).2 (by decide))
    · exact counted_congr hcountPd (hothers _ (fun he => absurd (CounterRef.stream.inj he).2 (by decide))
        fun he => absurd (CounterRef.stream.inj he).2 (by decide))
    · rw [State.ingress, htin', htin]
      exact State.ingress_setIngress_self s p rest

end Sys2Proof.Machine
end

section
/-! PROOF SUPPORT. The committed load that a recomputation leaves is the one of R69, read off the tally entry by entry; a drain
completed, and STREAM STATE's transitions (R23 to R30), use it. -/

namespace Sys2Proof.Machine

open Safety

/-! ### The tally (R69) -/

section
variable {s : State}

/-- A rate added on each lane of a list without repetition. -/
theorem get_foldl_addRate (rate : Nat) {ls : List Lane} (hd : ls.Nodup) (t : PerLane (Nat × Nat)) (l : Lane) :
    (ls.foldl (fun t m => t.set m (addRate rate (t.get m))) t).get l = if l ∈ ls then addRate rate (t.get l) else t.get l := by
  induction ls generalizing t with
  | nil => simp
  | cons m rest ih =>
    obtain ⟨hm, hd⟩ := List.nodup_cons.1 hd
    rw [List.foldl_cons, ih hd, PerLane.get_set]
    by_cases he : l = m
    · subst he
      simp [hm]
    · simp [he]

/-- One entry read into the tally of a lane. -/
theorem get_tallyEntry (t : PerLane (Nat × Nat)) (n : StreamId) (l : Lane) :
    (s.tallyEntry t (s.entry n)).get l = if loadsLane s l n then addRate (s.entry n).rate (t.get l) else t.get l := by
  unfold State.tallyEntry loadsLane
  split
  · next h => simp only [get_foldl_addRate _ (evaluate_nodup _), h, Bool.true_and, List.contains_iff_mem]
  · next h => simp only [Bool.not_eq_true] at h; simp only [h, Bool.false_and, Bool.false_eq_true, if_false]

theorem get_foldl_tallyEntry (ns : List StreamId) (t : PerLane (Nat × Nat)) (l : Lane) :
    (ns.foldl (fun t n => s.tallyEntry t (s.entry n)) t).get l =
      ((t.get l).1 + ((ns.filter (loadsLane s l)).map (fun n => (s.entry n).rate)).sum,
        (t.get l).2 + (ns.filter (fun n => loadsLane s l n && (s.entry n).rate == 0)).length) := by
  induction ns generalizing t with
  | nil => rfl
  | cons n rest ih =>
    rw [List.foldl_cons, ih, get_tallyEntry]
    cases hl : loadsLane s l n
    · simp [hl]
    · by_cases hz : (s.entry n).rate = 0
      · simp [hl, hz, addRate]; omega
      · simp [hl, hz, addRate]; omega

theorem get_tally (l : Lane) : s.tally.get l = (loadByRule s l, unpolicedByRule s l) := by
  have hlist : s.stb.entries.toList = (List.finRange 256).map s.entry := toList_eq_map_look _
  rw [State.tally, hlist, List.foldl_map, get_foldl_tallyEntry]
  cases l <;> simp [PerLane.get, loadByRule, unpolicedByRule]

/-- Plans are evaluated against the views alone (R57). -/
theorem evaluate_congr {t : State} (h : t.view = s.view) : t.evaluate = s.evaluate := by
  have hw : t.working = s.working := by unfold State.working; rw [h]
  have hp : t.preferred = s.preferred := by unfold State.preferred; rw [h]
  funext p
  cases p <;> simp only [State.evaluate, hw, hp]

/-- The rule reads entries, views and the effective posture alone. -/
theorem loadsLane_congr {t : State} (hstb : t.stb = s.stb) (hpsc : t.psc = s.psc) (hview : ∀ l, t.view l = s.view l) :
    loadsLane t = loadsLane s := by
  have he : t.entry = s.entry := funext fun n => congrArg (fun x : StreamTable => x.entries.look n) hstb
  have hv : t.view = s.view := funext hview
  funext l n
  unfold loadsLane
  rw [he, hpsc, evaluate_congr hv]

theorem loadDerived_congr {t : State} (hstb : t.stb = s.stb) (hpsc : t.psc = s.psc) (hview : ∀ l, t.view l = s.view l)
    (h : ∀ l, (t.tx l).load = loadByRule s l ∧ (t.tx l).unpoliced = unpolicedByRule s l ∧
      (t.tx l).overcommitted = overcommits l (loadByRule s l, unpolicedByRule s l)) : LoadDerived t := by
  have he : t.entry = s.entry := funext fun n => congrArg (fun x : StreamTable => x.entries.look n) hstb
  have hl : loadsLane t = loadsLane s := loadsLane_congr hstb hpsc hview
  intro l
  have hload : loadByRule t l = loadByRule s l := by rw [loadByRule, loadByRule, hl, he]
  have hun : unpolicedByRule t l = unpolicedByRule s l := by rw [unpolicedByRule, unpolicedByRule, hl, he]
  obtain ⟨h1, h2, h3⟩ := h l
  rw [hload, hun]
  refine ⟨h1, h2, h3.trans ?_⟩
  cases l
  case a | b => exact Bool.or_false _
  case c => exact (Bool.decide_or _ _).symm

theorem tx_setLoads (t : PerLane (Nat × Nat)) (l : Lane) :
    (lanes.foldl (fun u m => u.setLoad m (t.get m)) s).tx l =
      { s.tx l with load := (t.get l).1, unpoliced := (t.get l).2, overcommitted := overcommits l (t.get l) } := by
  cases l <;> rfl

theorem ltx_fires {α : Type} (as : List α) (ho : Silent s srcOvercommit) :
    (as.foldl (fun u _ => fire srcOvercommit .none u) s).ltx = s.ltx := by
  induction as generalizing s with
  | nil => rfl
  | cons a rest ih =>
    have hf : OnlyFlags (fun i => i = srcOvercommit) s (fire srcOvercommit .none s) :=
      OnlyFlags.fire (named := fun i => i = srcOvercommit) rfl ho _
    rw [List.foldl_cons, ih (hf.silent ho), fire_flagged ho, flagged, flaggedAs_eq]
    rfl

theorem tx_recomputeLoad (ho : Silent s srcOvercommit) (l : Lane) : (recomputeLoad s).tx l = { s.tx l with
    load := (s.tally.get l).1, unpoliced := (s.tally.get l).2, overcommitted := overcommits l (s.tally.get l) } := by
  have hl : OnlyFlags (fun i => i = srcOvercommit) s (lanes.foldl (fun u l => u.setLoad l (s.tally.get l)) s) :=
    OnlyFlags.foldl fun _ _ t _ => OnlyFlags.setLoad t _ _
  exact (congrArg (fun x : PerLane LaneTx => x.get l) (ltx_fires _ (hl.silent ho))).trans (tx_setLoads s.tally l)

theorem view_recomputeLoad (ho : Silent s srcOvercommit) (l : Lane) : (recomputeLoad s).view l = s.view l := by
  rw [State.view, tx_recomputeLoad ho l]
  rfl

/-- Committed load derived again is R69's, with OVERCOMMIT silent. -/
theorem loadDerived_recomputeLoad (ho : Silent s srcOvercommit) : LoadDerived (recomputeLoad s) := by
  have hf : OnlyFlags (fun i => i = srcOvercommit) s (recomputeLoad s) := recomputeLoad_flags rfl ho
  refine loadDerived_congr hf.stb hf.psc (view_recomputeLoad ho) fun l => ?_
  rw [tx_recomputeLoad ho l, get_tally]
  exact ⟨rfl, rfl, rfl⟩

/-- With every entry agreeing and OVERCOMMIT silent, a recomputation leaves the load of R69 and touches the table not at all. -/
theorem recompute_onlyTable (ha : TableAgrees s) (ho : Silent s srcOvercommit) :
    OnlyTable s (recompute s) ∧ (recompute s).stb = s.stb ∧ LoadDerived (recompute s) := by
  have heq : recompute s = recomputeLoad s := by rw [recompute, disagreeing_nil ha]; rfl
  rw [heq]
  have hf : OnlyFlags (fun i => i = srcOvercommit) s (recomputeLoad s) := recomputeLoad_flags rfl ho
  have hrest := hf.rest
  refine ⟨⟨?_, fun l => ?_⟩, hf.stb, loadDerived_recomputeLoad ho⟩
  · rw [hrest]
  · have htx := hf.tx l
    have hv : ((recomputeLoad s).tx l).view = (s.tx l).view := view_recomputeLoad ho l
    rw [hv] at htx
    exact htx

end

end Sys2Proof.Machine
end

section
/-! STREAM STATE: its refusals and its transitions (R23 to R30). -/

namespace Sys2Proof.Machine

open Safety

section
variable {s v w : State} {step : Instr} {decide : Decide} {r : Request} {rest : List Request} {p : PortId} {b : Nat} {bs : List Nat}
  {result : List Byte} {n : StreamId}

theorem loadDerived_setBfm {x : BufferManager} (h : LoadDerived s) : LoadDerived (s.setBfm x) := h

theorem OnlyTable.trans {t u : State} (h : OnlyTable s t) (k : OnlyTable t u) : OnlyTable s u where
  left := by rw [k.1, h.1]
  right l := by rw [k.2 l, h.2 l]

/-- A write of the Stream Table. -/
theorem onlyTable_stb (s : State) (x : StreamTable) : OnlyTable s { s with stb := x } := ⟨rfl, fun _ => rfl⟩

/-- A service answered OK that leaves the rest of the state to the table and its loads. -/
theorem serve_leaves {u : State} (h : Heads s step r rest p b bs)
    (hd : decide r.payload (granted b bs 1 .empty s) = answer .ok result u) (hot : OnlyTable (granted b bs 1 .empty s) u)
    (hl : LoadDerived u) :
    ∃ w, serve step decide s = answered r rest p b bs .ok result w ∧ OnlyTable s w ∧ w.stb = u.stb ∧ LoadDerived w := by
  obtain ⟨hframe, htx⟩ := hot
  have hmga : u.mga = s.mga := by rw [hframe]; rfl
  have hbfm : u.bfm = (granted b bs 1 .empty s).bfm := by rw [hframe]
  have hpins : u.pins = s.pins := by rw [hframe]; rfl
  have hdlv : u.dlv = s.dlv := by rw [hframe]; rfl
  have hreach : Reaches (u.setBfm s.bfm) p :=
    { port := by rw [State.setBfm_mga, hmga]; exact h.reaches.port
      present := (congrArg (fun x : Pins => x.present.look p) hpins).trans h.reaches.present
      room := (congrArg (fun x : DeliveryUnit => (x.egress.look p).length) hdlv).trans_lt h.reaches.room }
  refine ⟨u.setBfm s.bfm, ?_, ⟨?_, fun l => htx l⟩, rfl, loadDerived_setBfm hl⟩
  · refine serve_answered (t := u.setBfm s.bfm) h ?_ (by rw [State.setBfm_mga, hmga]; exact h.head) hreach nofun
    rw [hd, granted_restore hbfm]
    rfl
  · rw [hframe]
    rfl

/-- A service answered OK whose effect changes the Stream Table and derives the committed load again. -/
theorem serve_recomputes {x : StreamTable} (h : Heads s step r rest p b bs)
    (hd : decide r.payload (granted b bs 1 .empty s) = answer .ok result (recompute (granted b bs 1 .empty { s with stb := x })))
    (ha : TableAgrees { s with stb := x }) (ho : Silent s srcOvercommit) :
    ∃ u, serve step decide s = answered r rest p b bs .ok result u ∧ OnlyTable s u ∧ u.stb = x ∧ LoadDerived u := by
  obtain ⟨hot, hstb, hload⟩ := recompute_onlyTable (s := granted b bs 1 .empty { s with stb := x }) ha (silent_congr ho rfl)
  obtain ⟨u, hu, hs, hx, hl⟩ := serve_leaves h hd (OnlyTable.trans (onlyTable_stb (granted b bs 1 .empty s) x) hot) hload
  exact ⟨u, hu, hs, hx.trans hstb, hl⟩

/-- The bytes of STREAM STATE's answer. -/
theorem streamStateResult_zero (st : StreamState) : streamStateResult st 0 = [byte st.code, 0, 0] := rfl

theorem tableAgrees_setEntry {e : StreamEntry} (h : TableAgrees s) (he : e.checkAgrees = true) : TableAgrees (s.setEntry n e) := by
  intro m
  rw [State.entry_setEntry]
  split
  · exact he
  · exact h m

/-- A transition that is made: the state and the runtime record written, the load derived again (R24, R30, R70). -/
theorem serve_moves {st : StreamState} {y : RunRecord} (h : Heads s .streamState r rest p b bs)
    (hd : decideStreamState r.payload (granted b bs 1 .empty s) =
      answerState .ok n (changeState n st ((granted b bs 1 .empty s).setRun n y)))
    (ha : TableAgrees s) (ho : Silent s srcOvercommit) :
    ∃ u, exec .streamState s = .next (answered r rest p b bs .ok [byte st.code, 0, 0] u) ∧ OnlyTable s u ∧
      u.stb = ((s.setEntry n { s.entry n with state := st }).setRun n y).stb ∧ LoadDerived u := by
  let moved := (s.setEntry n { s.entry n with state := st }).setRun n y
  have hagrees : TableAgrees { s with stb := moved.stb } := tableAgrees_setEntry (n := n) ha (ha n)
  have hstb := (recompute_onlyTable (s := granted b bs 1 .empty { s with stb := moved.stb }) hagrees
    (silent_congr ho rfl)).2.1
  have hstate : ((recompute (granted b bs 1 .empty { s with stb := moved.stb })).entry n).state = st := by
    rw [State.entry, hstb]
    exact congrArg StreamEntry.state (State.entry_setEntry_self s n _)
  have hanswer : answerState .ok n (changeState n st ((granted b bs 1 .empty s).setRun n y)) =
      answer .ok (streamStateResult ((recompute (granted b bs 1 .empty { s with stb := moved.stb })).entry n).state 0)
        (recompute (granted b bs 1 .empty { s with stb := moved.stb })) := rfl
  rw [hanswer, hstate] at hd
  obtain ⟨u, hu, hot⟩ := serve_recomputes h hd hagrees ho
  exact ⟨u, congrArg _ hu, hot⟩

end

/-! ### The table of transitions (R23 to R26, R30) -/

section
variable {s : State} {payload : List Byte} {source : Fin 8} {n : StreamId}

theorem transition_activates (hs : (s.entry n).state = .idle) (hl : (s.entry n).loaded = true) :
    transition payload source n 1 s =
      answerState .ok n (changeState n .active (s.setRun n ((s.run n).activated (s.entry n).burst))) := by
  simp only [transition, hs, hl, if_true]

theorem transition_resumes (hs : (s.entry n).state = .suspended) : transition payload source n 1 s =
    answerState .ok n (changeState n .active (s.setRun n ((s.run n).resumed (s.entry n).burst))) := by
  simp only [transition, hs]

theorem transition_clears (hs : (s.entry n).state = .suspended) :
    transition payload source n 0 s = answerState .ok n (changeState n .idle (s.setRun n .cleared)) := by
  simp only [transition, hs]

theorem transition_suspends (hs : (s.entry n).state = .active) (hr : (s.entry n).role = .terminus) :
    transition payload source n 3 s = answerState .ok n (changeState n .suspended (flushContext n s)) := by
  simp only [transition, hs, hr]

theorem transition_drains (hs : (s.entry n).state = .active) (hr : (s.entry n).role = .origin) :
    transition payload source n 3 s =
      if s.mga.drain.isSome then answerState .busy n (countStation .mgmtBusy s) else startDrain payload source n s := by
  simp only [transition, hs, hr]

theorem transition_refuses {target : Nat} (h : ((s.entry n).state = .idle ∧ target = 3) ∨
    ((s.entry n).state = .idle ∧ target = 1 ∧ (s.entry n).loaded = false) ∨ ((s.entry n).state = .active ∧ target = 0)) :
    transition payload source n target s = answerState .refused n s := by
  obtain ⟨hs, rfl⟩ | ⟨hs, rfl, hl⟩ | ⟨hs, rfl⟩ := h
  · simp only [transition, hs]
  · simp [transition, hs, hl]
  · simp only [transition, hs]

theorem transition_stays (hd : (s.entry n).state ≠ .draining) :
    transition payload source n (s.entry n).state.code s = answerState .ok n s := by
  cases hs : (s.entry n).state with
  | draining => exact absurd hs hd
  | idle | active | suspended => simp only [transition, hs, StreamState.code]

end

/-! ### The statement (O42) -/

section
variable {s : State} {r : Request} {rest : List Request} {p : PortId} {b : Nat} {bs : List Nat} {n : StreamId}

theorem setRun_own (s : State) (n : StreamId) : s.setRun n (s.run n) = s := by
  have hput : s.stb.runs.put n (s.run n) = s.stb.runs := put_look _ _
  rw [State.setRun, hput]

/-- The checks of a STREAM STATE of a station not held, down to the transition (R23). -/
theorem decideStreamState_transits (h : Serves s .streamState r rest p b bs) (hh : s.mga.held = false)
    (hn : (byteAt r.payload 4).toFin = n) (hl : byteAt r.payload 3 = 2) (h3 : (byteAt r.payload 5).toNat ≤ 3)
    (h2 : (byteAt r.payload 5).toNat ≠ 2) :
    decideStreamState r.payload (granted b bs 1 .empty s) =
      if (s.entry n).state = .draining then answerState .notReady n (granted b bs 1 .empty s)
      else if !(s.entry n).checkAgrees then answerState .held n (raiseFault .tableCheck n.val (granted b bs 1 .empty s))
      else transition r.payload controllerAddress n (byteAt r.payload 5).toNat (granted b bs 1 .empty s) := by
  have hreq : (granted b bs 1 .empty s).requester = controllerAddress := by
    show (match s.mga.requests with | r :: _ => r.source | [] => 0) = _
    rw [h.head]
    exact h.source
  rw [decideStreamState_good hn h.length (requestArgLength_eq_iff (n := 2).mpr hl) h3 h2,
    if_neg (by rw [show (granted b bs 1 .empty s).mga.held = s.mga.held from rfl, hh]; decide), hreq]
  rfl

/-- Settles O42, a transition at a time. -/
theorem streamStateMoves : Obligations.StreamStateMoves := by
  intro s r rest p b bs n h hh hn target e x same moved
  have hexec : exec .streamState s = .next (serve .streamState decideStreamState s) := rfl
  refine ⟨fun hbad hs => ?_, fun hl h3 h2 => ?_⟩
  · refine congrArg _ (serve_refuses_with h.toHeads rfl hs (decideStreamState_bad hn (.inr ?_)))
    exact hbad.imp_left (mt (requestArgLength_eq_iff (n := 2)).mp)
  have hdecide := decideStreamState_transits h hh hn hl h3 h2
  have hgoes (hd : e.state ≠ .draining) (hc : e.checkAgrees = true) : decideStreamState r.payload (granted b bs 1 .empty s) =
      transition r.payload controllerAddress n target (granted b bs 1 .empty s) := by
    rw [hdecide, if_neg hd, if_neg (by rw [show (s.entry n).checkAgrees = true from hc]; decide)]
  have hmoves {st : StreamState} {y : RunRecord} (hd : e.state ≠ .draining)
      (ht : transition r.payload controllerAddress n target (granted b bs 1 .empty s) =
        answerState .ok n (changeState n st ((granted b bs 1 .empty s).setRun n y))) : moved st y :=
    fun ha ho => serve_moves h.toHeads ((hgoes hd (ha n)).trans ht) ha ho
  refine ⟨fun hd => ?_, fun hc ht => ?_, fun hc hs ht => ?_, fun hst ht hld => ?_, fun hst ht => ?_, fun hst ht => ?_,
    fun hst hr hctx ht => ?_⟩
  · rw [if_pos hd] at hdecide
    refine congrArg _ ((serve_answered (t := s) (status := .notReady) h.toHeads hdecide h.head h.reaches nofun).trans ?_)
    rw [show (granted b bs 1 .empty s).entry n = s.entry n from rfl, show (s.entry n).state = .draining from hd]
    rfl
  · have hd : e.state ≠ .draining := fun hd => h2 (ht.symm.trans (congrArg StreamState.code hd))
    have hstays := transition_stays (payload := r.payload) (source := controllerAddress) (s := granted b bs 1 .empty s) hd
    have ht' := (hgoes hd hc).trans ((congrArg (transition _ _ _ · _) ht.symm).trans hstays)
    exact congrArg _ (serve_answered (t := s) (status := .ok) h.toHeads ht' h.head h.reaches nofun)
  · have hd : e.state ≠ .draining := by
      obtain ⟨hi, -⟩ | ⟨hi, -⟩ | ⟨hi, -⟩ := ht <;> rw [hi] <;> decide
    have ht' := (hgoes hd hc).trans (transition_refuses (s := granted b bs 1 .empty s) ht)
    exact congrArg _ (serve_refuses_with h.toHeads rfl hs ht')
  · exact hmoves (by rw [hst]; decide) (by rw [ht]; exact transition_activates (s := granted b bs 1 .empty s) hst hld)
  · exact hmoves (by rw [hst]; decide) (by rw [ht]; exact transition_resumes (s := granted b bs 1 .empty s) hst)
  · exact hmoves (by rw [hst]; decide) (by rw [ht]; exact transition_clears (s := granted b bs 1 .empty s) hst)
  · refine hmoves (by rw [hst]; decide) ?_
    have hflush : flushContext n (granted b bs 1 .empty s) = granted b bs 1 .empty s := by
      rw [flushContext, show ((granted b bs 1 .empty s).run n).context = none from hctx]
    have hown : (granted b bs 1 .empty s).setRun n x = granted b bs 1 .empty s := setRun_own (granted b bs 1 .empty s) n
    rw [ht, transition_suspends (s := granted b bs 1 .empty s) hst hr, hflush, hown]

end

end Sys2Proof.Machine
end

section
/-! STREAM STATE's suspends: a terminus flushes its context, an origin drains, is BUSY or is suspended at once (R25, R26). -/

namespace Sys2Proof.Machine

open Safety

section
variable {s u : State} {step : Instr} {decide : Decide} {r : Request} {rest : List Request} {p : PortId} {b : Nat} {bs : List Nat}
  {n : StreamId}

theorem serve_heads (h : Heads s step r rest p b bs) :
    serve step decide s = conclude b r (decide r.payload (granted b bs 1 .empty s)) := by
  rw [serve, served_of_heads h]
  dsimp only
  rw [allocateControl_granted h.grants]

/-! ### An origin (R26) -/

/-- The drain that a suspend leaves pending. -/
def drainOf (payload : List Byte) (source : Fin 8) (n : StreamId) (s : State) : Drain where
  stream := n
  tag := requestTag payload
  command := requestCommand payload
  source := source
  ticks := s.mga.settings.drainTimeout
  purged := 0

theorem startDrain_waits {payload : List Byte} {source : Fin 8} (hq : (s.run n).queued ≠ 0) : startDrain payload source n s =
    (recompute ((s.setMga { s.mga with drain := some (drainOf payload source n s) }).setEntry n
      { s.entry n with state := .draining }), .later) := if_neg hq

theorem startDrain_ends {payload : List Byte} {source : Fin 8} (hq : (s.run n).queued = 0) : startDrain payload source n s =
    answer .ok (streamStateResult .suspended 0) (changeState n .suspended (changeState n .draining s)) := if_pos hq

/-- The request that becomes the pending drain leaves the queue, and the service's buffer is free again (R26, log 12). -/
theorem conclude_later {v : State} (hot : OnlyTable v u) (hb : (v.buffer b).refs = 1) (hreq : v.mga.requests = r :: rest)
    (hl : LoadDerived u) :
    ∃ t, conclude b r (u, .later) = t ∧
      OnlyTable ((returned b v).setMga { v.mga with requests := rest, serviceDue := true }) t ∧ t.stb = u.stb ∧ LoadDerived t := by
  obtain ⟨hframe, htx⟩ := hot
  have hbuf : (u.buffer b).refs = 1 := by rw [hframe]; exact hb
  have hconclude : conclude b r (u, .later) = (returned b u).setMga { u.mga with requests := u.mga.requests.tail, serviceDue := true } :=
    congrArg removeRequest (dereference_returned hbuf)
  refine ⟨_, hconclude, ⟨?_, fun l => htx l⟩, rfl, hl⟩
  have htail : rest = v.mga.requests.tail := by rw [hreq, List.tail_cons]
  rw [hframe, htail]
  rfl

/-- An origin suspend of a station not held, down to its three ways (R26). -/
theorem decideStreamState_drains (h : Serves s .streamState r rest p b bs) (hh : s.mga.held = false)
    (hn : (byteAt r.payload 4).toFin = n) (hl : byteAt r.payload 3 = 2) (h3 : byteAt r.payload 5 = 3) (ha : TableAgrees s)
    (hs : (s.entry n).state = .active) (hr : (s.entry n).role = .origin) :
    decideStreamState r.payload (granted b bs 1 .empty s) =
      if s.mga.drain.isSome then answerState .busy n (countStation .mgmtBusy (granted b bs 1 .empty s))
      else startDrain r.payload r.source n (granted b bs 1 .empty s) := by
  have h3' : (byteAt r.payload 5).toNat = 3 := by rw [h3]; rfl
  rw [decideStreamState_transits h hh hn hl (by omega) (by omega), if_neg (by rw [hs]; decide), if_neg (by rw [ha n]; decide), h3',
    transition_drains (s := granted b bs 1 .empty s) hs hr, h.source]
  rfl

/-- With cells queued the request becomes the pending drain, and no response is built. -/
theorem suspend_pends (h : Serves s .streamState r rest p b bs) (ha : TableAgrees s) (ho : Silent s srcOvercommit)
    (hd : decideStreamState r.payload (granted b bs 1 .empty s) = startDrain r.payload r.source n (granted b bs 1 .empty s))
    (hq : (s.run n).queued ≠ 0) :
    ∃ t, exec .streamState s = .next t ∧
      OnlyTable (((returned b (granted b bs 1 Cell.empty s)).setEntry n { s.entry n with state := .draining }).setMga
        { s.mga with drain := some (drainOf r.payload r.source n s), requests := rest, serviceDue := true }) t ∧
      t.stb = (s.setEntry n { s.entry n with state := .draining }).stb ∧ LoadDerived t := by
  let v := ((granted b bs 1 .empty s).setMga { s.mga with drain := some (drainOf r.payload r.source n s) }).setEntry n
    { s.entry n with state := .draining }
  have hagrees : TableAgrees v := tableAgrees_setEntry (n := n) ha (ha n)
  obtain ⟨hot, hstb, hload⟩ := recompute_onlyTable (s := v) hagrees (silent_congr ho rfl)
  have hb : (v.buffer b).refs = 1 := congrArg Buffer.refs (buffer_granted b bs (by decide) .empty s)
  obtain ⟨t, ht, hot', hstb', hload'⟩ := conclude_later (r := r) (rest := rest) hot hb h.head hload
  refine ⟨t, ?_, hot', hstb'.trans hstb, hload'⟩
  have hexec : exec .streamState s = .next (serve .streamState decideStreamState s) := rfl
  rw [hexec, serve_heads h.toHeads, hd, startDrain_waits (s := granted b bs 1 .empty s) hq, ← ht]
  rfl

theorem stb_setEntry_again {m : State} {x : StreamEntry} (h : m.stb = (s.setEntry n x).stb) (y : StreamEntry) :
    (m.setEntry n y).stb = (s.setEntry n y).stb := by
  simp only [State.setEntry] at h ⊢
  rw [h, put_put]

/-- With nothing queued the stream is SUSPENDED at once (R26). -/
theorem suspend_ends (h : Serves s .streamState r rest p b bs) (ha : TableAgrees s) (ho : Silent s srcOvercommit)
    (hd : decideStreamState r.payload (granted b bs 1 .empty s) = startDrain r.payload r.source n (granted b bs 1 .empty s))
    (hq : (s.run n).queued = 0) :
    ∃ u, exec .streamState s = .next (answered r rest p b bs .ok [3, 0, 0] u) ∧ OnlyTable s u ∧
      u.stb = (s.setEntry n { s.entry n with state := .suspended }).stb ∧ LoadDerived u := by
  let v := (granted b bs 1 .empty s).setEntry n { s.entry n with state := .draining }
  have hagrees : TableAgrees v := tableAgrees_setEntry (n := n) ha (ha n)
  have hov : Silent v srcOvercommit := silent_congr ho rfl
  have hflags : OnlyFlags (fun i => i = srcOvercommit) v (recompute v) := recompute_flags rfl hov hagrees
  obtain ⟨hot, hstb, -⟩ := recompute_onlyTable hagrees hov
  have hdecide := hd.trans (startDrain_ends (s := granted b bs 1 .empty s) hq)
  have hdraining : changeState n .draining (granted b bs 1 .empty s) = recompute v := rfl
  rw [hdraining, changeState] at hdecide
  generalize recompute v = m at hflags hot hstb hdecide
  have hentry : m.entry n = { s.entry n with state := .draining } := by
    rw [State.entry, hstb]
    exact State.entry_setEntry_self (granted b bs 1 .empty s) n _
  rw [hentry] at hdecide
  have hagrees' : TableAgrees (m.setEntry n { s.entry n with state := .suspended }) :=
    tableAgrees_setEntry (hflags.agrees hagrees) (ha n)
  obtain ⟨hot', hstb', hload⟩ := recompute_onlyTable hagrees' (silent_congr (hflags.silent hov) rfl)
  have hput : (m.setEntry n { s.entry n with state := .suspended }).stb = (s.setEntry n { s.entry n with state := .suspended }).stb :=
    stb_setEntry_again hstb _
  have hall : OnlyTable (granted b bs 1 .empty s) (recompute (m.setEntry n { s.entry n with state := .suspended })) :=
    OnlyTable.trans (OnlyTable.trans (onlyTable_stb (granted b bs 1 .empty s) v.stb) hot) (OnlyTable.trans (onlyTable_stb m _) hot')
  obtain ⟨u, hu, hleft, hright, hl⟩ := serve_leaves h.toHeads hdecide hall hload
  exact ⟨u, congrArg _ hu, hleft, hright.trans (hstb'.trans hput), hl⟩

/-- A second drain is BUSY. -/
theorem suspend_busy (h : Serves s .streamState r rest p b bs)
    (hd : decideStreamState r.payload (granted b bs 1 .empty s) = answerState .busy n (countStation .mgmtBusy (granted b bs 1 .empty s)))
    (hs : (s.entry n).state = .active) (hc : Calm s [.station StationCounter.mgmtBusy.id]) :
    exec .streamState s = .next (answered r rest p b bs .busy [1, 0, 0] (bump (.station StationCounter.mgmtBusy.id) s)) := by
  have hcount : countStation .mgmtBusy (granted b bs 1 .empty s) =
      granted b bs 1 .empty (bump (.station StationCounter.mgmtBusy.id) s) := count_bump (hc _ (List.mem_singleton_self _))
  rw [hcount] at hd
  have hanswer : answerState .busy n (granted b bs 1 .empty (bump (.station StationCounter.mgmtBusy.id) s)) =
      (granted b bs 1 .empty (bump (.station StationCounter.mgmtBusy.id) s),
        .respond .busy (streamStateResult (s.entry n).state 0)) := rfl
  rw [hanswer, hs] at hd
  exact congrArg _ (serve_answered (t := bump (.station StationCounter.mgmtBusy.id) s) (status := .busy) h.toHeads hd h.head
    ⟨h.reaches.port, h.reaches.present, h.reaches.room⟩ nofun)

end

/-! ### A terminus: its context flushed (R25) -/

/-- The egress FIFO of a port that is not the controller's port, which no event joins. -/
def KeepsPort (q : PortId) (s t : State) : Prop :=
  t.mga = s.mga ∧ (s.mga.settings.controllerPort ≠ some q → t.egress q = s.egress q)

theorem keepsPort_of_eq {q : PortId} {s t : State} (hm : t.mga = s.mga) (hd : t.dlv = s.dlv) : KeepsPort q s t :=
  ⟨hm, fun _ => by rw [State.egress, hd]; rfl⟩

theorem controllerPort_of_reachable {s : State} {o : PortId} (h : s.reachablePort = some o) :
    s.mga.settings.controllerPort = some o := by
  unfold State.reachablePort at h
  split at h
  · cases h
  · next q hq =>
    split at h
    · exact hq.trans h
    · cases h

theorem keepsPort_closed (q : PortId) : EventClosed (KeepsPort q) where
  refl _ := keepsPort_of_eq rfl rfl
  trans {s t u} h k := ⟨k.1.trans h.1, fun hq => (k.2 (by rw [h.1]; exact hq)).trans (h.2 hq)⟩
  bfm _ _ := keepsPort_of_eq rfl rfl
  counter _ r _ := by cases r <;> exact keepsPort_of_eq rfl rfl
  source _ _ _ _ := keepsPort_of_eq rfl rfl
  floor _ _ _ := keepsPort_of_eq rfl rfl
  channel _ _ _ := keepsPort_of_eq rfl rfl
  joinPort s o b ho _ := ⟨rfl, fun hq => by
    rw [State.egress_setEgress, if_neg]
    rintro rfl
    exact hq (controllerPort_of_reachable ho)⟩
  joinLane _ _ _ _ := keepsPort_of_eq rfl rfl

/-- `t` is `s` while held cells of context `c` pass to the port of stream `n`. -/
structure Flushing (c : ContextId) (n : StreamId) (s t : State) : Prop where
  pins : t.pins = s.pins
  lrx : t.lrx = s.lrx
  psc : t.psc = s.psc
  mga : t.mga = s.mga
  entries : t.stb.entries = s.stb.entries
  lossFirst : (t.run n).lossFirst = (s.run n).lossFirst
  lossCount : (t.run n).lossCount = (s.run n).lossCount
  pinned : (t.context c).pinned = (s.context c).pinned

section
variable {s t : State} {c : ContextId} {n : StreamId} {q : PortId}

theorem Flushing.refl (c : ContextId) (n : StreamId) (s : State) : Flushing c n s s := ⟨rfl, rfl, rfl, rfl, rfl, rfl, rfl, rfl⟩

theorem Flushing.trans {u : State} (h : Flushing c n s t) (k : Flushing c n t u) : Flushing c n s u where
  pins := k.pins.trans h.pins
  lrx := k.lrx.trans h.lrx
  psc := k.psc.trans h.psc
  mga := k.mga.trans h.mga
  entries := k.entries.trans h.entries
  lossFirst := k.lossFirst.trans h.lossFirst
  lossCount := k.lossCount.trans h.lossCount
  pinned := k.pinned.trans h.pinned

/-- A cell delivered to a port with room, whatever events its count brings about. -/
theorem deliver_flushes {b : Nat} {seq : Seq} {epoch : Epoch} (hport : (s.entry n).port = q) (hp : s.present q = true)
    (hh : s.mga.held = false) (hc : s.mga.settings.controllerPort ≠ some q) (hroom : (s.egress q).length < 512) :
    Flushing c n s (deliver n b seq epoch s) ∧ (deliver n b seq epoch s).egress q = s.egress q ++ [.media b n seq] := by
  have hcount := countStream_only n .delivered s
  have hegress : (countStream n .delivered s).egress q = s.egress q := ((keepsPort_closed q).count _ s).2 hc
  unfold deliver
  generalize countStream n .delivered s = v at hcount hegress ⊢
  have hv : (setDelivered n seq epoch v).egress q = s.egress q := hegress
  have hentry : (v.entry n).port = q := by rw [State.entry, hcount.stb]; exact hport
  have hpresent : v.present q = true := by rw [State.present, hcount.pins]; exact hp
  have hheld : v.mga.held = false := by rw [hcount.mga]; exact hh
  rw [offerEgress_joins (v := setDelivered n seq epoch v) hentry hpresent hheld (by rw [hv]; exact hroom)]
  refine ⟨⟨hcount.pins, hcount.lrx, hcount.psc, hcount.mga, ?_, ?_, ?_,
    congrArg (fun x : Bank 64 Context => (x.look c).pinned) hcount.mrg⟩, (State.egress_setEgress_self ..).trans (by rw [hv])⟩
  · show v.stb.entries = s.stb.entries
    rw [hcount.stb]
  · refine (congrArg RunRecord.lossFirst (State.run_setRun_self v n _)).trans ?_
    exact congrArg (fun x : StreamTable => (x.runs.look n).lossFirst) hcount.stb
  · refine (congrArg RunRecord.lossCount (State.run_setRun_self v n _)).trans ?_
    exact congrArg (fun x : StreamTable => (x.runs.look n).lossCount) hcount.stb

/-- Every held cell released to a port with room for them all. -/
theorem releaseAll_flushes (fuel : Nat) (hport : (s.entry n).port = q) (hp : s.present q = true) (hh : s.mga.held = false)
    (hc : s.mga.settings.controllerPort ≠ some q) (hroom : (s.egress q).length + fuel ≤ 512) :
    Flushing c n s (releaseAll c n fuel s) := by
  induction fuel generalizing s with
  | zero => exact .refl c n s
  | succ fuel ih =>
    unfold releaseAll
    dsimp only
    split
    · exact .refl c n s
    · next k hk =>
      obtain ⟨⟨held, hheld⟩, -, -⟩ := firstPresent_some hk
      have hslot : ((s.setContext c ((s.context c).advanced k)).context c).slot 0 = some held := by
        rw [State.context_setContext_self]
        exact (slot_advanced (s.context c) k 0).trans hheld
      rw [releaseHead_delivers hslot]
      generalize hx : releasedHead c (s.setContext c ((s.context c).advanced k)) = x
      have hpinned : x.pinned = (s.context c).pinned := by
        rw [← hx]
        unfold releasedHead
        rw [State.context_setContext_self]
        rfl
      have hput : Flushing c n s ((s.setContext c ((s.context c).advanced k)).setContext c x) :=
        ⟨rfl, rfl, rfl, rfl, rfl, rfl, rfl, (congrArg Context.pinned (State.context_setContext_self ..)).trans hpinned⟩
      generalize hy : (s.setContext c ((s.context c).advanced k)).setContext c x = y at hput
      have hegress : y.egress q = s.egress q := by rw [← hy]; rfl
      obtain ⟨hgo, hjoin⟩ := deliver_flushes (c := c) (b := held.buffer)
        (seq := ((s.setContext c ((s.context c).advanced k)).context c).next)
        (epoch := ((s.setContext c ((s.context c).advanced k)).context c).epoch) (s := y) (n := n) (q := q)
        (by rw [← hy]; exact hport) (by rw [← hy]; exact hp) (by rw [← hy]; exact hh) (by rw [← hy]; exact hc)
        (by rw [hegress]; omega)
      have hall := hput.trans hgo
      refine hall.trans (ih ?_ ?_ ?_ ?_ ?_)
      · rw [State.entry, hall.entries]; exact hport
      · rw [State.present, hall.pins]; exact hp
      · rw [hall.mga]; exact hh
      · rw [hall.mga]; exact hc
      · rw [hjoin, hegress, List.length_append, List.length_singleton]
        omega

end

/-- A SUSPENDED stream stays so, and a context that is not ATTACHED stays as it is, whatever a fault or an event brings about. -/
def Rests (c : ContextId) (n : StreamId) (s t : State) : Prop :=
  ((s.entry n).state = .suspended → (t.entry n).state = .suspended) ∧
    ((s.context c).condition ≠ .attached → t.context c = s.context c)

theorem rests_of_eq {c : ContextId} {n : StreamId} {s t : State} (hs : t.stb.entries = s.stb.entries) (hm : t.mrg = s.mrg) :
    Rests c n s t :=
  ⟨fun h => by rw [State.entry, hs]; exact h, fun _ => by rw [State.context, hm]; rfl⟩

theorem rests_closed (c : ContextId) (n : StreamId) : HoldClosed (Rests c n) where
  refl _ := rests_of_eq rfl rfl
  trans h k := ⟨fun hs => k.1 (h.1 hs), fun hc => (k.2 (by rw [h.2 hc]; exact hc)).trans (h.2 hc)⟩
  bfm _ _ := rests_of_eq rfl rfl
  counter _ r _ := by cases r <;> exact rests_of_eq rfl rfl
  source _ _ _ _ := rests_of_eq rfl rfl
  floor _ _ _ := rests_of_eq rfl rfl
  channel _ _ _ := rests_of_eq rfl rfl
  joinPort _ _ _ _ _ := rests_of_eq rfl rfl
  joinLane _ _ _ _ := rests_of_eq rfl rfl
  load _ _ _ := rests_of_eq rfl rfl
  record _ _ _ _ := rests_of_eq rfl rfl
  further _ _ := rests_of_eq rfl rfl
  suspend s d _ := ⟨fun hs => by
    rw [suspendDrained, State.entry_setEntry]
    split
    · rfl
    · exact hs, fun _ => rfl⟩
  flush _ _ _ := rests_of_eq rfl rfl
  subQueued _ _ := rests_of_eq rfl rfl
  window s d hd := ⟨id, fun hc => by
    rw [State.context_setContext, if_neg]
    rintro rfl
    exact hc hd⟩
  purge _ _ := rests_of_eq rfl rfl

section
variable {s : State} {r : Request} {rest : List Request} {p q : PortId} {b : Nat} {bs : List Nat} {n : StreamId} {c : ContextId}

/-- A context given back to the pool, or to the stream that pins it (R115). -/
def givenBack (n : StreamId) (x : Context) : Context := if x.pinned then .reservedTo n else .cleared

theorem givenBack_unattached (n : StreamId) (x : Context) : (givenBack n x).condition ≠ .attached := by
  unfold givenBack
  split <;> exact Condition.noConfusion

theorem givenBack_eq (n : StreamId) (x : Context) : givenBack n x =
    { condition := if x.pinned then .reserved else .free, owner := if x.pinned then some n else none, pinned := x.pinned,
      synced := false, next := 0, epoch := 0, depth := 0, slots := [], hold := 0, raw := 0, skew := false, lastRelease := none,
      age := 0, arrived := false, worstGap := 0, checkAgrees := true } := by
  unfold givenBack
  cases x.pinned <;> rfl

theorem flushContext_detaches (hc : (s.run n).context = some c) :
    flushContext n s = detach c n (releaseAll c n (s.context c).heldCells.length s) := by
  rw [flushContext, hc]

/-- What stands after the detach. -/
theorem detach_flushed {u : State} (h : Flushing c n s u) :
    ((detach c n u).run n).context = none ∧ (detach c n u).context c = givenBack n (s.context c) ∧
      ((detach c n u).run n).lossFirst = (s.run n).lossFirst ∧ ((detach c n u).run n).lossCount = (s.run n).lossCount := by
  have hrun : (detach c n u).run n = { u.run n with context := none } := State.run_setRun_self ..
  have hctx : (detach c n u).context c = givenBack n (u.context c) := State.context_setContext_self ..
  rw [hrun, hctx, givenBack, givenBack, h.pinned]
  exact ⟨rfl, rfl, h.lossFirst, h.lossCount⟩

theorem decideStreamState_suspends (h : Serves s .streamState r rest p b bs) (hh : s.mga.held = false)
    (hn : (byteAt r.payload 4).toFin = n) (hl : byteAt r.payload 3 = 2) (h3 : byteAt r.payload 5 = 3) (ha : TableAgrees s)
    (hs : (s.entry n).state = .active) (hr : (s.entry n).role = .terminus) :
    decideStreamState r.payload (granted b bs 1 .empty s) =
      answerState .ok n (changeState n .suspended (flushContext n (granted b bs 1 .empty s))) := by
  have h3' : (byteAt r.payload 5).toNat = 3 := by rw [h3]; rfl
  rw [decideStreamState_transits h hh hn hl (by omega) (by omega), if_neg (by rw [hs]; decide), if_neg (by rw [ha n]; decide), h3',
    transition_suspends (s := granted b bs 1 .empty s) hs hr]

/-- The flush, the change of state and the response, whatever events they bring about. -/
theorem suspend_flushes {w : State} (hf : Flushing c n s w) (hreq : s.mga.requests = r :: rest) :
    ∃ t, conclude b r (answerState .ok n (changeState n .suspended (detach c n w))) = t ∧ (t.entry n).state = .suspended ∧
      (t.run n).context = none ∧ t.context c = givenBack n (s.context c) ∧ (t.run n).lossFirst = (s.run n).lossFirst ∧
      (t.run n).lossCount = (s.run n).lossCount ∧ t.mga.requests = rest ∧ t.lrx = s.lrx ∧ t.psc = s.psc ∧ t.pins = s.pins := by
  obtain ⟨hctxn, hback, hfirst, hcount⟩ := detach_flushed hf
  have hmga : (detach c n w).mga = s.mga := hf.mga
  have hlrx : (detach c n w).lrx = s.lrx := hf.lrx
  have hpsc : (detach c n w).psc = s.psc := hf.psc
  have hpins : (detach c n w).pins = s.pins := hf.pins
  generalize detach c n w = f at hctxn hback hfirst hcount hmga hlrx hpsc hpins ⊢
  generalize hv : f.setEntry n { f.entry n with state := .suspended } = v
  have hchange : changeState n .suspended f = recompute v := by rw [← hv]; rfl
  obtain ⟨x, hx, hxh, hxr⟩ := conclude_ok b r (recompute v) (streamStateResult ((recompute v).entry n).state 0)
  have hhold : OnlyHold v x := (recompute_hold v).trans hxh
  have hrests : Rests c n v x := (rests_closed c n).trans ((rests_closed c n).recompute v) (hxr _ (rests_closed c n))
  have hvstate : (v.entry n).state = .suspended := by rw [← hv, State.entry_setEntry_self]
  have hvctx : v.context c = givenBack n (s.context c) := by rw [← hv]; exact hback
  obtain ⟨k, hrun⟩ := hhold.run n
  have hvrun : v.run n = f.run n := by rw [← hv]; rfl
  rw [hvrun] at hrun
  refine ⟨removeRequest x, by rw [hchange]; exact hx, hrests.1 hvstate, ?_, ?_, ?_, ?_, ?_, ?_, ?_, ?_⟩
  · exact (congrArg RunRecord.context hrun).trans hctxn
  · exact (hrests.2 (by rw [hvctx]; exact givenBack_unattached n _)).trans hvctx
  · exact (congrArg RunRecord.lossFirst hrun).trans hfirst
  · exact (congrArg RunRecord.lossCount hrun).trans hcount
  · show x.mga.requests.tail = rest
    rw [hhold.requests, ← hv, State.setEntry_mga, hmga, hreq, List.tail_cons]
  · exact hhold.lrx.trans (by rw [← hv]; exact hlrx)
  · exact hhold.psc.trans (by rw [← hv]; exact hpsc)
  · exact hhold.pins.trans (by rw [← hv]; exact hpins)

/-- With the counter far from its half and OVERCOMMIT silent, the held cells stand in the egress FIFO in their order. -/
theorem suspend_egress {w : State} {m : Nat} (h : Serves s .streamState r rest p b bs) (hrel : Released c n q (granted b bs 1 .empty s) m w)
    (hqp : q ≠ p) (ha : TableAgrees s) (ho : Silent s srcOvercommit)
    (hd : decideStreamState r.payload (granted b bs 1 .empty s) = answerState .ok n (changeState n .suspended (detach c n w))) :
    (serve .streamState decideStreamState s).egress q = s.egress q ++ entriesOf n (s.context c) m := by
  have hfe : (detach c n w).stb.entries = s.stb.entries := hrel.frame.entries
  have hfm : (detach c n w).mga = s.mga := hrel.frame.mga
  have hfb : (detach c n w).bfm = (granted b bs 1 .empty s).bfm := hrel.frame.bfm
  have hfp : (detach c n w).pins = s.pins := hrel.frame.pins
  have hfv : (detach c n w).evu = s.evu := hrel.evu
  have hfq : (detach c n w).egress q = s.egress q ++ entriesOf n (s.context c) m := hrel.egress
  have hfo : (detach c n w).egress p = s.egress p := hrel.ports p hqp.symm
  generalize detach c n w = f at hfe hfm hfb hfp hfv hfq hfo hd
  generalize hv : f.setEntry n { f.entry n with state := .suspended } = v at *
  have hentry (i : StreamId) : f.entry i = s.entry i := by rw [State.entry, hfe]; rfl
  have hagrees : TableAgrees v := by
    rw [← hv]
    exact tableAgrees_setEntry (fun i => (congrArg StreamEntry.checkAgrees (hentry i)).trans (ha i))
      ((congrArg StreamEntry.checkAgrees (hentry n)).trans (ha n))
  have hsilent : Silent v srcOvercommit := silent_congr ho (by rw [← hv]; exact hfv)
  have hflags : OnlyFlags (fun i => i = srcOvercommit) v (recompute v) := recompute_flags rfl hsilent hagrees
  have hanswer : answerState .ok n (changeState n .suspended f) =
      answer .ok (streamStateResult ((recompute v).entry n).state 0) (recompute v) := by rw [← hv]; rfl
  rw [hanswer] at hd
  have hmga : (recompute v).mga = s.mga := hflags.mga.trans (by rw [← hv]; exact hfm)
  have hbfm : (recompute v).bfm = (granted b bs 1 .empty s).bfm := hflags.bfm.trans (by rw [← hv]; exact hfb)
  have hpins : (recompute v).pins = s.pins := hflags.pins.trans (by rw [← hv]; exact hfp)
  have hegress (o : PortId) : (recompute v).egress o = f.egress o := by rw [State.egress, hflags.dlv, ← hv]; rfl
  generalize recompute v = u at hd hmga hbfm hpins hegress
  have hreach : Reaches (u.setBfm s.bfm) p :=
    { port := by rw [State.setBfm_mga, hmga]; exact h.reaches.port
      present := (congrArg (fun x : Pins => x.present.look p) hpins).trans h.reaches.present
      room := by
        show (u.egress p).length < 512
        rw [hegress, hfo]
        exact h.reaches.room }
  rw [serve_answered (t := u.setBfm s.bfm) (status := .ok) (result := streamStateResult (u.entry n).state 0) h.toHeads
    (by rw [hd, granted_restore hbfm]; rfl) (by rw [State.setBfm_mga, hmga]; exact h.head) hreach nofun]
  exact ((State.egress_setEgress ..).trans (if_neg hqp)).trans ((hegress q).trans hfq)

/-- Settles O43. -/
theorem suspendFlushesOrDrains : Obligations.SuspendFlushesOrDrains := by
  refine ⟨fun s r rest p b bs n c h hh hn hl h3 ha hs hr hc _ => ?_,
    fun s r rest p b bs n h hh hn hl h3 ha ho hs hr => ?_⟩
  · intro q hqp hp hroom
    have hne : (granted b bs 1 .empty s).mga.settings.controllerPort ≠ some q := by
      show s.mga.settings.controllerPort ≠ some q
      rw [h.reaches.port]
      exact fun he => hqp (Option.some.inj he).symm
    have hflush : Flushing c n (granted b bs 1 .empty s) _ :=
      releaseAll_flushes (s := granted b bs 1 .empty s) (s.context c).heldCells.length rfl hp hh hne hroom
    have hdecide := decideStreamState_suspends h hh hn hl h3 ha hs hr
    rw [flushContext_detaches (s := granted b bs 1 .empty s) hc] at hdecide
    obtain ⟨t, ht, hstate, hctx, hback, hfirst, hcount, hreq, hlrx, hpsc, hpins⟩ := suspend_flushes (b := b) hflush h.head
    have hexec : serve .streamState decideStreamState s = t := by rw [serve_heads h.toHeads, hdecide]; exact ht
    refine ⟨t, congrArg _ hexec, hstate, hctx, fun hfar ho => ?_, hback.trans (givenBack_eq ..), hfirst, hcount, hreq, hlrx, hpsc, hpins⟩
    have hdel : Below s (.stream n StreamCounter.delivered.id) ((s.context c).heldCells.length + 1) :=
      below_mono (below_of_far hfar (List.mem_singleton_self _)) (by omega)
    obtain ⟨m, hrel, hall, -⟩ := releaseAll_whole (s := granted b bs 1 .empty s) (c := c) (n := n) (p := q) rfl hp hh hroom hdel
    rw [← hexec, suspend_egress h hrel hqp ha ho hdecide]
    refine congrArg _ (hall.trans ?_)
    rw [entriesOf, List.take_length]
    rfl
  · have hdecide := decideStreamState_drains h hh hn hl h3 ha hs hr
    refine ⟨fun hd hq => ?_, fun d hd hc => ?_, fun hd hq => ?_⟩
    · rw [hd] at hdecide
      exact suspend_pends h ha ho hdecide hq
    · rw [hd] at hdecide
      exact suspend_busy h hdecide hs hc
    · rw [hd] at hdecide
      exact suspend_ends h ha ho hdecide hq

end

end Sys2Proof.Machine
end

section
/-! The writing of a stream's entry (R31 to R33): its checks one by one, the entry it leaves, and a pin written alone. -/

namespace Sys2Proof.Machine

open Safety

section
variable {s : State} {n m : StreamId} {c : ContextId} {items : List (Nat × Nat)}

/-! ### The checks of a write (R31) -/

theorem writeStatus_draining (h : (s.entry n).state = .draining) : s.writeStatus n items = .notReady := if_pos h

theorem writeStatus_disagrees (hd : (s.entry n).state ≠ .draining) (hc : (s.entry n).checkAgrees = false) :
    s.writeStatus n items = .held := by
  unfold State.writeStatus
  dsimp only
  rw [if_neg hd, hc]
  rfl

theorem writeStatus_fixed (ha : (s.entry n).state = .active) (hc : (s.entry n).checkAgrees = true) (hf : namesFixed items = true) :
    s.writeStatus n items = .refused := by
  unfold State.writeStatus
  dsimp only
  rw [if_neg (by rw [ha]; decide), hc, ha, hf]
  rfl

theorem writeStatus_conflict (hd : (s.entry n).state ≠ .draining) (hc : (s.entry n).checkAgrees = true)
    (hk : s.conflicts n items = true) : s.writeStatus n items = .refused := by
  unfold State.writeStatus
  dsimp only
  rw [if_neg hd, hc, hk]
  split
  · next h => cases h
  · split <;> rfl

theorem writeStatus_ok (hd : (s.entry n).state ≠ .draining) (hc : (s.entry n).checkAgrees = true)
    (hf : (s.entry n).state = .active → namesFixed items = false) (hk : s.conflicts n items = false) :
    s.writeStatus n items = .ok := by
  unfold State.writeStatus
  dsimp only
  rw [if_neg hd, hc, hk, if_neg (by decide), if_neg, if_neg (by decide)]
  intro h
  obtain ⟨ha, hn⟩ := Bool.and_eq_true .. ▸ h
  rw [hf (of_decide_eq_true ha)] at hn
  cases hn

theorem entriesList_eq (s : State) : s.entriesList = (List.finRange 256).map (fun m => (m, s.entry m)) := by
  have hlist : s.stb.entries.toList = (List.finRange 256).map s.entry := toList_eq_map_look _
  have hzip := List.zip_map' (f := id) (g := s.entry) (l := List.finRange 256)
  rw [List.map_id] at hzip
  rw [State.entriesList, hlist, hzip]
  rfl

theorem pinnedElsewhere_iff : s.pinnedElsewhere n c = true ↔ ∃ m, m ≠ n ∧ (s.entry m).pin = some c := by
  simp [State.pinnedElsewhere, entriesList_eq]

/-- A pin alone as the list of items. -/
theorem conflicts_pin (hp : items.lookup 17 = some c.val) : s.conflicts n items = s.pinConflict n c := by
  have hpin : fieldOr items 17 pinOf none = some c := by
    rw [fieldOr_eq, hp]
    exact dif_pos c.isLt
  rw [State.conflicts, hpin]

theorem conflicts_none (hp : items.lookup 17 = none) : s.conflicts n items = false := by
  have hpin : fieldOr items 17 pinOf none = none := by
    rw [fieldOr_eq, hp]
    rfl
  rw [State.conflicts, hpin]

theorem pinConflict_elsewhere (hm : m ≠ n) (hp : (s.entry m).pin = some c) : s.pinConflict n c = true := by
  rw [State.pinConflict, pinnedElsewhere_iff.2 ⟨m, hm, hp⟩]
  rfl

theorem pinConflict_free (hp : ∀ m, (s.entry m).pin ≠ some c) (hf : (s.context c).condition = .free) : s.pinConflict n c = false := by
  have hnone : s.pinnedElsewhere n c = false := by
    rw [← Bool.not_eq_true, pinnedElsewhere_iff]
    rintro ⟨m, -, h⟩
    exact hp m h
  rw [State.pinConflict, hnone, hf]
  rfl

/-! ### STREAM WRITE as it is decided (R31) -/

variable {payload : List Byte}

theorem decideStreamWrite_writes (hl : requestArgLength payload ≠ 0)
    (hf : fieldListOk (requestArgLength payload - 1) (threeByteItems ((requestArgs payload).drop 1)) = true)
    (hn : (byteAt payload 4).toFin = n) :
    decideStreamWrite payload s = writeOne n (threeByteItems ((requestArgs payload).drop 1)) s := by
  have hstream : streamOfByte (requestArg payload 0) = n := (streamOfByte_toNat (byteAt payload 4)).trans hn
  unfold decideStreamWrite
  dsimp only
  rw [if_neg (by rw [hf]; simp [hl]), hstream]

theorem writeOne_writes (hh : s.mga.held = false) (hs : s.writeStatus n items = .ok)
    (hl : ¬ ((s.entry n).state = .active ∧ namesLoad items = true)) :
    writeOne n items s = answer .ok [flagByte ((s.entry n).clamps items)] (writeStream n items s) := by
  unfold writeOne
  rw [if_neg (by rw [hh]; decide), if_pos hs]
  dsimp only
  rw [if_neg (by simpa using hl)]

theorem writeOne_loads (hh : s.mga.held = false) (hs : s.writeStatus n items = .ok) (ha : (s.entry n).state = .active)
    (hl : namesLoad items = true) :
    writeOne n items s = answer .ok [flagByte ((s.entry n).clamps items)] (recompute (writeStream n items s)) := by
  unfold writeOne
  rw [if_neg (by rw [hh]; decide), if_pos hs]
  dsimp only
  rw [if_pos (by simp [ha, hl])]

theorem writeOne_refuses (hh : s.mga.held = false) (hs : s.writeStatus n items ≠ .ok) :
    writeOne n items s = answer (s.writeStatus n items) [] (raiseIfHeld n (s.writeStatus n items) s) := by
  unfold writeOne
  rw [if_neg (by rw [hh]; decide), if_neg hs]

/-! ### A pin alone (R33, R94) -/

/-- The arguments of a write that names the pin alone. -/
theorem requestArgs_pin (hb : argLengthBad payload = false) (hl : byteAt payload 3 = 4) (h5 : byteAt payload 5 = 17)
    (h6 : byteAt payload 6 = 0) (h7 : byteAt payload 7 = byte c.val) :
    threeByteItems ((requestArgs payload).drop 1) = [(17, c.val)] := by
  have hlen : requestArgLength payload = 4 := requestArgLength_eq_iff (n := 4) |>.mpr hl
  unfold argLengthBad at hb
  unfold requestArgs
  rw [hlen] at hb ⊢
  match payload, hb, h5, h6, h7 with
  | _ :: _ :: _ :: _ :: _ :: x :: y :: z :: rest, _, h5, h6, h7 =>
    have hx : x = 17 := h5
    have hy : y = 0 := h6
    have hz : z = byte c.val := h7
    have hc : (byte c.val).toNat = c.val := by
      show (BitVec.ofNat 8 c.val).toNat = c.val
      rw [BitVec.toNat_ofNat]
      omega
    subst hx hy hz
    show [((17 : Byte).toNat, (0 : Byte).toNat * 256 + (byte c.val).toNat)] = _
    rw [hc]
    simp

theorem written_pin {e : StreamEntry} (hc : e.checkAgrees = true) (hb : e.holdMin ≤ e.holdMax) :
    e.written [(17, c.val)] = { e with pin := some c } := by
  have hpin : pinOf c.val = some c := dif_pos c.isLt
  have hmax : max e.holdMin e.holdMax = e.holdMax := max_eq_right hb
  have hlookup (code : Nat) (h : code ≠ 17) : ([(17, c.val)] : List (Nat × Nat)).lookup code = none := by
    rw [List.lookup_cons, beq_false_of_ne h]
    rfl
  have hbounds : e.boundsAfter [(17, c.val)] = (e.holdMin, e.holdMax) := rfl
  unfold StreamEntry.written
  dsimp only
  rw [hbounds]
  simp only [fieldOr, fieldPlan, itemNamed, itemValue, hlookup _ (show 1 ≠ 17 by decide), hlookup _ (show 2 ≠ 17 by decide),
    hlookup _ (show 3 ≠ 17 by decide), hlookup _ (show 4 ≠ 17 by decide), hlookup _ (show 5 ≠ 17 by decide),
    hlookup _ (show 6 ≠ 17 by decide), hlookup _ (show 7 ≠ 17 by decide), hlookup _ (show 8 ≠ 17 by decide),
    hlookup _ (show 9 ≠ 17 by decide), hlookup _ (show 10 ≠ 17 by decide), hlookup _ (show 11 ≠ 17 by decide),
    hlookup _ (show 12 ≠ 17 by decide), hlookup _ (show 13 ≠ 17 by decide), hlookup _ (show 14 ≠ 17 by decide),
    hlookup _ (show 18 ≠ 17 by decide), List.lookup_cons_self, hpin, hmax, ← hc]
  simp

/-- The template of a fill that names the pin alone clamps nothing. -/
theorem clamps_pin {e : StreamEntry} (hb : e.holdMin ≤ e.holdMax) : e.clamps [(17, c.val)] = false := by
  have hbounds : e.boundsAfter [(17, c.val)] = (e.holdMin, e.holdMax) := rfl
  rw [StreamEntry.clamps, hbounds, decide_eq_false (Nat.not_lt.2 hb)]
  rfl

/-- A write that names no hold field of an attached context, but for what it does to the reservations. -/
theorem writeStream_unattached (hc : (s.run n).context = none) : writeStream n items s =
    clampLevel n (movePin n (s.entry n).pin ((s.entry n).written items).pin (s.setEntry n ((s.entry n).written items))) := by
  have hnone (t : State) (ht : (t.run n).context = none) : applyHoldWrite n items t = t := by rw [applyHoldWrite, ht]
  have hmove (old new : Option ContextId) (t : State) : (movePin n old new t).stb = t.stb := by
    unfold movePin
    split
    · rfl
    · cases old <;> cases new <;> rfl
  have hentry : (s.setEntry n ((s.entry n).written items)).entry n = (s.entry n).written items := State.entry_setEntry_self ..
  unfold writeStream
  dsimp only
  rw [hentry, hnone]
  rw [clampLevel, State.run_setRun_self, State.run, hmove]
  exact hc

end

/-- Settles O40. -/
theorem pinReserves : Obligations.PinReserves := by
  intro s r rest p b bs n c h hh hn hl h5 h6 h7 hst hc hpin
  have hitems := requestArgs_pin h.length hl h5 h6 h7
  have hlen : requestArgLength r.payload = 4 := requestArgLength_eq_iff (n := 4) |>.mpr hl
  have hlist : fieldListOk (requestArgLength r.payload - 1) (threeByteItems ((requestArgs r.payload).drop 1)) = true := by
    rw [hitems, hlen]
    simp [fieldListOk, codesDistinct, fieldValueOk, c.isLt]
  have hdecide : ∀ u : State, decideStreamWrite r.payload u = writeOne n [(17, c.val)] u := fun u => by
    rw [decideStreamWrite_writes (by rw [hlen]; decide) hlist hn, hitems]
  have hdraining : (s.entry n).state ≠ .draining := by rcases hst with h | h <;> rw [h] <;> decide
  have hactive : (s.entry n).state ≠ .active := by rcases hst with h | h <;> rw [h] <;> decide
  have hconf : (granted b bs 1 .empty s).conflicts n [(17, c.val)] = s.pinConflict n c := conflicts_pin rfl
  refine ⟨fun hfree hcond hctx hbounds => ?_, fun m hm hp hs => ?_⟩
  · have hok : (granted b bs 1 .empty s).writeStatus n [(17, c.val)] = .ok :=
      writeStatus_ok (s := granted b bs 1 .empty s) hdraining hc (fun ha => absurd ha hactive)
        (hconf.trans (pinConflict_free hfree hcond))
    have hwrite := (hdecide _).trans (writeOne_writes (s := granted b bs 1 .empty s) hh hok fun ha => hactive ha.1)
    have hexec : exec .streamWrite s = .next (serve .streamWrite (checked decideStreamWrite) s) := rfl
    rw [writeStream_unattached (s := granted b bs 1 .empty s) hctx, show (granted b bs 1 .empty s).entry n = s.entry n from rfl,
      written_pin hc hbounds, clamps_pin hbounds, hpin] at hwrite
    have hmove (t : State) : movePin n none (some c) t = t.setContext c (.reservedTo n) := if_neg nofun
    have hburst (e : StreamEntry) (x : Context) :
        clampLevel n (((granted b bs 1 .empty s).setEntry n e).setContext c x) = granted b bs 1 .empty
          (((s.setEntry n e).setContext c x).setRun n { s.run n with level := min (s.run n).level (16 * e.burst) }) := by
      have hentry : (((granted b bs 1 .empty s).setEntry n e).setContext c x).entry n = e :=
        State.entry_setEntry_self (granted b bs 1 .empty s) n e
      rw [clampLevel, hentry]
      rfl
    rw [hmove, hburst] at hwrite
    rw [hexec, serve_answered h.toHeads ((checked_of_serves h _).trans hwrite) h.head
      ⟨h.reaches.port, h.reaches.present, h.reaches.room⟩ nofun]
    rfl
  · have hrefused : (granted b bs 1 .empty s).writeStatus n [(17, c.val)] = .refused :=
      writeStatus_conflict (s := granted b bs 1 .empty s) hdraining hc (hconf.trans (pinConflict_elsewhere hm hp))
    have hwrite := (hdecide _).trans (writeOne_refuses (s := granted b bs 1 .empty s) hh (by rw [hrefused]; decide))
    rw [hrefused] at hwrite
    exact congrArg _ (serve_refuses_with h.toHeads rfl hs ((checked_of_serves h _).trans hwrite))

end Sys2Proof.Machine
end

section
/-! PROOF SUPPORT. The entry that a write leaves, field by field (R31, R32). -/

namespace Sys2Proof.Machine

open Safety

section
variable {length : Nat} {items : List (Nat × Nat)}

/-- A named field as its code, when the reading of every named value has that value as its code. -/
theorem code_fieldOr {α : Type} {code : Nat} {f : Nat → α} {enc : α → Nat} (old : α)
    (h : ∀ v, items.lookup code = some v → enc (f v) = v) : enc (fieldOr items code f old) = (items.lookup code).getD (enc old) := by
  rw [fieldOr_eq]
  cases hl : items.lookup code with
  | none => rfl
  | some v => exact h v hl

theorem plan_code {v : Nat} (h : v ≤ 9) (old : Plan) : ((Plan.ofCode v).getD old).code = v := by
  match v, h with
  | 0, _ | 1, _ | 2, _ | 3, _ | 4, _ | 5, _ | 6, _ | 7, _ | 8, _ | 9, _ => rfl

theorem code_fieldPlan {code : Nat} (old : Plan) (h : ∀ v, items.lookup code = some v → v ≤ 9) :
    (fieldPlan items code old).code = (items.lookup code).getD old.code := by
  unfold fieldPlan itemValue
  cases hl : items.lookup code with
  | none => rfl
  | some v => exact plan_code (h v hl) old

theorem bit_code {f : Nat → Bool} (hf : ∀ v, f v = (v == 1)) {v : Nat} (h : v ≤ 1) : (if f v then 1 else 0) = v := by
  rw [hf]
  match v, h with
  | 0, _ | 1, _ => rfl

theorem fieldOr_clamp {code lo hi old : Nat} (h : lo ≤ hi) :
    fieldOr items code (fun v => clamp v lo hi) old = ((items.lookup code).map (fun v => max lo (min v hi))).getD old := by
  rw [fieldOr_eq]
  cases items.lookup code with
  | none => rfl
  | some v => exact clamp_eq h v

theorem fieldOr_id {code old : Nat} : fieldOr items code id old = (items.lookup code).getD old := by
  rw [fieldOr_eq, Option.map_id]
  rfl

/-- The values that a list of items may name (R31). -/
theorem named_bit_le (h : FieldList length items) {code v : Nat} (hv : items.lookup code = some v)
    (hc : code ∈ [1, 10, 11, 13, 18]) : v ≤ 1 := by
  obtain ⟨-, -, -, -, -, hvalues⟩ := h
  obtain ⟨hbit, -⟩ := hvalues _ (mem_of_lookup hv)
  exact hbit hc

theorem named_port_le (h : FieldList length items) {v : Nat} (hv : items.lookup 2 = some v) : v ≤ 7 := by
  obtain ⟨-, -, -, -, -, hvalues⟩ := h
  obtain ⟨-, hport, -⟩ := hvalues _ (mem_of_lookup hv)
  exact hport rfl

theorem named_class_le (h : FieldList length items) {v : Nat} (hv : items.lookup 3 = some v) : v ≤ 3 := by
  obtain ⟨-, -, -, -, -, hvalues⟩ := h
  obtain ⟨-, -, hclass, -⟩ := hvalues _ (mem_of_lookup hv)
  exact hclass rfl

theorem named_plan_le (h : FieldList length items) {code v : Nat} (hv : items.lookup code = some v) (hc : code ∈ [4, 5, 6, 7]) :
    v ≤ 9 := by
  obtain ⟨-, -, -, -, -, hvalues⟩ := h
  obtain ⟨-, -, -, hplan, -⟩ := hvalues _ (mem_of_lookup hv)
  exact hplan hc

theorem fieldList_nodup (h : FieldList length items) : (items.map Prod.fst).Nodup := by
  obtain ⟨-, -, -, -, hn, -⟩ := h
  exact hn

/-- A burst or a depth is clamped exactly when it is named outside its range (R32). -/
theorem clampsValue_iff (hn : (items.map Prod.fst).Nodup) : clampsValue items = true ↔
    (∃ v, items.lookup 9 = some v ∧ (v = 0 ∨ 1024 < v)) ∨ (∃ v, items.lookup 12 = some v ∧ (v < 4 ∨ 32 < v)) := by
  have hany : clampsValue items = true ↔ ∃ x ∈ items, (x.1 = 9 ∧ (x.2 < 1 ∨ 1024 < x.2)) ∨ (x.1 = 12 ∧ (x.2 < 4 ∨ 32 < x.2)) := by
    simp only [clampsValue, List.any_eq_true, Bool.or_eq_true, Bool.and_eq_true, beq_iff_eq, bne_iff_ne, clamp_ne_iff]
  rw [hany, exists_item hn (P := fun code v => (code = 9 ∧ (v < 1 ∨ 1024 < v)) ∨ (code = 12 ∧ (v < 4 ∨ 32 < v)))]
  constructor
  · rintro ⟨code, v, hl, ⟨rfl, hv⟩ | ⟨rfl, hv⟩⟩
    · exact .inl ⟨v, hl, by omega⟩
    · exact .inr ⟨v, hl, hv⟩
  · rintro (⟨v, hl, hv⟩ | ⟨v, hl, hv⟩)
    · exact ⟨9, v, hl, .inl ⟨rfl, by omega⟩⟩
    · exact ⟨12, v, hl, .inr ⟨rfl, hv⟩⟩

/-- The entry written by a good list (R31, R32). -/
theorem writtenBy_written (h : FieldList length items) (o : StreamEntry) : WrittenBy items o (o.written items) (o.clamps items) where
  kept := ⟨rfl, rfl⟩
  loaded := rfl
  role := code_fieldOr o.role fun v hv => by
    have hv := named_bit_le h hv (by decide)
    match v, hv with
    | 0, _ | 1, _ => rfl
  port := code_fieldOr (enc := Fin.val) o.port fun v hv => Nat.mod_eq_of_lt (Nat.lt_succ_of_le (named_port_le h hv))
  cls := code_fieldOr (enc := Fin.val) o.cls fun v hv => Nat.mod_eq_of_lt (Nat.lt_succ_of_le (named_class_le h hv))
  planClear := code_fieldPlan _ fun v hv => named_plan_le h hv (by decide)
  planWatch := code_fieldPlan _ fun v hv => named_plan_le h hv (by decide)
  planWarning := code_fieldPlan _ fun v hv => named_plan_le h hv (by decide)
  planStrike := code_fieldPlan _ fun v hv => named_plan_le h hv (by decide)
  rate := fieldOr_id
  burst := fieldOr_clamp (by decide)
  excess := code_fieldOr o.excess fun v hv => by
    have hv := named_bit_le h hv (by decide)
    match v, hv with
    | 0, _ | 1, _ => rfl
  merge := code_fieldOr (enc := fun m : Bool => if m then 1 else 0) o.merge fun v hv =>
    bit_code (fun _ => rfl) (named_bit_le h hv (by decide))
  depth := fieldOr_clamp (by decide)
  holdMode := code_fieldOr o.holdMode fun v hv => by
    have hv := named_bit_le h hv (by decide)
    match v, hv with
    | 0, _ | 1, _ => rfl
  holdUs := fieldOr_id
  holdMin := fieldOr_id
  holdMax := congrArg (max _) fieldOr_id
  gapMarkers := code_fieldOr (enc := fun m : Bool => if m then 1 else 0) o.gapMarkers fun v hv =>
    bit_code (fun _ => rfl) (named_bit_le h hv (by decide))
  clamps := by
    rw [StreamEntry.clamps, Bool.or_eq_true, clampsValue_iff (fieldList_nodup h), decide_eq_true_eq, or_assoc]
    rw [StreamEntry.boundsAfter, fieldOr_id, fieldOr_id]

theorem written_pin_kept (o : StreamEntry) (h : items.lookup 17 = none) : (o.written items).pin = o.pin := by
  show fieldOr items 17 pinOf o.pin = o.pin
  rw [fieldOr_eq, h]
  rfl

/-- The codes that a list names, as the requests test them. -/
theorem names_iff (hn : (items.map Prod.fst).Nodup) (codes : List Nat) :
    items.any (fun i => codes.contains i.1) = true ↔ ∃ code ∈ codes, items.lookup code ≠ none := by
  rw [List.any_eq_true, exists_item hn (P := fun code _ => codes.contains code = true)]
  simp only [List.contains_iff_mem, Option.ne_none_iff_exists']
  exact ⟨fun ⟨code, v, hl, hc⟩ => ⟨code, hc, v, hl⟩, fun ⟨code, hc, v, hl⟩ => ⟨code, v, hl, hc⟩⟩

theorem namesFixed_iff (hn : (items.map Prod.fst).Nodup) :
    namesFixed items = true ↔ ∃ code ∈ [1, 2, 11, 12, 17], items.lookup code ≠ none := names_iff hn _

theorem namesLoad_iff (hn : (items.map Prod.fst).Nodup) :
    namesLoad items = true ↔ ∃ code ∈ [4, 5, 6, 7, 8], items.lookup code ≠ none := names_iff hn _

end

end Sys2Proof.Machine
end

section
/-! STREAM WRITE (R31, R32, R112). -/

namespace Sys2Proof.Machine

open Safety

/-! ### What a write leaves of the table -/

/-- The entry of stream `n` set and its bucket brought under 16 bursts (R31, R32). -/
def writtenState (n : StreamId) (e : StreamEntry) (s : State) : State :=
  (s.setEntry n e).setRun n { s.run n with level := min (s.run n).level (16 * e.burst) }

section
variable {s : State} {n : StreamId} {c : ContextId} {items : List (Nat × Nat)} {e : StreamEntry}

theorem entry_writtenState : (writtenState n e s).entry n = e := State.entry_setEntry_self s n e

theorem run_writtenState :
    (writtenState n e s).run n = { s.run n with level := min (s.run n).level (16 * e.burst) } :=
  State.run_setRun_self (s.setEntry n e) n _

/-- A write that names no pin. -/
theorem writeStream_written (hp : items.lookup 17 = none) :
    writeStream n items s = applyHoldWrite n items (writtenState n ((s.entry n).written items) s) := by
  have hentry : (s.setEntry n ((s.entry n).written items)).entry n = (s.entry n).written items := State.entry_setEntry_self ..
  have hmove (t : State) : movePin n (s.entry n).pin ((s.entry n).written items).pin t = t := if_pos (written_pin_kept _ hp).symm
  unfold writeStream
  dsimp only
  rw [hentry, hmove, clampLevel, hentry]
  rfl

/-! ### The hold fields on an attached context (R112) -/

theorem withHold_eq {x : Context} (hx : x.checkAgrees = true) (hold raw : Nat) (skew : Bool) :
    x.withHold hold raw skew = { x with hold := hold, raw := raw, skew := skew } := by
  unfold Context.withHold
  rw [hx, ite_self, ← hx]

theorem setContext_own (s : State) (c : ContextId) : s.setContext c (s.context c) = s := by
  have hput : s.mrg.put c (s.context c) = s.mrg := put_look _ _
  rw [State.setContext, hput]

theorem applyHoldWrite_none (hc : (s.run n).context = none) : applyHoldWrite n items s = s := by rw [applyHoldWrite, hc]

theorem applyHoldWrite_fixed (hc : (s.run n).context = some c) (hm : (s.entry n).holdMode = .fixed)
    (hx : (s.context c).checkAgrees = true) : applyHoldWrite n items s = s.setContext c { s.context c with
      hold := if items.lookup 13 = none ∧ items.lookup 14 = none then (s.context c).hold else (s.entry n).holdUs
      skew := if items.lookup 13 = none then (s.context c).skew else false } := by
  unfold applyHoldWrite itemNamed itemValue
  rw [hc]
  dsimp only
  rw [hm]
  dsimp only
  rw [withHold_eq hx, withHold_eq hx]
  cases h13 : items.lookup 13 with
  | some v => simp
  | none =>
    cases h14 : items.lookup 14 with
    | some v => simp
    | none =>
      simp only [Option.isSome_none, Bool.false_eq_true, if_false, and_self, if_true]
      exact (setContext_own s c).symm

theorem applyHoldWrite_bounds (hc : (s.run n).context = some c) (hm : (s.entry n).holdMode = .auto)
    (hx : (s.context c).checkAgrees = true) (h13 : items.lookup 13 = none) :
    applyHoldWrite n items s = s.setContext c { s.context c with
      hold := if items.lookup 15 = none ∧ items.lookup 16 = none then (s.context c).hold
        else if (s.context c).hold < (s.entry n).holdMin then (s.entry n).holdMin
        else min (s.context c).hold (s.entry n).holdMax } := by
  unfold applyHoldWrite itemNamed itemValue
  rw [hc]
  dsimp only
  rw [hm]
  dsimp only
  rw [withHold_eq hx, h13, clamp_min]
  cases h15 : items.lookup 15 with
  | some v => simp
  | none =>
    cases h16 : items.lookup 16 with
    | some v => simp
    | none =>
      simp only [Option.isSome_none, Bool.or_self, Bool.false_eq_true, if_false, and_self, if_true]
      exact (setContext_own s c).symm

theorem applyHoldWrite_mode (hc : (s.run n).context = some c) (hm : (s.entry n).holdMode = .auto) (h13 : items.lookup 13 ≠ none) :
    applyHoldWrite n items s = evaluateHold c n (s.targetOf n) s := by
  obtain ⟨v, hv⟩ := Option.ne_none_iff_exists'.1 h13
  unfold applyHoldWrite itemNamed itemValue
  rw [hc]
  dsimp only
  rw [hm, hv]
  rfl

/-- The context after an AUTO evaluation that finds this raw value (R110, R111). -/
def evaluatedContext (e : StreamEntry) (raw : Nat) (x : Context) : Context :=
  { x with
    hold := if raw < e.holdMin then e.holdMin else min raw e.holdMax
    raw := raw
    skew := decide (e.holdMax < raw) }

/-- What an AUTO evaluation leaves of a state whose SKEW is silent where it fires. -/
def evaluatedState (c : ContextId) (n : StreamId) (e : StreamEntry) (raw : Nat) (s : State) : State :=
  (if e.holdMax < raw ∧ (s.context c).skew = false then flaggedAs srcSkew (.skew n (min raw 65535)) s else s).setContext c
    (evaluatedContext e raw (s.context c))

theorem evaluateHold_eq (hx : (s.context c).checkAgrees = true)
    (hs : (s.entry n).holdMax < s.rawOf n → (s.context c).skew = false → Silent s srcSkew) :
    evaluateHold c n (s.targetOf n) s = evaluatedState c n (s.entry n) (s.rawOf n) s := by
  have hwith : (s.context c).withHold (s.targetOf n) (s.rawOf n) (decide ((s.entry n).holdMax < s.rawOf n)) =
      evaluatedContext (s.entry n) (s.rawOf n) (s.context c) := by
    rw [withHold_eq hx, State.targetOf, clamp_min]
    rfl
  unfold evaluateHold evaluatedState
  dsimp only
  rw [hwith]
  by_cases h : (s.entry n).holdMax < s.rawOf n ∧ (s.context c).skew = false
  · obtain ⟨hlt, hskew⟩ := h
    rw [if_pos (by simp [hlt, hskew]), if_pos ⟨hlt, hskew⟩]
    have hquiet (y : Context) : Silent (s.setContext c y) srcSkew := silent_congr (hs hlt hskew) rfl
    rw [fire_flaggedAs (hquiet _), flaggedAs_eq, flaggedAs_eq]
    rfl
  · rw [if_neg (by simpa using h), if_neg h]

theorem evaluatedState_granted {b : Nat} {bs : List Nat} {raw : Nat} :
    evaluatedState c n e raw (granted b bs 1 .empty s) = granted b bs 1 .empty (evaluatedState c n e raw s) := by
  unfold evaluatedState
  by_cases h : e.holdMax < raw ∧ (s.context c).skew = false
  · rw [if_pos h, if_pos (show e.holdMax < raw ∧ ((granted b bs 1 .empty s).context c).skew = false from h), flaggedAs_eq, flaggedAs_eq]
    rfl
  · rw [if_neg h, if_neg (show ¬ (e.holdMax < raw ∧ ((granted b bs 1 .empty s).context c).skew = false) from h)]
    rfl

theorem evaluatedState_frame {raw : Nat} :
    (evaluatedState c n e raw s).mga = s.mga ∧ (evaluatedState c n e raw s).pins = s.pins ∧
      (evaluatedState c n e raw s).dlv = s.dlv ∧ (evaluatedState c n e raw s).entry n = s.entry n ∧
      (evaluatedState c n e raw s).context c = evaluatedContext e raw (s.context c) := by
  unfold evaluatedState
  split
  · rw [flaggedAs_eq]
    exact ⟨rfl, rfl, rfl, rfl, State.context_setContext_self ..⟩
  · exact ⟨rfl, rfl, rfl, rfl, State.context_setContext_self ..⟩

theorem evaluatedState_evu {raw : Nat} (hlt : e.holdMax < raw) (hs : (s.context c).skew = false) :
    (evaluatedState c n e raw s).evu = (flaggedAs srcSkew (.skew n (min raw 65535)) s).evu := by
  rw [evaluatedState, if_pos ⟨hlt, hs⟩]
  rfl

theorem evaluateHold_mga {hold : Nat} : (evaluateHold c n hold s).mga = s.mga := by
  unfold evaluateHold
  dsimp only
  split
  · exact (fire_only ..).mga
  · rfl

end

end Sys2Proof.Machine
end

section
/-! STREAM WRITE: an answer after a fault, and the statement (R21, R22, R31, R32, R70, R112). -/

namespace Sys2Proof.Machine

open Safety

/-! ### An answer, with MGMT_ERROR or without (R162) -/

theorem raiseError_hold (status : Status) (s : State) : OnlyHold s (raiseError status s) := by
  unfold raiseError
  split
  · exact .ofEvents (fire_only ..)
  · exact .refl _

theorem HoldClosed.raiseError {R : State → State → Prop} (hR : HoldClosed R) (status : Status) (s : State) :
    R s (raiseError status s) := by
  unfold Machine.raiseError
  split
  · exact hR.fire _ .mgmtError _ _
  · exact hR.refl _

/-- An answer concluded: what the route and MGMT_ERROR do to the state the command left, and the request removed. -/
theorem conclude_answers (b : Nat) (r : Request) (u : State) (status : Status) (result : List Byte) :
    ∃ v, conclude b r (answer status result u) = removeRequest v ∧ OnlyHold u v ∧ ∀ R : State → State → Prop, HoldClosed R → R u v := by
  let cell := responseCell u.mga.station r.source (requestTag r.payload) (requestCommand r.payload) status result
  have hroute : OnlyHold u (routeResponse r.source b (u.storeCell b cell)) :=
    (OnlyHold.ofEvents (.storeCell _ _ _)).trans (routeResponse_hold _ _ _)
  have hclosed (R : State → State → Prop) (hR : HoldClosed R) : R u (routeResponse r.source b (u.storeCell b cell)) :=
    hR.trans (hR.storeCell _ _ _) (hR.routeResponse _ _ _)
  exact ⟨raiseError status (routeResponse r.source b (u.storeCell b cell)), rfl, hroute.trans (raiseError_hold _ _),
    fun R hR => hR.trans (hclosed R hR) (hR.raiseError _ _)⟩

/-- The entry of stream `n`, which no completion of a drain changes while the drain is not its own. -/
def KeepsEntry (n : StreamId) (s t : State) : Prop :=
  (∀ d, s.mga.drain = some d → d.stream ≠ n) → (∀ d, t.mga.drain = some d → d.stream ≠ n) ∧ t.entry n = s.entry n

theorem keepsEntry_of_eq {n : StreamId} {s t : State} (hm : t.mga.drain = s.mga.drain) (hs : t.stb.entries = s.stb.entries) :
    KeepsEntry n s t := fun h => ⟨fun d hd => h d (by rw [← hm]; exact hd), by rw [State.entry, hs]; rfl⟩

theorem keepsEntry_closed (n : StreamId) : HoldClosed (KeepsEntry n) where
  refl _ := keepsEntry_of_eq rfl rfl
  trans {s t u} h k hs := by
    obtain ⟨ht, he⟩ := h hs
    obtain ⟨hu, he'⟩ := k ht
    exact ⟨hu, he'.trans he⟩
  bfm _ _ := keepsEntry_of_eq rfl rfl
  counter _ r _ := by cases r <;> exact keepsEntry_of_eq rfl rfl
  source _ _ _ _ := keepsEntry_of_eq rfl rfl
  floor _ _ _ := keepsEntry_of_eq rfl rfl
  channel _ _ _ := keepsEntry_of_eq rfl rfl
  joinPort _ _ _ _ _ := keepsEntry_of_eq rfl rfl
  joinLane _ _ _ _ := keepsEntry_of_eq rfl rfl
  load _ _ _ := keepsEntry_of_eq rfl rfl
  record _ _ _ _ := keepsEntry_of_eq rfl rfl
  further _ _ := keepsEntry_of_eq rfl rfl
  suspend s d hd h := ⟨nofun, by
    rw [suspendDrained, State.entry_setEntry, if_neg (h d hd).symm]
    rfl⟩
  flush _ _ _ := keepsEntry_of_eq rfl rfl
  subQueued _ _ := keepsEntry_of_eq rfl rfl
  window _ _ _ := keepsEntry_of_eq rfl rfl
  purge _ _ := keepsEntry_of_eq rfl rfl

section
variable {s : State} {step : Instr} {decide : Decide} {r : Request} {rest : List Request} {p : PortId} {b : Nat} {bs : List Nat}
  {status : Status} {result : List Byte} {n : StreamId}

/-- A disagreement found by a request brings the station into FAULT-HOLD, and the request is answered (R22, R166). -/
theorem serve_disagrees (h : Serves s step r rest p b bs) (hh : s.mga.held = false)
    (hd : decide r.payload (granted b bs 1 .empty s) = answer status result (raiseFault .tableCheck n.val (granted b bs 1 .empty s))) :
    ∃ t, serve step (checked decide) s = t ∧ t.mga.held = true ∧ t.mga.faultCause = some .tableCheck ∧ t.mga.faultIndex = n.val ∧
      MediaGone t ∧ t.mga.requests = rest ∧ ((∀ d, s.mga.drain = some d → d.stream ≠ n) → t.entry n = s.entry n) := by
  have hfault := raiseFault_hold .tableCheck n.val (granted b bs 1 .empty s)
  obtain ⟨v, hv, hold, hclosed⟩ := conclude_answers b r (raiseFault .tableCheck n.val (granted b bs 1 .empty s)) status result
  have hheld : HeldWith .tableCheck n.val (removeRequest v) :=
    ((raiseFault_heldWith (s := granted b bs 1 .empty s) hh .tableCheck n.val).stays (hclosed _ stays_closed)).removeRequest
  refine ⟨removeRequest v, by rw [serve_concludes h, hd, hv], hheld.held, hheld.cause, hheld.index, hheld.media, ?_, fun hn => ?_⟩
  · show v.mga.requests.tail = rest
    rw [(hfault.trans hold).requests, show (granted b bs 1 .empty s).mga.requests = r :: rest from h.head, List.tail_cons]
  · have hkeeps := keepsEntry_closed n
    exact (hkeeps.trans (hkeeps.raiseFault .tableCheck n.val _) (hclosed _ hkeeps) hn).2

theorem silent_setSource_ne {i j : Source} (h : Silent s i) (hne : i ≠ j) (x : SourceRecord) : Silent (s.setSource j x) i where
  notFault := h.notFault
  unbound := h.unbound
  quiet := by
    rw [State.source_setSource, if_neg hne]
    exact h.quiet

/-- A disagreement found with no media waiting: the FAULT notice stands ahead of the answer (R151, R166). -/
theorem serve_disagrees_notices {b2 : Nat} {cs : List Nat} (h : Serves s step r rest p b (b2 :: cs)) (hne : b ≠ b2)
    (hh : s.mga.held = false) (h513 : s.bfm.freeCount ≠ 513) (h1 : 1 < s.bfm.freeCount) (hroom : (s.egress p).length < 511)
    (hm : MediaGone s) (hdrain : s.mga.drain = none) (hf : (s.source srcFault).flag = false) (hs : Silent s srcMgmtError)
    (hc : Calm s [.station StationCounter.notices.id])
    (hd : decide r.payload (granted b (b2 :: cs) 1 .empty s) =
      answer .held [] (raiseFault .tableCheck n.val (granted b (b2 :: cs) 1 .empty s))) :
    ∃ t, serve step (checked decide) s = t ∧ t.egress p = s.egress p ++ [.control b2, .control b] ∧
      (t.buffer b).cell.payload = be16 (nat16At r.payload 0) ++ [byteAt r.payload 2, 7, 0] ∧
      t.stb = s.stb ∧ (t.source srcFault).flag = true ∧ t.mga.requests = rest := by
  obtain ⟨m, cell, hfault⟩ := raiseFault_notices (s := granted b (b2 :: cs) 1 .empty s) hh ⟨hm.cls, hm.windows, hm.egress⟩ hdrain hf
    (not_restarting (s := s) h.toHeads) ⟨h.reaches.port, h.reaches.present, h.reaches.room⟩ (grants_second (s := s) h1 h513) hc
    .tableCheck n.val
  rw [hfault] at hd
  generalize hv : ({ recorded .tableCheck n.val (granted b (b2 :: cs) 1 .empty s) with mrg := m } : State).setFlag srcFault
    (.fault .tableCheck n.val) = v at hd
  generalize hu : bump (.station StationCounter.notices.id) (sent p b2 cs cell v) = u at hd
  have hquiet : Silent v srcMgmtError := by
    rw [← hv]
    exact silent_setSource_ne (s := { recorded .tableCheck n.val (granted b (b2 :: cs) 1 .empty s) with mrg := m })
      ⟨hs.notFault, hs.unbound, hs.quiet⟩ (by decide) _
  have hegress : u.egress p = s.egress p ++ [.control b2] := by
    rw [← hu, ← hv]
    exact State.egress_setEgress_self ..
  have hown : u.buffer b = { refs := 1, cell := .empty, checkAgrees := true } := by
    rw [← hu, ← hv]
    exact (buffer_granted_ne hne cs 1 _ _).trans (buffer_granted b (b2 :: cs) (by decide) .empty s)
  have hmga : u.mga = (recorded .tableCheck n.val s).mga := by rw [← hu, ← hv]; rfl
  have hsource : (u.source srcFault).flag = true := by
    have hset : (v.source srcFault).flag = true := by rw [← hv, State.setFlag, State.source_setSource_self]
    rw [← hu]
    exact hset
  have hstb : u.stb = s.stb := by rw [← hu, ← hv]; rfl
  have hpins : u.pins = s.pins := by rw [← hu, ← hv]; rfl
  have hevu : u.evu = v.evu := by rw [← hu]; rfl
  have hlen : (u.egress p).length < 512 := by rw [hegress, List.length_append, List.length_singleton]; omega
  let response := responseCell u.mga.station r.source (requestTag r.payload) (requestCommand r.payload) .held []
  have hroute : routeResponse r.source b (u.storeCell b response) = (u.storeCell b response).setEgress p (u.egress p ++ [.control b]) := by
    rw [h.source]
    exact routeResponse_port (s := u.storeCell b response)
      ((congrArg (fun x => x.settings.controllerPort) hmga).trans h.reaches.port)
      ((congrArg (fun x : Pins => x.present.look p) hpins).trans h.reaches.present) hlen b
  have hconclude : conclude b r (answer .held [] u) =
      removeRequest (fire srcMgmtError .none (routeResponse r.source b (u.storeCell b response))) := rfl
  have hloud : Silent ((u.storeCell b response).setEgress p (u.egress p ++ [.control b])) srcMgmtError := silent_congr hquiet hevu
  rw [hroute, fire_flagged hloud, flagged, flaggedAs_eq] at hconclude
  refine ⟨_, (serve_concludes h).trans ((congrArg (conclude b r) hd).trans hconclude), ?_, ?_, hstb, ?_, ?_⟩
  · refine (State.egress_setEgress_self (u.storeCell b response) p _).trans ?_
    rw [hegress, List.append_assoc]
    rfl
  · refine (congrArg Cell.payload (buffer_storeCell_self (by rw [hown]; decide) response)).trans ?_
    show be16 (requestTag r.payload).toNat ++ [requestCommand r.payload, 7, 0] ++ [] = _
    rw [requestTag_toNat, List.append_nil]
    rfl
  · refine (congrArg SourceRecord.flag (State.source_setSource _ srcMgmtError srcFault _)).trans ?_
    exact hsource
  · show u.mga.requests.tail = rest
    rw [hmga]
    show s.mga.requests.tail = rest
    rw [h.head, List.tail_cons]

end

end Sys2Proof.Machine
end

section
/-! STREAM WRITE: the statement (R31, R32, R70, R112). -/

namespace Sys2Proof.Machine

open Safety

section
variable {s : State} {r : Request} {rest : List Request} {p : PortId} {b : Nat} {bs : List Nat} {n : StreamId} {c : ContextId}
  {items : List (Nat × Nat)} {length : Nat} {e : StreamEntry}

/-- A write answered OK whose effect leaves the buffers, the agent, the pins and the egress FIFOs. -/
theorem write_answers {u : State} {result : List Byte} (h : Serves s .streamWrite r rest p b bs)
    (hd : decideStreamWrite r.payload (granted b bs 1 .empty s) = answer .ok result (granted b bs 1 .empty u))
    (hmga : u.mga = s.mga) (hpins : u.pins = s.pins) (hdlv : u.dlv = s.dlv) :
    exec .streamWrite s = .next (answered r rest p b bs .ok result u) :=
  congrArg _ (serve_succeeds (t := u) h hmga hpins hdlv hd)

/-- A stream that takes the items: neither DRAINING nor disagreeing, no fixed field of an ACTIVE stream, no pin. -/
structure Takes (s : State) (n : StreamId) (length : Nat) (items : List (Nat × Nat)) : Prop where
  list : FieldList length items
  notDraining : (s.entry n).state ≠ .draining
  agrees : (s.entry n).checkAgrees = true
  noPin : items.lookup 17 = none
  noFixed : (s.entry n).state = .active → ∀ code ∈ [1, 2, 11, 12], items.lookup code = none

theorem namesFixed_false (hn : (items.map Prod.fst).Nodup) (hp : items.lookup 17 = none)
    (h : ∀ code ∈ [1, 2, 11, 12], items.lookup code = none) : namesFixed items = false := by
  rw [← Bool.not_eq_true, namesFixed_iff hn]
  rintro ⟨code, hcode, hc⟩
  have hmem : code ∈ [1, 2, 11, 12] ∨ code = 17 := by simpa [or_assoc] using hcode
  rcases hmem with hmem | rfl
  · exact hc (h code hmem)
  · exact hc hp

theorem writeStatus_takes (h : Takes s n length items) : s.writeStatus n items = .ok :=
  writeStatus_ok h.notDraining h.agrees (fun ha => namesFixed_false (fieldList_nodup h.list) h.noPin (h.noFixed ha))
    (conflicts_none h.noPin)

/-- A write that leaves the committed load alone. -/
theorem write_takes (h : Takes s n length items) (hh : s.mga.held = false) (hl : ¬ ((s.entry n).state = .active ∧ namesLoad items = true)) :
    writeOne n items s = answer .ok [flagByte ((s.entry n).clamps items)]
      (applyHoldWrite n items (writtenState n ((s.entry n).written items) s)) := by
  rw [writeOne_writes hh (writeStatus_takes h) hl, writeStream_written h.noPin]

theorem write_takes_loads (h : Takes s n length items) (hh : s.mga.held = false) (ha : (s.entry n).state = .active)
    (hl : namesLoad items = true) :
    writeOne n items s = answer .ok [flagByte ((s.entry n).clamps items)]
      (recompute (applyHoldWrite n items (writtenState n ((s.entry n).written items) s))) := by
  rw [writeOne_loads hh (writeStatus_takes h) ha hl, writeStream_written h.noPin]

theorem tableAgrees_written (ha : TableAgrees s) (he : e.checkAgrees = true) : TableAgrees (writtenState n e s) :=
  tableAgrees_setEntry (n := n) ha he

/-- A write that names the hold mode AUTO of an attached context (R110 to R112). -/
theorem write_evaluates {result : List Byte} (h : Serves s .streamWrite r rest p b bs)
    (hctx : (s.run n).context = some c) (hx : (s.context c).checkAgrees = true) (hm : e.holdMode = .auto)
    (h13 : items.lookup 13 ≠ none)
    (hd : decideStreamWrite r.payload (granted b bs 1 .empty s) =
      answer .ok result (applyHoldWrite n items (writtenState n e (granted b bs 1 .empty s)))) :
    ∃ t skew, exec .streamWrite s = .next t ∧ SkewIs (writtenState n e s) n skew ∧
      let raw := skew + s.mga.settings.guards.get s.psc.effective
      t.mga.requests = rest ∧
      ((e.holdMax < raw → (s.context c).skew = false → Silent s srcSkew) →
        t.context c = evaluatedContext e raw (s.context c) ∧ t.entry n = e) ∧
      (e.holdMax < raw → (s.context c).skew = false → Silent s srcSkew →
        t.evu = (flaggedAs srcSkew (.skew n (min raw 65535)) s).evu) := by
  let z := writtenState n e s
  have hentry : z.entry n = e := entry_writtenState
  have hrun : (z.run n).context = some c := by
    rw [show z.run n = _ from run_writtenState]
    exact hctx
  have hmode : applyHoldWrite n items (granted b bs 1 .empty z) =
      evaluateHold c n (State.targetOf (granted b bs 1 .empty z) n) (granted b bs 1 .empty z) :=
    applyHoldWrite_mode (s := granted b bs 1 .empty z) hrun (by rw [show (granted b bs 1 .empty z).entry n = e from hentry]; exact hm) h13
  replace hd := hd.trans (congrArg _ hmode)
  obtain ⟨v, hv, hold, -⟩ := conclude_answers b r
    (evaluateHold c n (State.targetOf (granted b bs 1 .empty z) n) (granted b bs 1 .empty z)) .ok result
  have hserve : exec .streamWrite s = .next (removeRequest v) :=
    congrArg _ ((serve_concludes h).trans ((congrArg (conclude b r) hd).trans hv))
  have hquiet (hs : e.holdMax < z.rawOf n → (s.context c).skew = false → Silent s srcSkew) :
      removeRequest v = answered r rest p b bs .ok result (evaluatedState c n e (z.rawOf n) z) := by
    have heq : _ = evaluatedState c n ((granted b bs 1 .empty z).entry n) (z.rawOf n) (granted b bs 1 .empty z) :=
      evaluateHold_eq (s := granted b bs 1 .empty z) (n := n) (c := c) hx (by
        rw [show (granted b bs 1 .empty z).entry n = e from hentry]
        exact fun hlt hclear => silent_congr (hs hlt hclear) rfl)
    rw [show (granted b bs 1 .empty z).entry n = e from hentry, evaluatedState_granted] at heq
    obtain ⟨hmga, hpins, hdlv, -⟩ := evaluatedState_frame (s := z) (c := c) (n := n) (e := e) (raw := z.rawOf n)
    exact Host.Outcome.next.inj (hserve.symm.trans (write_answers h (hd.trans (congrArg _ heq)) hmga hpins hdlv))
  refine ⟨removeRequest v, z.skewOf n, hserve, skewIs_skewOf _ n, ?_, fun hs => ?_, fun hlt hclear hs => ?_⟩
  · show v.mga.requests.tail = rest
    rw [hold.requests, evaluateHold_mga, show (granted b bs 1 .empty z).mga.requests = r :: rest from h.head, List.tail_cons]
  · rw [hquiet hs]
    obtain ⟨-, -, -, hn, hc⟩ := evaluatedState_frame (s := z) (c := c) (n := n) (e := e) (raw := z.rawOf n)
    exact ⟨hc, hn.trans hentry⟩
  · rw [hquiet fun _ _ => hs]
    exact (evaluatedState_evu (s := z) hlt hclear).trans (evu_flaggedAs_congr (s := s) (t := z) rfl _ _)

end

/-- Settles O39, a way of the write at a time. -/
theorem streamWriteSets : Obligations.StreamWriteSets := by
  intro s r rest p b bs n h hh hn length items value o written byteOf taken loads hl hlist
  have hlen : requestArgLength r.payload = length := rfl
  have hlistOk : fieldListOk (requestArgLength r.payload - 1) (threeByteItems ((requestArgs r.payload).drop 1)) = true :=
    fieldListOk_iff.2 hlist
  have hdecide (u : State) : decideStreamWrite r.payload u = writeOne n items u :=
    decideStreamWrite_writes (by rw [hlen]; omega) hlistOk hn
  have htakes (ht : taken) : Takes (granted b bs 1 .empty s) n (length - 1) items :=
    let ⟨hd, hc, hp, hf⟩ := ht
    ⟨hlist, hd, hc, hp, hf⟩
  have hflag (x : Bool) : [flagByte x] = byteOf x := rfl
  have hloads : namesLoad items = true ↔ loads := namesLoad_iff (fieldList_nodup hlist)
  have hby := writtenBy_written hlist o
  have hpin (ht : taken) : (o.written items).pin = o.pin :=
    let ⟨_, _, hp, _⟩ := ht
    written_pin_kept o hp
  have hwrites (ht : taken) (hload : ¬ (o.state = .active ∧ loads)) : decideStreamWrite r.payload (granted b bs 1 .empty s) =
      answer .ok (byteOf (o.clamps items)) (applyHoldWrite n items (writtenState n (o.written items) (granted b bs 1 .empty s))) :=
    (hdecide _).trans (write_takes (htakes ht) hh (by rw [hloads]; exact hload))
  refine ⟨fun ht hctx hload => ?_, fun ht hctx ha hload hagrees ho => ?_, fun c ht hctx hload hx => ?_, fun ha hc hf hs => ?_,
    fun hd => ?_, fun hd hc => ⟨?_, ?_⟩⟩
  · refine ⟨o.written items, o.clamps items, hby, hpin ht, write_answers h ((hwrites ht hload).trans ?_) rfl rfl rfl⟩
    rw [applyHoldWrite_none (by rw [run_writtenState]; exact hctx)]
    rfl
  · have hwrite := (hdecide _).trans (write_takes_loads (htakes ht) hh ha (hloads.2 hload))
    rw [applyHoldWrite_none (by rw [run_writtenState]; exact hctx)] at hwrite
    obtain ⟨u, hu, hot, hstb, hl⟩ := serve_recomputes (x := (writtenState n (o.written items) s).stb) h.toHeads
      ((checked_of_serves h _).trans hwrite) (tableAgrees_written hagrees rfl) ho
    exact ⟨o.written items, o.clamps items, u, hby, hpin ht, congrArg _ hu, hot, hstb, hl⟩
  · have hwrite := hwrites ht hload
    have hrun : ((writtenState n (o.written items) (granted b bs 1 .empty s)).run n).context = some c := by
      rw [run_writtenState]
      exact hctx
    have hentry : (writtenState n (o.written items) (granted b bs 1 .empty s)).entry n = o.written items := entry_writtenState
    refine ⟨o.written items, o.clamps items, hby, hpin ht, fun hm => ?_, fun hm h13 => ?_, fun hm h13 => ?_⟩
    · have hset := applyHoldWrite_fixed (items := items) hrun (by rw [hentry]; exact hm) hx
      rw [hentry] at hset
      exact write_answers h (hwrite.trans (congrArg _ hset)) rfl rfl rfl
    · have hset := applyHoldWrite_bounds (items := items) hrun (by rw [hentry]; exact hm) hx h13
      rw [hentry] at hset
      exact write_answers h (hwrite.trans (congrArg _ hset)) rfl rfl rfl
    · exact write_evaluates h hctx hx hm h13 hwrite
  · have hstatus : (granted b bs 1 .empty s).writeStatus n items = .refused :=
      writeStatus_fixed (s := granted b bs 1 .empty s) ha hc ((namesFixed_iff (fieldList_nodup hlist)).2 hf)
    have hwrite := (hdecide _).trans (writeOne_refuses (s := granted b bs 1 .empty s) hh (by rw [hstatus]; decide))
    rw [hstatus] at hwrite
    exact congrArg _ (serve_refuses_with h.toHeads rfl hs ((checked_of_serves h _).trans hwrite))
  · have hstatus : (granted b bs 1 .empty s).writeStatus n items = .notReady := writeStatus_draining (s := granted b bs 1 .empty s) hd
    have hwrite := (hdecide _).trans (writeOne_refuses (s := granted b bs 1 .empty s) hh (by rw [hstatus]; decide))
    rw [hstatus] at hwrite
    exact congrArg _ (serve_answered (t := s) (status := .notReady) h.toHeads ((checked_of_serves h _).trans hwrite) h.head h.reaches nofun)
  · have hstatus : (granted b bs 1 .empty s).writeStatus n items = .held := writeStatus_disagrees (s := granted b bs 1 .empty s) hd hc
    have hwrite := (hdecide _).trans (writeOne_refuses (s := granted b bs 1 .empty s) hh (by rw [hstatus]; decide))
    rw [hstatus] at hwrite
    obtain ⟨t, ht, hfault⟩ := serve_disagrees h hh hwrite
    exact ⟨t, congrArg _ ht, hfault⟩
  · rintro b2 cs rfl hne h513 h1 hroom hm hdrain hf hs hcalm
    have hstatus : (granted b (b2 :: cs) 1 .empty s).writeStatus n items = .held :=
      writeStatus_disagrees (s := granted b (b2 :: cs) 1 .empty s) hd hc
    have hwrite := (hdecide _).trans (writeOne_refuses (s := granted b (b2 :: cs) 1 .empty s) hh (by rw [hstatus]; decide))
    rw [hstatus] at hwrite
    obtain ⟨t, ht, hsends⟩ := serve_disagrees_notices h hne hh h513 h1 hroom hm hdrain hf hs hcalm hwrite
    exact ⟨t, congrArg _ ht, hsends⟩

end Sys2Proof.Machine
end

section
/-! STREAM FILL (R34): the range of streams, the state a fill leaves, and the statement. -/

namespace Sys2Proof.Machine

open Safety

/-! ### The range of a fill -/

section
variable {first last m : StreamId}

theorem mem_streamRange : m ∈ streamRange first.val last.val ↔ first ≤ m ∧ m ≤ last := by
  unfold streamRange
  rw [List.mem_filter]
  simp only [List.mem_finRange, true_and, Bool.and_eq_true, decide_eq_true_eq, Fin.le_def]

theorem nodup_streamRange : (streamRange first.val last.val).Nodup := (List.nodup_finRange 256).filter _

theorem length_streamRange : (streamRange first.val last.val).length = last.val + 1 - first.val := by
  have hset : (streamRange first.val last.val).toFinset = Finset.Icc first last := by
    ext m
    rw [List.mem_toFinset, mem_streamRange, Finset.mem_Icc]
  rw [← List.toFinset_card_of_nodup nodup_streamRange, hset, Fin.card_Icc]

/-- The range begins with its first stream. -/
theorem streamRange_cons (h : first ≤ last) : ∃ ids, streamRange first.val last.val = first :: ids := by
  have hsorted : (streamRange first.val last.val).Pairwise (· < ·) := (List.pairwise_lt_finRange 256).filter _
  have hmem : first ∈ streamRange first.val last.val := mem_streamRange.2 ⟨le_rfl, h⟩
  have hleast : ∀ m ∈ streamRange first.val last.val, first ≤ m := fun m hm => (mem_streamRange.1 hm).1
  cases hl : streamRange first.val last.val with
  | nil =>
    rw [hl] at hmem
    cases hmem
  | cons m ids =>
    rw [hl] at hsorted hmem hleast
    refine ⟨ids, ?_⟩
    rcases List.mem_cons.1 hmem with he | hin
    · rw [he]
    · exact absurd (List.rel_of_pairwise_cons hsorted hin) (not_lt.2 (hleast m List.mem_cons_self))

end

/-! ### What a fill leaves (R34) -/

/-- The streams of a list written in turn. -/
def filledState (items : List (Nat × Nat)) (ids : List StreamId) (s : State) : State :=
  ids.foldl (fun s n => writtenState n ((s.entry n).written items) s) s

section
variable {s : State} {n m : StreamId} {items : List (Nat × Nat)} {length : Nat}

theorem entry_writtenState_ne {e : StreamEntry} (h : m ≠ n) : (writtenState n e s).entry m = s.entry m :=
  (State.entry_setEntry s n m e).trans (if_neg h)

theorem run_writtenState_ne {e : StreamEntry} (h : m ≠ n) : (writtenState n e s).run m = s.run m :=
  (State.run_setRun (s.setEntry n e) n m _).trans (if_neg h)

theorem filledState_frame (ids : List StreamId) (s : State) :
    filledState items ids s = { s with stb := (filledState items ids s).stb } := by
  induction ids generalizing s with
  | nil => rfl
  | cons n ids ih =>
    rw [filledState, List.foldl_cons]
    exact (ih (writtenState n ((s.entry n).written items) s)).trans rfl

theorem filledState_others {ids : List StreamId} (h : m ∉ ids) :
    (filledState items ids s).entry m = s.entry m ∧ (filledState items ids s).run m = s.run m := by
  induction ids generalizing s with
  | nil => exact ⟨rfl, rfl⟩
  | cons n ids ih =>
    obtain ⟨hne, hids⟩ := not_or.1 (mt List.mem_cons.2 h)
    obtain ⟨he, hr⟩ := ih (s := writtenState n ((s.entry n).written items) s) hids
    exact ⟨he.trans (entry_writtenState_ne hne), hr.trans (run_writtenState_ne hne)⟩

theorem filledState_written {ids : List StreamId} (hd : ids.Nodup) (h : m ∈ ids) :
    (filledState items ids s).entry m = (s.entry m).written items ∧
      (filledState items ids s).run m =
        { s.run m with level := min (s.run m).level (16 * ((s.entry m).written items).burst) } := by
  induction ids generalizing s with
  | nil => cases h
  | cons n ids ih =>
    obtain ⟨hn, hd⟩ := List.nodup_cons.1 hd
    rcases List.mem_cons.1 h with rfl | hin
    · obtain ⟨he, hr⟩ := filledState_others (items := items) (s := writtenState m ((s.entry m).written items) s) hn
      exact ⟨he.trans entry_writtenState, hr.trans run_writtenState⟩
    · have hne : m ≠ n := fun he => hn (he ▸ hin)
      obtain ⟨he, hr⟩ := ih (s := writtenState n ((s.entry n).written items) s) hd hin
      rw [entry_writtenState_ne hne] at he hr
      exact ⟨he, hr.trans (by rw [run_writtenState_ne hne])⟩

/-- A fill of streams that all take the items and have no context. -/
theorem fillStreams_writes {ids : List StreamId} (hd : ids.Nodup) (k : Nat)
    (h : ∀ m ∈ ids, Takes s m length items ∧ (s.run m).context = none) :
    fillStreams items ids k s = { state := filledState items ids s, written := k + ids.length, status := .ok } := by
  induction ids generalizing s k with
  | nil => rfl
  | cons n ids ih =>
    obtain ⟨hn, hd⟩ := List.nodup_cons.1 hd
    obtain ⟨htakes, hctx⟩ := h n List.mem_cons_self
    have hwrite : writeStream n items s = writtenState n ((s.entry n).written items) s := by
      rw [writeStream_written htakes.noPin, applyHoldWrite_none (by rw [run_writtenState]; exact hctx)]
    rw [fillStreams, if_pos (writeStatus_takes htakes), hwrite, ih hd (k + 1) fun m hm => ?_]
    · rw [List.length_cons, Nat.add_right_comm, ← Nat.add_assoc]
      rfl
    · have hne : m ≠ n := fun he => hn (he ▸ hm)
      obtain ⟨ht, hc⟩ := h m (List.mem_cons_of_mem _ hm)
      have he := entry_writtenState_ne (s := s) (e := (s.entry n).written items) hne
      refine ⟨⟨ht.list, ?_, ?_, ht.noPin, ?_⟩, ?_⟩
      · rw [he]; exact ht.notDraining
      · rw [he]; exact ht.agrees
      · rw [he]; exact ht.noFixed
      · rw [run_writtenState_ne hne]; exact hc

/-- The template's clamp byte (R34, log 11). -/
theorem templateClamps_iff (hn : (items.map Prod.fst).Nodup) : templateClamps items = true ↔
    (∃ v, items.lookup 9 = some v ∧ (v = 0 ∨ 1024 < v)) ∨ (∃ v, items.lookup 12 = some v ∧ (v < 4 ∨ 32 < v)) ∨
      (∃ lo hi, items.lookup 15 = some lo ∧ items.lookup 16 = some hi ∧ hi < lo) := by
  rw [templateClamps, Bool.or_eq_true, clampsValue_iff hn, or_assoc]
  refine or_congr_right (or_congr_right ?_)
  unfold itemValue
  cases items.lookup 15 <;> cases items.lookup 16 <;> simp

end

/-! ### The statement (O41) -/

section
variable {s : State} {payload : List Byte} {first last : StreamId} {items : List (Nat × Nat)} {ids : List StreamId}

theorem decideStreamFill_fills (hf : (byteAt payload 4).toFin = first) (hl : (byteAt payload 5).toFin = last) (hle : first ≤ last)
    (h2 : 2 ≤ requestArgLength payload)
    (hlist : fieldListOk (requestArgLength payload - 2) (threeByteItems ((requestArgs payload).drop 2)) = true)
    (hh : s.mga.held = false) :
    decideStreamFill payload s =
      fillAll (streamRange first.val last.val) (threeByteItems ((requestArgs payload).drop 2)) s := by
  have hfirst : requestArg payload 0 = first.val := congrArg Fin.val hf
  have hlast : requestArg payload 1 = last.val := congrArg Fin.val hl
  have hle : first.val ≤ last.val := hle
  unfold decideStreamFill
  dsimp only
  rw [hfirst, hlast, hlist, if_neg (by simp; omega), if_neg (by rw [hh]; decide)]

theorem fillAll_fills {f : Filled} (h : fillStreams items ids 0 s = f)
    (hl : namesLoad items = true → ∀ n ∈ ids, (s.entry n).state ≠ .active) :
    fillAll ids items s = answer (if f.status = .ok then .ok else .part)
      (be16 f.written ++ [flagByte (templateClamps items), byte f.status.code]) f.state := by
  unfold fillAll
  dsimp only
  rw [h]
  have htouches : (namesLoad items && (ids.take f.written).any (fun n => (s.entry n).state == .active)) = false := by
    rw [← Bool.not_eq_true, Bool.and_eq_true, List.any_eq_true]
    rintro ⟨hn, n, hmem, ha⟩
    exact hl hn n (List.mem_of_mem_take hmem) (beq_iff_eq.1 ha)
  rw [htouches]
  rfl

/-- A first stream that is DRAINING stops the fill at once. -/
theorem fillAll_stops (hd : (s.entry first).state = .draining) :
    fillAll (first :: ids) items s = answer .part [0, 0, flagByte (templateClamps items), 2] s := by
  have hstops : fillStreams items (first :: ids) 0 s = { state := s, written := 0, status := .notReady } := by
    rw [fillStreams, writeStatus_draining hd]
    rfl
  unfold fillAll
  dsimp only
  rw [hstops, List.take_zero, List.any_nil, Bool.and_false]
  dsimp only
  rw [if_neg (by decide), if_neg (by decide)]
  rfl

end

/-- Settles O41. -/
theorem streamFillWrites : Obligations.StreamFillWrites := by
  intro s r rest p b bs first last h hh hf hl hle length items value h2 hlist h17
  have hfields : FieldList (length - 2) items := fieldListOk_iff.1 hlist
  have hnodup := fieldList_nodup hfields
  have hdecide : decideStreamFill r.payload (granted b bs 1 .empty s) =
      fillAll (streamRange first.val last.val) items (granted b bs 1 .empty s) :=
    decideStreamFill_fills (s := granted b bs 1 .empty s) hf hl hle h2 hlist hh
  refine ⟨templateClamps items, templateClamps_iff hnodup, fun hall => ?_, fun hd hs => ?_⟩
  · have htakes : ∀ m ∈ streamRange first.val last.val,
        Takes (granted b bs 1 .empty s) m (length - 2) items ∧ (s.run m).context = none := fun m hm => by
      obtain ⟨hlo, hhi⟩ := mem_streamRange.1 hm
      obtain ⟨hdrain, hagrees, hctx, hactive⟩ := hall m hlo hhi
      exact ⟨⟨hfields, hdrain, hagrees, h17, fun ha code hc => hactive ha code
        ((by decide : [1, 2, 11, 12] ⊆ [1, 2, 4, 5, 6, 7, 8, 11, 12]) hc)⟩, hctx⟩
    have hfilled := fillStreams_writes (s := granted b bs 1 .empty s) nodup_streamRange 0 htakes
    have hquiet : namesLoad items = true → ∀ m ∈ streamRange first.val last.val, (s.entry m).state ≠ .active := fun hn m hm ha => by
      obtain ⟨hlo, hhi⟩ := mem_streamRange.1 hm
      obtain ⟨-, -, -, hactive⟩ := hall m hlo hhi
      obtain ⟨code, hcode, hc⟩ := (namesLoad_iff hnodup).1 hn
      exact hc (hactive ha code ((by decide : [4, 5, 6, 7, 8] ⊆ [1, 2, 4, 5, 6, 7, 8, 11, 12]) hcode))
    have hfill := hdecide.trans (fillAll_fills (s := granted b bs 1 .empty s) hfilled hquiet)
    have hframe := filledState_frame (items := items) (streamRange first.val last.val) (granted b bs 1 .empty s)
    generalize hu : filledState items (streamRange first.val last.val) (granted b bs 1 .empty s) = u at hframe hfill
    have hexec := serve_effect h hfill (by rw [hframe]) (by rw [hframe]; rfl) (by rw [hframe]; rfl) (by rw [hframe]; rfl)
    refine ⟨u.setBfm s.bfm, ?_, ?_, fun m hlo hhi => ?_, fun m hm => ?_⟩
    · rw [hframe]
      rfl
    · rw [Nat.zero_add, length_streamRange] at hexec
      exact congrArg _ hexec
    · have hwritten := filledState_written (s := granted b bs 1 .empty s) (items := items) nodup_streamRange
        (mem_streamRange.2 ⟨hlo, hhi⟩)
      rw [hu] at hwritten
      obtain ⟨he, hr⟩ := hwritten
      have he' : (u.setBfm s.bfm).entry m = (s.entry m).written items := he
      rw [he']
      exact ⟨rfl, hr⟩
    · have hout : ¬ (first ≤ m ∧ m ≤ last) := fun ⟨hlo, hhi⟩ => hm.elim (not_lt.2 hlo) (not_lt.2 hhi)
      have hothers := filledState_others (s := granted b bs 1 .empty s) (items := items) (m := m)
        (ids := streamRange first.val last.val) (mt mem_streamRange.1 hout)
      rw [hu] at hothers
      exact hothers
  · obtain ⟨ids, hids⟩ := streamRange_cons hle
    have hpart := fillAll_stops (s := granted b bs 1 .empty s) (items := items) (ids := ids) hd
    rw [hids] at hdecide
    exact congrArg _ (serve_refuses_with h.toHeads rfl hs ((checked_of_serves h _).trans (hdecide.trans hpart)))

end Sys2Proof.Machine
end

section
/-! PROOF SUPPORT. A pending drain: its completion, and what its timeout purges (R27, R28). -/

namespace Sys2Proof.Machine

open Safety

section
variable {s t v : State} {d : Drain} {n : StreamId} {l : Lane} {k : Fin 4}

/-! ### What a completion leaves (R27) -/

theorem completeDrain_none (h : s.mga.drain = none) : completeDrain s = s := by rw [completeDrain, h]

/-- With every entry agreeing, a completion is the response and the recomputation. -/
theorem completeDrain_some (h : s.mga.drain = some d) (ha : TableAgrees s)
    (hv : respondInOwnBufferWith dereference d.source (s.drainResponse d) (suspendDrained d s) = v) (hva : TableAgrees v)
    (ho : Silent v srcOvercommit) : completeDrain s = recompute v := by
  have hfound : s.drainFound d = [] := if_pos (ha d.stream)
  have hfinish : finishDrain dereference d (s.setMga { s.mga with drain := none }) = recomputeLoad v := by rw [← hv]; rfl
  have hagrees : TableAgrees (recomputeLoad v) := (recomputeLoad_flags (named := fun i => i = srcOvercommit) rfl ho).agrees hva
  rw [completeDrain, h]
  dsimp only
  rw [hfound]
  have hnone : raiseAll [] (s.setMga { s.mga with drain := none }) = s.setMga { s.mga with drain := none } := rfl
  rw [hnone, hfinish, disagreeing_nil hagrees, recompute, disagreeing_nil hva]

/-- The response built in its own buffer. -/
theorem respond_granted {b : Nat} {bs : List Nat} {cell : Cell} {dest : Fin 8} (hg : Grants s 0 b bs) :
    respondInOwnBufferWith dereference dest cell s = routeResponse dest b (granted b bs 1 cell s) := by
  rw [respondInOwnBufferWith, allocateControl_granted hg]
  rfl

theorem respond_refused {cell : Cell} {dest : Fin 8} (h0 : s.bfm.freeCount = 0) :
    respondInOwnBufferWith dereference dest cell s = undeliverable s := by
  rw [respondInOwnBufferWith, allocateControl_none h0]

theorem tableAgrees_suspendDrained (ha : TableAgrees s) : TableAgrees (suspendDrained d s) :=
  tableAgrees_setEntry (n := d.stream) ha (ha d.stream)

/-! ### What a timeout purges (R28) -/

/-- No class queue takes an entry. -/
def Thins (s t : State) : Prop := ∀ l k, ∀ e ∈ t.classQueue l k, e ∈ s.classQueue l k

theorem thins_of_eq (h : t.ltx = s.ltx) : Thins s t := fun l k e he => by
  rw [State.classQueue, State.tx, h] at he
  exact he

theorem thins_setTx {x : LaneTx} (h : x.classes = (s.tx l).classes) : Thins s (s.setTx l x) := fun m j e he => by
  rw [State.classQueue, State.tx_setTx] at he
  split at he
  · next hm =>
    subst hm
    rw [h] at he
    exact he
  · exact he

theorem thins_setClassQueue {q : List QueueEntry} (h : ∀ e ∈ q, e ∈ s.classQueue l k) : Thins s (s.setClassQueue l k q) :=
  fun m j e he => by
    rw [State.classQueue_setClassQueue] at he
    split at he
    · next hm =>
      obtain ⟨rfl, rfl⟩ := hm
      exact h e he
    · exact he

theorem thins_closed : HoldClosed Thins where
  refl _ := thins_of_eq rfl
  trans h k l j e he := h l j e (k l j e he)
  bfm _ _ := thins_of_eq rfl
  counter _ r _ := by cases r <;> exact thins_of_eq rfl
  source _ _ _ _ := thins_of_eq rfl
  floor _ _ _ := thins_of_eq rfl
  channel _ _ _ := thins_of_eq rfl
  joinPort _ _ _ _ _ := thins_of_eq rfl
  joinLane _ _ _ _ := thins_setTx rfl
  load _ _ _ := thins_setTx rfl
  record _ _ _ _ := thins_of_eq rfl
  further _ _ := thins_of_eq rfl
  suspend _ _ _ := thins_of_eq rfl
  flush _ _ _ := thins_setClassQueue nofun
  subQueued _ _ := thins_of_eq rfl
  window _ _ _ := thins_of_eq rfl
  purge _ _ := thins_of_eq rfl

/-- The drain of stream `n` is pending, or it is done and the stream SUSPENDED. -/
def DrainEnds (n : StreamId) (s : State) : Prop :=
  (∃ d, s.mga.drain = some d ∧ d.stream = n) ∨ (s.mga.drain = none ∧ (s.entry n).state = .suspended)

theorem drainEnds_of_eq (hm : t.mga.drain = s.mga.drain) (hs : t.stb.entries = s.stb.entries) (h : DrainEnds n s) : DrainEnds n t := by
  rw [DrainEnds, hm, State.entry, hs]
  exact h

theorem drainEnds_closed (n : StreamId) : HoldClosed (fun s t => DrainEnds n s → DrainEnds n t) where
  refl _ := id
  trans h k := k ∘ h
  bfm _ _ := drainEnds_of_eq rfl rfl
  counter _ r _ := by cases r <;> exact drainEnds_of_eq rfl rfl
  source _ _ _ _ := drainEnds_of_eq rfl rfl
  floor _ _ _ := drainEnds_of_eq rfl rfl
  channel _ _ _ := drainEnds_of_eq rfl rfl
  joinPort _ _ _ _ _ := drainEnds_of_eq rfl rfl
  joinLane _ _ _ _ := drainEnds_of_eq rfl rfl
  load _ _ _ := drainEnds_of_eq rfl rfl
  record _ _ _ _ := drainEnds_of_eq rfl rfl
  further _ _ := drainEnds_of_eq rfl rfl
  suspend s d hd h := by
    obtain ⟨x, hx, rfl⟩ | ⟨hnone, -⟩ := h
    · obtain rfl : d = x := Option.some.inj (hd.symm.trans hx)
      exact .inr ⟨rfl, congrArg StreamEntry.state (State.entry_setEntry_self ..)⟩
    · rw [hd] at hnone
      cases hnone
  flush _ _ _ := drainEnds_of_eq rfl rfl
  subQueued _ _ := drainEnds_of_eq rfl rfl
  window _ _ _ := drainEnds_of_eq rfl rfl
  purge _ _ := drainEnds_of_eq rfl rfl

/-- An entry purged, for a relation that the count of the drain's purged entries keeps. -/
theorem purgeQueued_closed {R : State → State → Prop} (h : HoldClosed R)
    (hp : ∀ (s : State) (f : Drain → Nat), R s (s.setMga { s.mga with drain := s.mga.drain.map (fun d => { d with purged := f d }) })) (s : State)
    (e : QueueEntry) : R s (purgeQueued s e) :=
  h.trans (h.trans (h.subQueued s e.stream) (h.count _ _)) (h.trans (hp _ (fun d => d.purged + 1)) (h.dereference _ _))

theorem purged_thins (s : State) (e : QueueEntry) : Thins s (purgeQueued s e) :=
  purgeQueued_closed thins_closed (fun _ _ => thins_of_eq rfl) s e

theorem purged_drainEnds (s : State) (e : QueueEntry) : DrainEnds n s → DrainEnds n (purgeQueued s e) :=
  purgeQueued_closed (drainEnds_closed n) (fun s f h => by
    obtain ⟨d, hd, rfl⟩ | ⟨hnone, hs⟩ := h
    · exact .inl ⟨{ d with purged := f d }, by rw [State.setMga_mga, hd]; rfl, rfl⟩
    · exact .inr ⟨by rw [State.setMga_mga, hnone]; rfl, hs⟩) s e

theorem purgeClass_thins (s : State) (q : Lane × Fin 4) :
    Thins (s.setClassQueue q.1 q.2 ((s.classQueue q.1 q.2).filter (fun e => e.stream != n))) (purgeClass n s q) :=
  thins_closed.foldl purged_thins _ _

/-- After a class queue is purged it holds nothing of the stream. -/
theorem purgeClass_purges (s : State) (q : Lane × Fin 4) : ∀ e ∈ (purgeClass n s q).classQueue q.1 q.2, e.stream ≠ n := by
  intro e he
  have hmem := purgeClass_thins s q q.1 q.2 e he
  rw [State.classQueue_setClassQueue_self] at hmem
  simpa using (List.mem_filter.1 hmem).2

theorem purgeClass_shrinks (s : State) (q : Lane × Fin 4) : Thins s (purgeClass n s q) :=
  thins_closed.trans (thins_setClassQueue fun _ he => List.mem_of_mem_filter he) (purgeClass_thins s q)

theorem purgeClasses_purge (qs : List (Lane × Fin 4)) (s : State) :
    ∀ q ∈ qs, ∀ e ∈ (qs.foldl (purgeClass n) s).classQueue q.1 q.2, e.stream ≠ n := by
  induction qs generalizing s with
  | nil => nofun
  | cons a qs ih =>
    intro q hq e he
    rcases List.mem_cons.1 hq with rfl | hin
    · exact purgeClass_purges s q e (thins_closed.foldl purgeClass_shrinks qs _ q.1 q.2 e he)
    · exact ih (purgeClass n s a) q hin e he

theorem mem_laneClasses (l : Lane) (k : Fin 4) : (l, k) ∈ lanes.flatMap (fun l => classes.map (fun k => (l, k))) := by
  have hl : l ∈ lanes := by cases l <;> decide
  have hk : k ∈ classes := by
    revert k
    decide
  exact List.mem_flatMap.2 ⟨l, hl, List.mem_map.2 ⟨k, hk, rfl⟩⟩

theorem purgeStream_purges (n : StreamId) (s : State) (l : Lane) (k : Fin 4) :
    ∀ e ∈ (purgeStream n s).classQueue l k, e.stream ≠ n := by
  exact purgeClasses_purge _ s (l, k) (mem_laneClasses l k)

theorem purgeClass_drainEnds (s : State) (q : Lane × Fin 4) (h : DrainEnds n s) : DrainEnds n (purgeClass n s q) :=
  (drainEnds_closed n).foldl purged_drainEnds _ _ (drainEnds_of_eq (t := s.setClassQueue q.1 q.2 _) rfl rfl h)

theorem purgeStream_drainEnds (n : StreamId) (s : State) : DrainEnds n s → DrainEnds n (purgeStream n s) :=
  (drainEnds_closed n).foldl purgeClass_drainEnds _ s

end

end Sys2Proof.Machine
end

section
/-! DRAIN_COMPLETION and DRAIN_TIMEOUT (R27, R28). -/

namespace Sys2Proof.Machine

open Safety

section
variable {s t u v : State} {d : Drain} {n : StreamId} {l : Lane} {k : Fin 4}

/-! ### What every completion leaves -/

theorem purgeQueued_hold (s : State) (e : QueueEntry) : OnlyHold s (purgeQueued s e) := by
  have hcount : OnlyHold s (countStream e.stream .drainPurge (s.subQueued e.stream)) :=
    (OnlyHold.subQueued s e.stream).trans (.ofEvents (countStream_only ..))
  unfold purgeQueued
  dsimp only
  generalize countStream e.stream .drainPurge (s.subQueued e.stream) = v at hcount
  refine hcount.trans (OnlyHold.trans ?_ (dereference_hold _ _))
  exact .setMga rfl rfl rfl rfl rfl

theorem purgeClass_hold (s : State) (q : Lane × Fin 4) : OnlyHold s (purgeClass n s q) := by
  unfold purgeClass
  exact (OnlyHold.setClassQueue ..).trans (OnlyHold.foldl purgeQueued_hold _ _)

theorem purgeStream_hold (n : StreamId) (s : State) : OnlyHold s (purgeStream n s) := OnlyHold.foldl purgeClass_hold _ s

theorem completeDrain_ends (h : DrainEnds n s) :
    (completeDrain s).mga.drain = none ∧ ((completeDrain s).entry n).state = .suspended := by
  cases hd : s.mga.drain with
  | none =>
    obtain ⟨x, hx, -⟩ | ⟨-, hs⟩ := h
    · rw [hd] at hx
      cases hx
    · rw [completeDrain_none hd]
      exact ⟨hd, hs⟩
  | some d =>
    obtain ⟨x, hx, rfl⟩ | ⟨hnone, -⟩ := h
    · obtain rfl : d = x := Option.some.inj (hd.symm.trans hx)
      rw [completeDrain, hd]
      dsimp only
      generalize raiseAll (s.drainFound d) (s.setMga { s.mga with drain := none }) = u
      generalize hw : suspendDrained d u = w
      have hfinish : finishDrain dereference d u = recomputeLoad (respondInOwnBufferWith dereference d.source (u.drainResponse d) w) := by
        rw [← hw]
        rfl
      have hafter {R : State → State → Prop} (hR : HoldClosed R) :
          R w (raiseAll (finishDrain dereference d u).disagreeing (finishDrain dereference d u)) := by
        refine hR.trans ?_ (hR.raiseAll _ _)
        rw [hfinish]
        exact hR.trans (hR.respondInOwnBufferWith hR.dereference _ _ _) (hR.recomputeLoad _)
      have hstate : (w.entry d.stream).state = .suspended := by
        rw [← hw]
        exact congrArg StreamEntry.state (State.entry_setEntry_self ..)
      exact ⟨(hafter stays_closed).drain (by rw [← hw]; rfl), (hafter (rests_closed 0 d.stream)).1 hstate⟩
    · rw [hd] at hnone
      cases hnone

theorem completeDrain_thins (s : State) : Thins s (completeDrain s) := by
  have hR := thins_closed
  unfold completeDrain
  split
  · exact hR.refl _
  · next d _ =>
    have hfinish (u : State) : Thins u (finishDrain dereference d u) :=
      hR.trans (t := suspendDrained d u) (thins_of_eq rfl)
        (hR.trans (hR.respondInOwnBufferWith hR.dereference _ _ _) (hR.recomputeLoad _))
    exact hR.trans (t := s.setMga { s.mga with drain := none }) (thins_of_eq rfl)
      (hR.trans (hR.raiseAll _ _) (hR.trans (hfinish _) (hR.raiseAll _ _)))

/-! ### One remaining copy -/

theorem purgeClass_clear {q : Lane × Fin 4} (h : ∀ e ∈ s.classQueue q.1 q.2, e.stream ≠ n) : purgeClass n s q = s := by
  have hkeep : (s.classQueue q.1 q.2).filter (fun e => e.stream != n) = s.classQueue q.1 q.2 :=
    List.filter_eq_self.2 fun e he => by simpa using h e he
  have hnone : (s.classQueue q.1 q.2).filter (fun e => e.stream == n) = [] :=
    List.filter_eq_nil_iff.2 fun e he => by simpa using h e he
  unfold purgeClass
  dsimp only
  rw [hkeep, hnone, setClassQueue_self rfl]
  rfl

theorem purgeClasses_clear {qs : List (Lane × Fin 4)} (h : ∀ q ∈ qs, ∀ e ∈ s.classQueue q.1 q.2, e.stream ≠ n) :
    qs.foldl (purgeClass n) s = s :=
  List.foldlRecOn qs (purgeClass n) (motive := fun t => t = s) rfl fun t ht q hq => by
    rw [ht]
    exact purgeClass_clear (h q hq)

theorem purgeClass_one {q : Lane × Fin 4} {e : QueueEntry} (h : s.classQueue q.1 q.2 = [e]) (he : e.stream = n) :
    purgeClass n s q = purgeQueued (s.setClassQueue q.1 q.2 []) e := by
  subst he
  unfold purgeClass
  dsimp only
  rw [h]
  simp

/-- A stream with one copy in all the class queues. -/
theorem purgeStream_one {e : QueueEntry} (h : s.classQueue l k = [e]) (he : e.stream = n)
    (hothers : ∀ m j, (m, j) ≠ (l, k) → ∀ x ∈ s.classQueue m j, x.stream ≠ n) :
    purgeStream n s = purgeQueued (s.setClassQueue l k []) e := by
  obtain ⟨before, after, hsplit, hnot⟩ := List.eq_append_cons_of_mem (mem_laneClasses l k)
  have hbefore : before.foldl (purgeClass n) s = s :=
    purgeClasses_clear fun q hq => hothers q.1 q.2 fun he => hnot (he ▸ hq)
  have hone : purgeClass n s (l, k) = purgeQueued (s.setClassQueue l k []) e := purgeClass_one (q := (l, k)) h he
  have hafter : after.foldl (purgeClass n) (purgeQueued (s.setClassQueue l k []) e) = purgeQueued (s.setClassQueue l k []) e :=
    purgeClasses_clear fun q _ x hx => by
      have hmem := purged_thins (s.setClassQueue l k []) e q.1 q.2 x hx
      rw [State.classQueue_setClassQueue] at hmem
      split at hmem
      · cases hmem
      · next hne => exact hothers q.1 q.2 (fun he => hne (Prod.mk.inj he)) x hmem
  rw [purgeStream, hsplit, List.foldl_append, List.foldl_cons, hbefore, hone, hafter]

end

end Sys2Proof.Machine
end

section
/-! DRAIN_COMPLETION and DRAIN_TIMEOUT: the statement (R27, R28). -/

namespace Sys2Proof.Machine

open Safety

section
variable {s t u v w : State} {d : Drain} {n : StreamId} {l : Lane} {k : Fin 4} {p : PortId} {b : Nat} {bs : List Nat}

/-- The response to a completed drain (R27). -/
theorem drainResponse_eq (s : State) (d : Drain) : s.drainResponse d =
    { kind := .mgmtRsp, addr := stationsByte d.source (stationAddress s.mga.station), cls := 0, frameEnd := false,
      demoted := false, seq := 0, payload := be16 d.tag.toNat ++ [d.command, 0, 3, 3] ++ be16 d.purged } := rfl

/-- A completion whose response leaves `v`. -/
theorem completeDrain_leaves (hd : s.mga.drain = some d) (ha : TableAgrees s)
    (hv : respondInOwnBufferWith dereference d.source (s.drainResponse d) (suspendDrained d s) = v) (hva : TableAgrees v)
    (ho : Silent v srcOvercommit) :
    ∃ t, completeDrain s = t ∧ OnlyTable v t ∧ t.stb = v.stb ∧ LoadDerived t ∧ t.source srcUndeliverable = v.source srcUndeliverable := by
  obtain ⟨hot, hstb, hl⟩ := recompute_onlyTable hva ho
  have hflags : OnlyFlags (fun i => i = srcOvercommit) v (recompute v) := recompute_flags rfl ho hva
  exact ⟨recompute v, completeDrain_some hd ha hv hva ho, hot, hstb, hl, hflags.others srcUndeliverable (by decide)⟩

/-- The response joins the controller's port. -/
theorem respond_joins (hc : d.source = controllerAddress) (hp : Reaches s p) (hg : Grants s 0 b bs) :
    respondInOwnBufferWith dereference d.source (s.drainResponse d) (suspendDrained d s) =
      (granted b bs 1 (s.drainResponse d) (suspendDrained d s)).setEgress p (s.egress p ++ [.control b]) := by
  rw [respond_granted (s := suspendDrained d s) ⟨hg.free, hg.above, hg.notLow⟩, hc]
  exact routeResponse_port (s := granted b bs 1 (s.drainResponse d) (suspendDrained d s)) hp.port hp.present hp.room b

theorem completeDrain_responds (hd : s.mga.drain = some d) (ha : TableAgrees s) (ho : Silent s srcOvercommit)
    (hc : d.source = controllerAddress) (hp : Reaches s p) (hg : Grants s 0 b bs) :
    ∃ t, completeDrain s = t ∧
      OnlyTable ((granted b bs 1 (s.drainResponse d) (suspendDrained d s)).setEgress p (s.egress p ++ [.control b])) t ∧
      t.stb = (suspendDrained d s).stb ∧ LoadDerived t := by
  obtain ⟨t, ht, hot, hstb, hl, -⟩ := completeDrain_leaves hd ha (respond_joins hc hp hg) (tableAgrees_suspendDrained ha)
    (silent_congr ho rfl)
  exact ⟨t, ht, hot, hstb, hl⟩

/-- Whatever becomes of a routed response, the table's checks and OVERCOMMIT stay (R162). -/
theorem routeResponse_quiet (hd : Discards w b) (hc : ∀ p, Calm w [.port p PortCounter.outDrop.id]) (dest : Fin 8) (ha : TableAgrees w)
    (ho : Silent w srcOvercommit) :
    TableAgrees (routeResponse dest b w) ∧ Silent (routeResponse dest b w) srcOvercommit := by
  have hstb : (routeResponse dest b w).stb = w.stb := (routeResponse_only hd.refs).stb
  refine ⟨fun n => by rw [State.entry, hstb]; exact ha n, ?_⟩
  rcases routeResponse_outcome hd hc dest with ⟨p, q, he⟩ | ⟨l, q, he⟩ | ⟨p, he⟩ | he <;> rw [he]
  · exact silent_congr ho rfl
  · exact silent_congr ho rfl
  · exact silent_undelivered (silent_congr ho rfl) (by decide)
  · exact silent_undelivered (silent_congr ho rfl) (by decide)

/-! ### The two steps -/

theorem exec_drainCompletion_none (hd : s.mga.drain = none) : exec .drainCompletion s = .next s := by
  show execDrainCompletion s = _
  rw [execDrainCompletion, hd]

theorem exec_drainCompletion_waits (hd : s.mga.drain = some d) (hq : (s.run d.stream).queued ≠ 0) :
    exec .drainCompletion s = .next s := by
  show execDrainCompletion s = _
  rw [execDrainCompletion, hd]
  exact if_neg hq

theorem exec_drainCompletion_completes (hd : s.mga.drain = some d) (hq : (s.run d.stream).queued = 0) :
    exec .drainCompletion s = .next (completeDrain s) := by
  show execDrainCompletion s = _
  rw [execDrainCompletion, hd]
  exact if_pos hq

theorem exec_drainTimeout_none (hd : s.mga.drain = none) : exec .drainTimeout s = .next s := by
  show execDrainTimeout s = _
  rw [execDrainTimeout, hd]

theorem exec_drainTimeout_waits (hd : s.mga.drain = some d) (ht : 1 < d.ticks) : exec .drainTimeout s = .next s := by
  show execDrainTimeout s = _
  rw [execDrainTimeout, hd]
  exact if_neg (Nat.not_le.2 ht)

theorem exec_drainTimeout_completes (hd : s.mga.drain = some d) (ht : d.ticks ≤ 1) :
    exec .drainTimeout s = .next (completeDrain (purgeStream d.stream s)) := by
  show execDrainTimeout s = _
  rw [execDrainTimeout, hd]
  exact if_pos ht

/-- One entry purged: its count, its reference and the drain's count of purged entries. -/
theorem purgeQueued_eq {e : QueueEntry} (hrefs : (s.buffer e.buffer).refs = 1)
    (hc : (s.counter (.stream e.stream StreamCounter.drainPurge.id)).atHalf = false) (hd : s.mga.drain = some d) :
    purgeQueued s e = returned e.buffer ((bump (.stream e.stream StreamCounter.drainPurge.id) (s.subQueued e.stream)).setMga
      { s.mga with drain := some { d with purged := d.purged + 1 } }) := by
  have hcount : countStream e.stream .drainPurge (s.subQueued e.stream) =
      bump (.stream e.stream StreamCounter.drainPurge.id) (s.subQueued e.stream) := count_bump hc
  have hmga : (bump (.stream e.stream StreamCounter.drainPurge.id) (s.subQueued e.stream)).mga = s.mga := rfl
  unfold purgeQueued
  dsimp only
  rw [hcount, hmga, hd]
  exact dereference_returned hrefs

/-- The drain ended at its deadline with one copy left (R28). -/
theorem timeout_one {b0 : Nat} (hd : s.mga.drain = some d) (h1 : s.classQueue l k = [{ buffer := b0, stream := d.stream }])
    (hothers : ∀ m j, (m, j) ≠ (l, k) → ∀ e ∈ s.classQueue m j, e.stream ≠ d.stream) (hrefs : (s.buffer b0).refs = 1) (hne : b0 ≠ b)
    (hw : PoolCanonical s) (ha : TableAgrees s) (ho : Silent s srcOvercommit)
    (hcalm : Calm s [.stream d.stream StreamCounter.drainPurge.id]) (hc : d.source = controllerAddress) (hp : Reaches s p)
    (hg : Grants s 0 b bs) (h511 : s.bfm.freeCount ≠ 511) :
    ∃ t, completeDrain (purgeStream d.stream s) = t ∧ t.classQueue l k = [] ∧ (t.buffer b0).refs = 0 ∧ t.bfm.free = bs ++ [b0] ∧
      t.counter (.stream d.stream StreamCounter.drainPurge.id) =
        (s.counter (.stream d.stream StreamCounter.drainPurge.id)).increment ∧
      (t.run d.stream).queued = (s.run d.stream).queued - 1 ∧ t.egress p = s.egress p ++ [.control b] ∧
      (t.buffer b).cell.payload = be16 d.tag.toNat ++ [d.command, 0, 3, 3] ++ be16 (d.purged + 1) := by
  have hpurge : purgeStream d.stream s = purgeQueued (s.setClassQueue l k []) { buffer := b0, stream := d.stream } :=
    purgeStream_one h1 rfl hothers
  rw [hpurge, purgeQueued_eq (s := s.setClassQueue l k []) (e := { buffer := b0, stream := d.stream }) hrefs (hcalm _ (List.mem_singleton_self _)) hd]
  dsimp only
  generalize hv : (bump (.stream d.stream StreamCounter.drainPurge.id) ((s.setClassQueue l k []).subQueued d.stream)).setMga
    { (s.setClassQueue l k []).mga with drain := some { d with purged := d.purged + 1 } } = v
  have hvw : PoolCanonical v := by rw [← hv]; exact hw
  have hclass : v.classQueue l k = [] := by
    rw [← hv]
    exact State.classQueue_setClassQueue_self s l k []
  have hcount : v.counter (.stream d.stream StreamCounter.drainPurge.id) =
      (s.counter (.stream d.stream StreamCounter.drainPurge.id)).increment := by
    rw [← hv]
    exact (counter_bump (.stream d.stream StreamCounter.drainPurge.id) (.stream d.stream StreamCounter.drainPurge.id)
      ((s.setClassQueue l k []).subQueued d.stream)).trans (if_pos rfl)
  have hqueued : (v.run d.stream).queued = (s.run d.stream).queued - 1 := by
    rw [← hv]
    exact congrArg RunRecord.queued ((State.run_subQueued ..).trans (if_pos rfl))
  have hegress : v.egress p = s.egress p := by rw [← hv]; rfl
  obtain ⟨t, ht, ⟨hframe, htx⟩, hstb, -⟩ := completeDrain_responds (s := returned b0 v) (d := { d with purged := d.purged + 1 })
    (p := p) (b := b) (bs := bs ++ [b0]) (by rw [← hv]; rfl) (by rw [← hv]; exact ha) (by rw [← hv]; exact silent_congr ho rfl) hc
    (by rw [← hv]; exact ⟨hp.port, hp.present, hp.room⟩)
    (by
      rw [← hv]
      refine ⟨by show s.bfm.free ++ [b0] = _; rw [hg.free]; rfl, Nat.succ_pos _, ?_⟩
      show s.bfm.freeCount + 1 ≠ 512
      omega)
  refine ⟨t, ht, ?_, ?_, ?_, ?_, ?_, ?_, ?_⟩
  · refine (congrArg (fun x : LaneTx => x.classes.look k) (htx l)).trans ?_
    exact hclass
  · rw [State.buffer, hframe]
    refine (congrArg Buffer.refs (buffer_granted_ne hne (bs ++ [b0]) 1 _ _)).trans ?_
    exact refs_returned_self hvw
  · rw [hframe]
    rfl
  · refine Eq.trans ?_ hcount
    rw [State.counter, hframe]
    rfl
  · rw [State.run, hstb]
    exact hqueued
  · rw [State.egress, hframe]
    refine (State.egress_setEgress_self ..).trans ?_
    rw [← hegress]
    rfl
  · rw [State.buffer, hframe]
    exact congrArg (fun x : Buffer => x.cell.payload) (buffer_granted b (bs ++ [b0]) (by decide) _ _)

/-- Settles O34. -/
theorem drainsEnd : Obligations.DrainsEnd := by
  refine ⟨fun s => ⟨exec_drainCompletion_none, fun d => exec_drainCompletion_waits, fun d p b bs hd hq ha ho hc hp hg => ?_,
      fun d hd hq ha ho hs hu hdrop => ?_⟩,
    fun s => ⟨exec_drainTimeout_none, fun d hd => ⟨exec_drainTimeout_waits hd, fun ht => ?_,
      fun l k b0 p b bs ht h1 hothers hrefs hne hw ha ho hcalm hc hp hg h511 => ?_⟩⟩⟩
  · intro u
    obtain ⟨t, ht, hot, hstb, hl⟩ := completeDrain_responds hd ha ho hc hp hg
    rw [drainResponse_eq, hc] at hot
    exact ⟨t, (exec_drainCompletion_completes hd hq).trans (congrArg _ ht), hot, hstb, hl⟩
  · intro suspended ends
    have hends {v : State} (hv : respondInOwnBufferWith dereference d.source (s.drainResponse d) (suspendDrained d s) = v)
        (hva : TableAgrees v) (hvo : Silent v srcOvercommit) : ends v := by
      obtain ⟨t, ht, hall⟩ := completeDrain_leaves hd ha hv hva hvo
      exact ⟨t, (exec_drainCompletion_completes hd hq).trans (congrArg _ ht), hall⟩
    have hsa : TableAgrees suspended := tableAgrees_suspendDrained ha
    have hso : Silent suspended srcOvercommit := silent_congr ho rfl
    have hsu : Silent suspended srcUndeliverable := silent_congr hs rfl
    refine ⟨fun h0 => ?_, fun b bs hg => ?_⟩
    · refine hends ((respond_refused (s := suspendDrained d s) h0).trans
        (undeliverable_silent (hu _ (List.mem_singleton_self _)) hsu)) ?_ (silent_undelivered hso (by decide))
      intro n
      rw [undelivered, flagged, flaggedAs_eq]
      exact hsa n
    · have hdiscards : Discards (granted b bs 1 (s.drainResponse d) suspended) b := discards_granted hu hsu
      obtain ⟨hva, hvo⟩ := routeResponse_quiet hdiscards hdrop d.source hsa (silent_congr hso rfl)
      exact ⟨_, hends (respond_granted (s := suspendDrained d s) ⟨hg.free, hg.above, hg.notLow⟩) hva hvo,
        routed_routeResponse hdiscards hdrop d.source⟩
  · have hends := completeDrain_ends (purgeStream_drainEnds d.stream s (.inl ⟨d, hd, rfl⟩))
    have hhold := (purgeStream_hold d.stream s).trans (completeDrain_hold _)
    exact ⟨_, exec_drainTimeout_completes hd ht, hends.1, hends.2,
      fun l k e he => purgeStream_purges d.stream s l k e (completeDrain_thins _ l k e he),
      hhold.psc, hhold.lrx, hhold.pins, hhold.lck, hhold.tin, hhold.settings⟩
  · obtain ⟨t, ht', hall⟩ := timeout_one hd h1 hothers hrefs hne hw ha ho hcalm hc hp hg h511
    exact ⟨t, (exec_drainTimeout_completes hd ht).trans (congrArg _ ht'), hall⟩

end

end Sys2Proof.Machine
end

section
/-! PROOF SUPPORT. A view that falls to UNUSABLE: what the protection requeue empties, whatever the events (R56, R65, R66). -/

namespace Sys2Proof.Machine

open Safety

section
variable {s t : State} {l m : Lane} {k : Fin 4}

/-! ### What no step puts on a lane that is UNUSABLE -/

/-- The views stay, and the queues of lane `m` do not grow while its view is UNUSABLE. -/
structure Shrinks (m : Lane) (s t : State) : Prop where
  view : ∀ l, t.view l = s.view l
  control : s.view m = .unusable → (t.tx m).control.length ≤ (s.tx m).control.length
  classes : s.view m = .unusable → ∀ k, (t.classQueue m k).length ≤ (s.classQueue m k).length

theorem shrinks_of_eq (h : t.ltx = s.ltx) : Shrinks m s t := by
  have htx (l : Lane) : t.tx l = s.tx l := by rw [State.tx, h]; rfl
  refine ⟨fun l => ?_, fun _ => ?_, fun _ k => ?_⟩
  · rw [State.view, htx]; rfl
  · rw [htx]
  · rw [State.classQueue, htx]; rfl

theorem Shrinks.trans {u : State} (h : Shrinks m s t) (k : Shrinks m t u) : Shrinks m s u where
  view l := (k.view l).trans (h.view l)
  control hm := (k.control ((h.view m).trans hm)).trans (h.control hm)
  classes hm i := (k.classes ((h.view m).trans hm) i).trans (h.classes hm i)

/-- A change of a lane's queues, of an UNUSABLE one only to shorter ones. -/
theorem shrinks_setTx {x : LaneTx} (hv : x.view = (s.tx l).view)
    (h : s.view l = .unusable → x.control.length ≤ (s.tx l).control.length ∧ ∀ k, (x.classes.look k).length ≤ (s.classQueue l k).length) :
    Shrinks m s (s.setTx l x) := by
  refine ⟨fun i => ?_, fun hm => ?_, fun hm k => ?_⟩
  · rw [State.view, State.tx_setTx]
    split
    · next h => rw [hv, h]; rfl
    · rfl
  · rw [State.tx_setTx]
    split
    · next he => rw [he]; exact (h (he ▸ hm)).1
    · exact le_rfl
  · rw [State.classQueue, State.tx_setTx]
    split
    · next he => rw [he]; exact (h (he ▸ hm)).2 k
    · exact le_rfl

theorem shrinks_setClassQueue {q : List QueueEntry} (h : s.view l = .unusable → q.length ≤ (s.classQueue l k).length) :
    Shrinks m s (s.setClassQueue l k q) :=
  shrinks_setTx rfl fun hu => ⟨le_rfl, fun j => by
    rw [Bank.look_put]
    split
    · next hj => rw [hj]; exact h hu
    · exact le_rfl⟩

theorem shrinks_setControl {q : List Nat} (h : s.view l = .unusable → q.length ≤ (s.tx l).control.length) :
    Shrinks m s (s.setControl l q) :=
  shrinks_setTx rfl fun hu => ⟨h hu, fun _ => le_rfl⟩

/-- No control cell is placed on a lane that is UNUSABLE (R61). -/
theorem preferred_usable {ls : List Lane} (h : s.preferred ls = some l) : s.view l ≠ .unusable := by
  intro hu
  unfold State.preferred at h
  split at h
  · next i hi =>
    obtain rfl := Option.some.inj h
    have := List.find?_some hi
    rw [hu] at this
    cases this
  · have := List.find?_some h
    rw [hu] at this
    cases this

theorem placement_usable (h : s.placement = some l) : s.view l ≠ .unusable := by
  unfold State.placement at h
  split at h
  · cases h
  · next i hi =>
    split at h
    · exact Option.some.inj h ▸ preferred_usable hi
    · cases h

theorem requeueLane_usable {n : StreamId} (h : s.requeueLane n = some l) : s.view l ≠ .unusable := by
  unfold State.requeueLane at h
  split at h
  · next hp =>
    have hplan : s.effectivePlan n ∈ [Plan.aThenB, .bThenA, .aThenBThenC] := by
      cases he : s.effectivePlan n <;> simp_all [Plan.isProtected]
    rw [evaluate_protected hplan, Option.head?_toList] at h
    exact preferred_usable h
  · cases h

theorem shrinks_closed (m : Lane) : HoldClosed (Shrinks m) where
  refl _ := shrinks_of_eq rfl
  trans := Shrinks.trans
  bfm _ _ := shrinks_of_eq rfl
  counter _ r _ := by cases r <;> exact shrinks_of_eq rfl
  source _ _ _ _ := shrinks_of_eq rfl
  floor _ _ _ := shrinks_of_eq rfl
  channel _ _ _ := shrinks_of_eq rfl
  joinPort _ _ _ _ _ := shrinks_of_eq rfl
  joinLane _ _ _ h := shrinks_setControl fun hu => absurd hu (placement_usable h)
  load _ _ _ := shrinks_setTx rfl fun _ => ⟨le_rfl, fun _ => le_rfl⟩
  record _ _ _ _ := shrinks_of_eq rfl
  further _ _ := shrinks_of_eq rfl
  suspend _ _ _ := shrinks_of_eq rfl
  flush _ _ _ := shrinks_setClassQueue fun _ => Nat.zero_le _
  subQueued _ _ := shrinks_of_eq rfl
  window _ _ _ := shrinks_of_eq rfl
  purge _ _ := shrinks_of_eq rfl

/-! ### An event of any source -/

/-- A relation that every update of a source keeps holds of a firing of any source. -/
theorem EventClosed.fireAny {R : State → State → Prop} (h : EventClosed R) (hs : ∀ s i x, R s (s.setSource i x)) (src : Source)
    (d : Detail) (s : State) : R s (Machine.fire src d s) := by
  rw [fire_unfold]
  unfold Machine.fireWith
  split
  · exact h.takeFiringWith (h.fireTo _) _ s
  · split
    · exact hs _ _ _
    · exact h.trans (hs _ _ _) (h.noticeRuleWith (h.fireTo _) src _)

/-! ### The requeue (R65, R66) -/

/-- What every relation keeps that the requeue's own moves keep. -/
structure RequeueClosed (R : State → State → Prop) : Prop extends HoldClosed R where
  pop : ∀ s l k e rest, s.classQueue l k = e :: rest → R s (s.setClassQueue l k rest)
  join : ∀ s n l k e, s.requeueLane n = some l → R s (s.setClassQueue l k (s.classQueue l k ++ [e]))
  clear : ∀ s l, R s (s.setControl l [])
  moved : ∀ s l ls q, s.controlLane ls = some l → R s (s.setControl l ((s.tx l).control ++ q))

namespace RequeueClosed

variable {R : State → State → Prop} (h : RequeueClosed R)

include h

theorem dropFlushed (l : Lane) (e : QueueEntry) (s : State) : R s (dropFlushed l e s) :=
  h.trans (h.subQueued _ _) (h.trans (h.count _ _) (h.dereference _ _))

theorem requeueEntry (l : Lane) (k : Fin 4) (e : QueueEntry) (s : State) : R s (requeueEntry l k e s) := by
  unfold Machine.requeueEntry
  split
  · split
    · exact h.dropFlushed l e s
    · next i hi =>
      dsimp only
      split
      · exact h.dropFlushed l e s
      · split
        · exact h.trans (h.join _ _ _ _ _ hi) (h.count _ _)
        · exact h.trans (h.subQueued _ _) (h.trans (h.count _ _) (h.dereference _ _))
  · exact h.trans (h.dropFlushed l e s) (h.raiseFault _ _ _)

theorem requeueClass (l : Lane) (k : Fin 4) (fuel : Nat) (s : State) : R s (requeueClass l k fuel s) := by
  induction fuel generalizing s with
  | zero => exact h.refl s
  | succ fuel ih =>
    unfold Machine.requeueClass
    split
    · exact h.refl s
    · next e rest he => exact h.trans (h.pop s l k e rest he) (h.trans (h.requeueEntry l k e _) (ih _))

theorem dropControl (l : Lane) (s : State) (b : Nat) : R s (dropControl l s b) := h.trans (h.count _ _) (h.dereference _ _)

theorem requeueControl (l : Lane) (s : State) : R s (requeueControl l s) := by
  unfold Machine.requeueControl
  dsimp only
  split
  · exact h.trans (h.clear s l) (h.foldl (h.dropControl l) _ _)
  · next i hi => exact h.trans (h.clear s l) (h.trans (h.moved _ _ _ _ hi) (h.foldl (h.dropControl l) _ _))

theorem protectionRequeue (l : Lane) (s : State) : R s (protectionRequeue l s) :=
  h.trans (h.foldl (fun s k => h.requeueClass l k _ s) _ s) (h.requeueControl l _)

end RequeueClosed

theorem shrinks_requeue (m : Lane) : RequeueClosed (Shrinks m) where
  toHoldClosed := shrinks_closed m
  pop _ _ _ _ _ h := shrinks_setClassQueue fun _ => by rw [h]; exact Nat.le_succ _
  join _ _ _ _ _ h := shrinks_setClassQueue fun hu => absurd hu (requeueLane_usable h)
  clear _ _ := shrinks_setControl fun _ => Nat.zero_le _
  moved _ _ _ _ h := shrinks_setControl fun hu => absurd hu (preferred_usable h)

/-- A class queue of a lane that is UNUSABLE is empty after its requeue. -/
theorem requeueClass_empties (fuel : Nat) (hu : s.view l = .unusable) (hf : (s.classQueue l k).length ≤ fuel) :
    (requeueClass l k fuel s).classQueue l k = [] := by
  induction fuel generalizing s with
  | zero => exact List.length_eq_zero_iff.1 (Nat.le_zero.1 hf)
  | succ fuel ih =>
    unfold requeueClass
    split
    · next he => exact he
    · next e rest he =>
      have hstep : Shrinks l (s.setClassQueue l k rest) (requeueEntry l k e (s.setClassQueue l k rest)) :=
        (shrinks_requeue l).requeueEntry l k e _
      have hpop : (s.setClassQueue l k rest).view l = .unusable := ((shrinks_requeue l).pop s l k e rest he).view l |>.trans hu
      refine ih ((hstep.view l).trans hpop) ((hstep.classes hpop k).trans ?_)
      rw [State.classQueue_setClassQueue_self]
      rw [he] at hf
      exact Nat.le_of_succ_le_succ hf

theorem shrinks_empty (h : Shrinks l s t) (hu : s.view l = .unusable) (he : s.classQueue l k = []) : t.classQueue l k = [] := by
  have := h.classes hu k
  rw [he] at this
  exact List.length_eq_zero_iff.1 (Nat.le_zero.1 this)

theorem requeueClasses_empty (ks : List (Fin 4)) (hu : s.view l = .unusable) :
    ∀ k ∈ ks, (ks.foldl (fun s k => requeueClass l k (s.classQueue l k).length s) s).classQueue l k = [] := by
  induction ks generalizing s with
  | nil => nofun
  | cons a ks ih =>
    intro k hk
    have hstep : Shrinks l s (requeueClass l a (s.classQueue l a).length s) := (shrinks_requeue l).requeueClass l a _ s
    have hview := (hstep.view l).trans hu
    rcases List.mem_cons.1 hk with rfl | hin
    · exact shrinks_empty ((shrinks_requeue l).foldl (fun s i => (shrinks_requeue l).requeueClass l i _ s) ks _) hview
        (requeueClass_empties _ hu le_rfl)
    · exact ih hview k hin

theorem requeueControl_empties (hu : s.view l = .unusable) : ((requeueControl l s).tx l).control = [] := by
  have hclear : (s.setControl l []).view l = .unusable := ((shrinks_requeue l).clear s l).view l |>.trans hu
  have hnil : ((s.setControl l []).tx l).control = [] := congrArg LaneTx.control (State.tx_setTx_self ..)
  have hstep : Shrinks l (s.setControl l []) (requeueControl l s) := by
    have hR := shrinks_requeue l
    unfold requeueControl
    dsimp only
    split
    · exact hR.foldl (hR.dropControl l) _ _
    · next i hi => exact hR.trans (hR.moved _ _ _ _ hi) (hR.foldl (hR.dropControl l) _ _)
  have := hstep.control hclear
  rw [hnil] at this
  exact List.length_eq_zero_iff.1 (Nat.le_zero.1 this)

/-- A lane that is UNUSABLE holds nothing after its protection requeue (R65, R66). -/
theorem protectionRequeue_empties (hu : s.view l = .unusable) :
    ((protectionRequeue l s).tx l).control = [] ∧ ∀ k, (protectionRequeue l s).classQueue l k = [] := by
  have hR := shrinks_requeue l
  have hview : (classes.foldl (fun s k => requeueClass l k (s.classQueue l k).length s) s).view l = .unusable :=
    ((hR.foldl (fun s k => hR.requeueClass l k _ s) classes s).view l).trans hu
  refine ⟨requeueControl_empties hview, fun k => ?_⟩
  have hk : k ∈ classes := by
    revert k
    decide
  exact shrinks_empty (hR.requeueControl l _) hview (requeueClasses_empty classes hu k hk)

end

end Sys2Proof.Machine
end

section
/-! PROOF SUPPORT. TXFAULT that makes a lane UNUSABLE: the views, the events, and the state in which the lane is requeued (R55, R56). -/

namespace Sys2Proof.Machine

open Safety

/-- The three views as R55 derives them. -/
def derivedViews (s : State) : PerLane View := { a := s.derivedView .a, b := s.derivedView .b, c := s.derivedView .c }

/-- The lanes whose views change, in their order, and those that become UNUSABLE (R56). -/
def changedLanes (s : State) : List Lane := lanes.filter (fun l => s.view l != (derivedViews s).get l)

def fallenLanes (s : State) : List Lane := (changedLanes s).filter (fun l => (derivedViews s).get l == .unusable)

section
variable {s t : State} {l m : Lane} {k : Fin 4}

theorem derivedViews_get (s : State) (l : Lane) : (derivedViews s).get l = s.derivedView l := by cases l <;> rfl

theorem mem_changedLanes : l ∈ changedLanes s ↔ s.view l ≠ s.derivedView l := by
  rw [changedLanes, List.mem_filter, derivedViews_get, bne_iff_ne]
  exact and_iff_right (by cases l <;> decide)

theorem mem_fallenLanes : l ∈ fallenLanes s ↔ s.view l ≠ s.derivedView l ∧ s.derivedView l = .unusable := by
  rw [fallenLanes, List.mem_filter, mem_changedLanes, derivedViews_get, beq_iff_eq]

theorem deriveViews_moves (h : s.view l ≠ s.derivedView l) : deriveViews s =
    recompute ((fallenLanes s).foldl (fun s l => protectionRequeue l s)
      ((changedLanes s).foldl (fun s l => fire (srcLaneView l) .none s) (s.setViews (derivedViews s)))) :=
  if_neg (List.ne_nil_of_mem (mem_changedLanes.2 h))

theorem view_setViews (s : State) (l : Lane) : (s.setViews (derivedViews s)).view l = s.derivedView l := by
  rw [State.view, tx_setViews]
  exact derivedViews_get s l

theorem fallen_empty (ls : List Lane) (hu : s.view l = .unusable) (hl : l ∈ ls) :
    ((ls.foldl (fun s l => protectionRequeue l s) s).tx l).control = [] ∧
      ∀ k, (ls.foldl (fun s l => protectionRequeue l s) s).classQueue l k = [] := by
  have hR := shrinks_requeue l
  induction ls generalizing s with
  | nil => cases hl
  | cons i ls ih =>
    have hstep : Shrinks l s (protectionRequeue i s) := hR.protectionRequeue i s
    have hview := (hstep.view l).trans hu
    rcases List.mem_cons.1 hl with rfl | hin
    · obtain ⟨hc, hk⟩ := protectionRequeue_empties hu
      have hrest : Shrinks l (protectionRequeue l s) _ := hR.foldl (fun s i => hR.protectionRequeue i s) ls _
      refine ⟨List.length_eq_zero_iff.1 (Nat.le_zero.1 ?_), fun k => shrinks_empty hrest hview (hk k)⟩
      have := hrest.control hview
      rwa [hc] at this
    · exact ih hview hin

/-- Every lane whose view falls ends with nothing queued (R56, R65, R66). -/
theorem deriveViews_empties (hv : s.view l ≠ .unusable) (hd : s.derivedView l = .unusable) :
    (deriveViews s).view l = .unusable ∧ ((deriveViews s).tx l).control = [] ∧ ∀ k, (deriveViews s).classQueue l k = [] := by
  have hR := shrinks_requeue l
  have hmoves : s.view l ≠ s.derivedView l := by rw [hd]; exact hv
  rw [deriveViews_moves hmoves]
  have hevents : Shrinks l (s.setViews (derivedViews s)) _ :=
    hR.foldl (fun s i => hR.fireAny (fun _ _ _ => shrinks_of_eq rfl) (srcLaneView i) .none s) (changedLanes s) _
  have hview := (hevents.view l).trans ((view_setViews s l).trans hd)
  generalize (changedLanes s).foldl (fun s l => fire (srcLaneView l) .none s) (s.setViews (derivedViews s)) = u at hview
  obtain ⟨hc, hk⟩ := fallen_empty (fallenLanes s) hview (mem_fallenLanes.2 ⟨hmoves, hd⟩)
  have hview' : ((fallenLanes s).foldl (fun s l => protectionRequeue l s) u).view l = .unusable :=
    ((hR.foldl (fun s i => hR.protectionRequeue i s) (fallenLanes s) u).view l).trans hview
  generalize (fallenLanes s).foldl (fun s l => protectionRequeue l s) u = w at hc hk hview'
  have hlast : Shrinks l w (recompute w) := hR.recompute w
  refine ⟨(hlast.view l).trans hview', List.length_eq_zero_iff.1 (Nat.le_zero.1 ?_), fun k => shrinks_empty hlast hview' (hk k)⟩
  have := hlast.control hview'
  rwa [hc] at this

/-! ### One lane falls, its event silent -/

/-- `w` is `s` with the view of lane `m` UNUSABLE and its event raised. -/
structure Fallen (m : Lane) (s w : State) : Prop where
  view : ∀ l, w.view l = if l = m then .unusable else s.view l
  control : ∀ l, (w.tx l).control = (s.tx l).control
  classes : ∀ l k, w.classQueue l k = s.classQueue l k
  bfm : w.bfm = s.bfm
  stb : w.stb = s.stb
  cnt : w.cnt = s.cnt
  mga : w.mga = s.mga
  psc : w.psc = s.psc
  flag : (w.source (srcLaneView m)).flag = true
  others : ∀ i, i ≠ srcLaneView m → w.source i = s.source i
  silent : Silent s srcOvercommit → Silent w srcOvercommit

theorem filter_lane (m : Lane) : lanes.filter (fun l => decide (l = m)) = [m] := by cases m <;> rfl

theorem changedLanes_one (hv : s.view m ≠ s.derivedView m) (ho : ∀ l, l ≠ m → s.derivedView l = s.view l) : changedLanes s = [m] := by
  have hpred : ∀ l ∈ lanes, (s.view l != (derivedViews s).get l) = decide (l = m) := fun l _ => by
    rw [derivedViews_get]
    by_cases h : l = m
    · subst h
      simpa using hv
    · simpa [h] using (ho l h).symm
  rw [changedLanes, List.filter_congr hpred, filter_lane]

theorem fallenLanes_one (hv : s.view m ≠ s.derivedView m) (hd : s.derivedView m = .unusable)
    (ho : ∀ l, l ≠ m → s.derivedView l = s.view l) : fallenLanes s = [m] := by
  rw [fallenLanes, changedLanes_one hv ho, List.filter_cons, derivedViews_get, hd]
  rfl

theorem control_setViews (s : State) (l : Lane) : ((s.setViews (derivedViews s)).tx l).control = (s.tx l).control := by
  rw [tx_setViews]

theorem classQueue_setViews (s : State) (l : Lane) (k : Fin 4) : (s.setViews (derivedViews s)).classQueue l k = s.classQueue l k := by
  rw [State.classQueue, tx_setViews]
  rfl

theorem deriveViews_falls (hv : s.view m ≠ .unusable) (hd : s.derivedView m = .unusable)
    (ho : ∀ l, l ≠ m → s.derivedView l = s.view l) (hs : Silent s (srcLaneView m)) :
    ∃ w, Fallen m s w ∧ deriveViews s = recompute (protectionRequeue m w) := by
  have hmoves : s.view m ≠ s.derivedView m := by rw [hd]; exact hv
  have hflags : OnlyFlags (fun i => i = srcLaneView m) (s.setViews (derivedViews s))
      (flagged (srcLaneView m) (s.setViews (derivedViews s))) :=
    flagged_flags (named := fun i => i = srcLaneView m) rfl _
  have htx (l : Lane) : (flagged (srcLaneView m) (s.setViews (derivedViews s))).tx l = (s.setViews (derivedViews s)).tx l := by
    rw [flagged, flaggedAs_eq]
    rfl
  refine ⟨flagged (srcLaneView m) (s.setViews (derivedViews s)), ?_, ?_⟩
  · refine ⟨fun l => ?_, fun l => ?_, fun l k => ?_, hflags.bfm, hflags.stb, hflags.cnt, hflags.mga, hflags.psc, ?_,
      fun i hi => hflags.others i hi, fun h => hflags.silent (silent_congr h rfl)⟩
    · rw [State.view, htx]
      refine (view_setViews s l).trans ?_
      split
      · next h => rw [h, hd]
      · next h => exact ho l h
    · rw [htx]
      exact control_setViews s l
    · rw [State.classQueue, htx]
      exact classQueue_setViews s l k
    · rw [source_flagged_self]
      split
      · next h => exact h
      · rfl
  · rw [deriveViews_moves hmoves, changedLanes_one hmoves ho, fallenLanes_one hmoves hd ho]
    show recompute (protectionRequeue m (fire (srcLaneView m) .none (s.setViews (derivedViews s)))) = _
    have hquiet : Silent (s.setViews (derivedViews s)) (srcLaneView m) := silent_congr hs rfl
    rw [fire_flagged hquiet]

/-! ### The input of an optical lane -/

/-- The lane of an optical lane's input. -/
def opticalLane : OpticalLane → Lane
  | .a => .a
  | .b => .b

variable {o : OpticalLane}

theorem derivedView_txfault : (s.setPins (s.pins.withTxfault o true)).derivedView (opticalLane o) = .unusable := by
  cases o <;> rfl

theorem derivedView_txfault_ne (h : l ≠ opticalLane o) :
    (s.setPins (s.pins.withTxfault o true)).derivedView l = s.derivedView l := by
  cases o <;> cases l
  case a.a | b.b => exact absurd rfl h
  all_goals rfl

/-- What of the lane view events a requeue and a recomputation leave. -/
def KeepsViewEvents (s t : State) : Prop := ∀ l, t.source (srcLaneView l) = s.source (srcLaneView l)

theorem keepsViewEvents_of_eq (h : t.evu.sources = s.evu.sources) : KeepsViewEvents s t := fun l => by
  rw [State.source, h]
  rfl

theorem secondary_ne_laneView {i : Source} (h : Secondary i) (l : Lane) : srcLaneView l ≠ i := by
  cases h with
  | exportDone ch =>
    intro he
    have hv := congrArg Fin.val he
    have hle : (srcLaneView l).val ≤ 6 := by cases l <;> decide
    have hge : 17 ≤ (srcExportDone ch).val := Nat.le_add_right 17 ch.val
    omega
  | counterHalf | undeliverable | bufferLow | fault | overcommit | mgmtError => cases l <;> decide

theorem keepsViewEvents_requeue : RequeueClosed KeepsViewEvents where
  refl _ := keepsViewEvents_of_eq rfl
  trans h k l := (k l).trans (h l)
  bfm _ _ := keepsViewEvents_of_eq rfl
  counter _ r _ := by cases r <;> exact keepsViewEvents_of_eq rfl
  source s i x hi l := by
    rw [State.source_setSource, if_neg (secondary_ne_laneView hi l)]
  floor _ _ _ := keepsViewEvents_of_eq rfl
  channel _ _ _ := keepsViewEvents_of_eq rfl
  joinPort _ _ _ _ _ := keepsViewEvents_of_eq rfl
  joinLane _ _ _ _ := keepsViewEvents_of_eq rfl
  load _ _ _ := keepsViewEvents_of_eq rfl
  record _ _ _ _ := keepsViewEvents_of_eq rfl
  further _ _ := keepsViewEvents_of_eq rfl
  suspend _ _ _ := keepsViewEvents_of_eq rfl
  flush _ _ _ := keepsViewEvents_of_eq rfl
  subQueued _ _ := keepsViewEvents_of_eq rfl
  window _ _ _ := keepsViewEvents_of_eq rfl
  purge _ _ := keepsViewEvents_of_eq rfl
  pop _ _ _ _ _ _ := keepsViewEvents_of_eq rfl
  join _ _ _ _ _ _ := keepsViewEvents_of_eq rfl
  clear _ _ := keepsViewEvents_of_eq rfl
  moved _ _ _ _ _ := keepsViewEvents_of_eq rfl

/-- The views and the view events after the fall. -/
theorem fallen_views {w : State} (hw : Fallen m s w) :
    (∀ l, (recompute (protectionRequeue m w)).view l = if l = m then .unusable else s.view l) ∧
      ((recompute (protectionRequeue m w)).source (srcLaneView m)).flag = true ∧
      ∀ l, l ≠ m → (recompute (protectionRequeue m w)).source (srcLaneView l) = s.source (srcLaneView l) := by
  have hR := shrinks_requeue m
  have hE := keepsViewEvents_requeue
  have hshrinks : Shrinks m w (recompute (protectionRequeue m w)) := hR.trans (hR.protectionRequeue m w) (hR.recompute _)
  have hevents : KeepsViewEvents w (recompute (protectionRequeue m w)) := hE.trans (hE.protectionRequeue m w) (hE.recompute _)
  refine ⟨fun l => (hshrinks.view l).trans (hw.view l), ?_, fun l hl => (hevents l).trans (hw.others _ ?_)⟩
  · rw [hevents m]
    exact hw.flag
  · cases l <;> cases m
    case a.a | b.b | c.c => exact absurd rfl hl
    all_goals decide

end

end Sys2Proof.Machine
end

section
/-! PROOF SUPPORT. The class queue of a lane that fell: entries that move to another lane, and an entry that is dropped (R65). -/

namespace Sys2Proof.Machine

open Safety

section
variable {s t u : State} {l m j : Lane} {k : Fin 4} {n : StreamId} {e : QueueEntry} {es : List QueueEntry} {r : CounterRef}

/-! ### The lane that a queued cell moves to (R65, step 2) -/

theorem isProtected_iff {p : Plan} : p.isProtected = true ↔ p ∈ [Plan.aThenB, .bThenA, .aThenBThenC] := by
  cases p <;> simp [Plan.isProtected]

theorem requeueLane_firstOf (hp : s.effectivePlan n ∈ [Plan.aThenB, .bThenA, .aThenBThenC])
    (hj : FirstOf s.view (planNames (s.effectivePlan n)) j) : s.requeueLane n = some j := by
  rw [State.requeueLane, if_pos (isProtected_iff.2 hp), evaluate_protected hp, preferred_of_firstOf hj]
  rfl

theorem requeueLane_unprotected (hp : s.effectivePlan n ∉ [Plan.aThenB, .bThenA, .aThenBThenC]) : s.requeueLane n = none :=
  if_neg (mt isProtected_iff.1 hp)

theorem requeueLane_unusable (hu : ∀ l ∈ planNames (s.effectivePlan n), s.view l = .unusable) : s.requeueLane n = none := by
  by_cases hp : s.effectivePlan n ∈ [Plan.aThenB, .bThenA, .aThenBThenC]
  · rw [State.requeueLane, if_pos (isProtected_iff.2 hp), evaluate_protected hp, preferred_none hu]
    rfl
  · exact requeueLane_unprotected hp

theorem requeueLane_congr (hv : t.view = s.view) (hb : t.stb = s.stb) (hp : t.psc = s.psc) : t.requeueLane n = s.requeueLane n := by
  have hplan : t.effectivePlan n = s.effectivePlan n := by simp only [State.effectivePlan, State.entry, hb, hp]
  rw [State.requeueLane, State.requeueLane, hplan, evaluate_congr hv]

/-! ### Entries that move, one after the other -/

/-- `t` is `u` with the entries `es` of class `k` moved from lane `m` to the tail of lane `j`. -/
structure Requeued (m j : Lane) (k : Fin 4) (es : List QueueEntry) (u t : State) : Prop where
  frame : t = { u with ltx := t.ltx, cnt := t.cnt }
  view : t.view = u.view
  control : ∀ l, (t.tx l).control = (u.tx l).control
  classes : ∀ l i, t.classQueue l i =
    if l = m ∧ i = k then [] else if l = j ∧ i = k then u.classQueue j k ++ es else u.classQueue l i
  counted : Counted u t (.lane m LaneCounter.txRequeue.id) es.length
  others : ∀ r, r ≠ .lane m LaneCounter.txRequeue.id → t.counter r = u.counter r

/-- The state after the head of the class queue moved. -/
def entryMoved (m j : Lane) (k : Fin 4) (e : QueueEntry) (rest : List QueueEntry) (u : State) : State :=
  bump (.lane m LaneCounter.txRequeue.id) ((u.setClassQueue m k rest).setClassQueue j k (u.classQueue j k ++ [e]))

theorem view_setClassQueue (s : State) (l : Lane) (k : Fin 4) (q : List QueueEntry) : (s.setClassQueue l k q).view = s.view := by
  funext i
  simp only [State.view, State.setClassQueue, State.tx_setTx]
  split
  · next h => rw [h]
  · rfl

theorem control_setClassQueue (s : State) (l i : Lane) (k : Fin 4) (q : List QueueEntry) :
    ((s.setClassQueue l k q).tx i).control = (s.tx i).control := by
  simp only [State.setClassQueue, State.tx_setTx]
  split
  · next h => rw [h]
  · rfl

theorem view_entryMoved (rest : List QueueEntry) : (entryMoved m j k e rest u).view = u.view :=
  (view_setClassQueue _ _ _ _).trans (view_setClassQueue _ _ _ _)

theorem control_entryMoved (rest : List QueueEntry) (l : Lane) : ((entryMoved m j k e rest u).tx l).control = (u.tx l).control :=
  (control_setClassQueue _ _ _ _ _).trans (control_setClassQueue _ _ _ _ _)

theorem classQueue_entryMoved (hj : j ≠ m) (rest : List QueueEntry) (l : Lane) (i : Fin 4) :
    (entryMoved m j k e rest u).classQueue l i =
      if l = m ∧ i = k then rest else if l = j ∧ i = k then u.classQueue j k ++ [e] else u.classQueue l i := by
  have hmoved : (entryMoved m j k e rest u).classQueue l i =
      ((u.setClassQueue m k rest).setClassQueue j k (u.classQueue j k ++ [e])).classQueue l i := rfl
  rw [hmoved, State.classQueue_setClassQueue, State.classQueue_setClassQueue]
  by_cases hl : l = j ∧ i = k
  · rw [if_pos hl, if_neg fun h => hj (hl.1.symm.trans h.1), if_pos hl]
  · rw [if_neg hl, if_neg hl]

/-- The head of a class queue moves when its plan yields a lane that holds no copy and has room (R65). -/
theorem requeueEntry_moves {rest : List QueueEntry} (hj : j ≠ m) (ha : (u.entry e.stream).checkAgrees = true)
    (hl : u.requeueLane e.stream = some j) (hd : ∀ x ∈ u.classQueue j k, x.buffer ≠ e.buffer)
    (hroom : (u.classQueue j k).length < classDepth j) (hc : Below u (.lane m LaneCounter.txRequeue.id) 1) :
    requeueEntry m k e (u.setClassQueue m k rest) = entryMoved m j k e rest u := by
  have hlane : (u.setClassQueue m k rest).requeueLane e.stream = some j :=
    (requeueLane_congr (view_setClassQueue _ _ _ _) rfl rfl).trans hl
  have hqueue : (u.setClassQueue m k rest).classQueue j k = u.classQueue j k := by
    rw [State.classQueue_setClassQueue, if_neg fun h => hj h.1]
  have hcopy : (u.classQueue j k).any (fun x => x.buffer == e.buffer) = false := by simpa using hd
  rw [requeueEntry, if_pos (by exact ha), hlane]
  dsimp only
  rw [hqueue, hcopy, if_neg Bool.false_ne_true, if_pos hroom]
  exact count_bump (by exact calm_of_below hc le_rfl)

/-- The entries of a class queue that all find their lane with room and no copies move in their order. -/
theorem requeueClass_moves (hj : ∀ e ∈ es, j ≠ m) (hq : u.classQueue m k = es) (ha : TableAgrees u)
    (hl : ∀ e ∈ es, u.requeueLane e.stream = some j) (hnodup : (es.map (·.buffer)).Nodup)
    (hd : ∀ e ∈ es, ∀ x ∈ u.classQueue j k, x.buffer ≠ e.buffer) (hroom : (u.classQueue j k).length + es.length ≤ classDepth j)
    (hc : Below u (.lane m LaneCounter.txRequeue.id) es.length) : Requeued m j k es u (requeueClass m k es.length u) := by
  induction es generalizing u with
  | nil =>
    refine ⟨rfl, rfl, fun _ => rfl, fun l i => ?_, counted_refl u _, fun _ _ => rfl⟩
    rw [List.length_nil, requeueClass, List.append_nil]
    split
    · next h => rw [h.1, h.2, hq]
    · split
      · next h => rw [h.1, h.2]
      · rfl
  | cons e rest ih =>
    have hjm : j ≠ m := hj e List.mem_cons_self
    obtain ⟨hfresh, hnodup⟩ := List.nodup_cons.1 hnodup
    have hc1 : Below u (.lane m LaneCounter.txRequeue.id) 1 := below_mono hc (by simp)
    have hmove := requeueEntry_moves (k := k) (rest := rest) hjm (ha e.stream) (hl e (by simp)) (hd e (by simp))
      (by rw [List.length_cons] at hroom; omega) hc1
    have hqueue := classQueue_entryMoved (k := k) (e := e) (u := u) hjm rest
    have htail : (entryMoved m j k e rest u).classQueue j k = u.classQueue j k ++ [e] := by
      rw [hqueue, if_neg fun h => hjm h.1, if_pos ⟨rfl, rfl⟩]
    have hcount : Counted u (entryMoved m j k e rest u) (.lane m LaneCounter.txRequeue.id) 1 :=
      counted_bump (s := u) (t := (u.setClassQueue m k rest).setClassQueue j k (u.classQueue j k ++ [e])) (counted_congr (counted_refl u _) rfl) hc1
    have hrest : Requeued m j k rest (entryMoved m j k e rest u) (requeueClass m k rest.length (entryMoved m j k e rest u)) := by
      refine ih (fun x hx => hj x (List.mem_cons_of_mem _ hx)) ((hqueue m k).trans (if_pos ⟨rfl, rfl⟩)) (by exact ha)
        (fun x hx => (requeueLane_congr (view_entryMoved rest) rfl rfl).trans (hl x (List.mem_cons_of_mem _ hx))) hnodup
        (fun x hx y hy => ?_) ?_ (below_counted hcount (by rw [Nat.add_comm]; exact hc))
      · rw [htail, List.mem_append, List.mem_singleton] at hy
        rcases hy with hy | rfl
        · exact hd x (List.mem_cons_of_mem _ hx) y hy
        · exact fun h => hfresh (List.mem_map.2 ⟨x, hx, h.symm⟩)
      · rw [htail, List.length_append, List.length_singleton]
        rw [List.length_cons] at hroom
        omega
    rw [List.length_cons, requeueClass, hq]
    dsimp only
    rw [hmove]
    refine ⟨hrest.frame, hrest.view.trans (view_entryMoved rest), fun l => (hrest.control l).trans (control_entryMoved rest l),
      fun l i => ?_, ?_, fun r hr => (hrest.others r hr).trans ((counter_bump ..).trans (if_neg hr))⟩
    · rw [hrest.classes, htail, hqueue]
      split
      · rfl
      · split
        · rw [List.append_assoc, List.singleton_append]
        · rfl
    · rw [List.length_cons, Nat.add_comm]
      exact counted_trans hcount hrest.counted

/-! ### An entry that is dropped -/

/-- `t` is `u`, its entry `e` let go and counted in `r`. -/
structure EntryDropped (r : CounterRef) (e : QueueEntry) (u t : State) : Prop where
  counted : Counted u t r 1
  refs : (t.buffer e.buffer).refs = (u.buffer e.buffer).refs - 1
  free : t.bfm.free = u.bfm.free ++ (if (u.buffer e.buffer).refs = 1 then [e.buffer] else [])
  queued : (t.run e.stream).queued = (u.run e.stream).queued - 1
  entries : t.stb.entries = u.stb.entries
  ltx : t.ltx = u.ltx
  evu : t.evu = u.evu

/-- A reference let go: the last one frees the buffer (R10). -/
theorem dereference_refs {b : Nat} (h : 1 ≤ (s.buffer b).refs) : dereference b s = s.setBfm
    { free := s.bfm.free ++ (if (s.buffer b).refs = 1 then [b] else [])
      freeCount := s.bfm.freeCount + (if (s.buffer b).refs = 1 then 1 else 0)
      pool := Pool.write s.bfm.pool b { s.buffer b with refs := (s.buffer b).refs - 1 } } := by
  obtain ⟨i, hi⟩ : ∃ i, (s.buffer b).refs = i + 1 := ⟨_, (Nat.succ_pred_eq_of_pos h).symm⟩
  cases i with
  | zero =>
    rw [dereference_returned hi, hi]
    rfl
  | succ i =>
    rw [dereference_shared hi, hi, if_neg (by omega), if_neg (by omega), List.append_nil]
    rfl

/-- What both kinds of drop do (R65, step 3). -/
theorem entryDropped (hr : 1 ≤ (u.buffer e.buffer).refs) (hw : PoolCanonical u) (hc : Below u r 1) :
    EntryDropped r e u (dereference e.buffer (count r (u.subQueued e.stream))) := by
  have hcounter : (u.subQueued e.stream).counter r = u.counter r := by cases r <;> rfl
  have hcount : count r (u.subQueued e.stream) = bump r (u.subQueued e.stream) :=
    count_bump (by rw [hcounter]; exact calm_of_below hc le_rfl)
  have hone : Counted u (bump r (u.subQueued e.stream)) r 1 := counted_bump (counted_congr (counted_refl u r) hcounter) hc
  have hqueued : ((u.subQueued e.stream).run e.stream).queued = (u.run e.stream).queued - 1 := by
    rw [State.run_subQueued, if_pos rfl]
  rw [bump_eq] at hone hcount
  rw [hcount, dereference_refs (by exact hr)]
  refine ⟨counted_congr hone (by cases r <;> rfl), ?_, rfl, hqueued, rfl, rfl, rfl⟩
  exact congrArg Buffer.refs ((Pool.read_write hw _ _ _).trans (if_pos rfl))

/-- An entry whose plan yields no lane is dropped as a flushed cell. -/
theorem requeueEntry_noLane (ha : (u.entry e.stream).checkAgrees = true) (hl : u.requeueLane e.stream = none) :
    requeueEntry m k e u = dropFlushed m e u := by
  rw [requeueEntry, if_pos ha, hl]

/-- An entry whose lane holds a copy already is dropped as a flushed cell. -/
theorem requeueEntry_copied (ha : (u.entry e.stream).checkAgrees = true) (hl : u.requeueLane e.stream = some j)
    (hd : ∃ x ∈ u.classQueue j k, x.buffer = e.buffer) : requeueEntry m k e u = dropFlushed m e u := by
  have hcopy : (u.classQueue j k).any (fun x => x.buffer == e.buffer) = true := by simpa using hd
  rw [requeueEntry, if_pos ha, hl]
  dsimp only
  rw [if_pos hcopy]

/-- An entry whose lane is full is dropped at that queue. -/
theorem requeueEntry_full (ha : (u.entry e.stream).checkAgrees = true) (hl : u.requeueLane e.stream = some j)
    (hd : ∀ x ∈ u.classQueue j k, x.buffer ≠ e.buffer) (hfull : classDepth j ≤ (u.classQueue j k).length) :
    requeueEntry m k e u = dereference e.buffer (count (.stream e.stream StreamCounter.queueDrop.id) (u.subQueued e.stream)) := by
  have hcopy : (u.classQueue j k).any (fun x => x.buffer == e.buffer) = false := by simpa using hd
  rw [requeueEntry, if_pos ha, hl]
  dsimp only
  rw [hcopy, if_neg Bool.false_ne_true, if_neg (Nat.not_lt.2 hfull)]
  rfl

/-! ### The requeue of a lane that holds one class only -/

theorem requeueControl_nil (h : (u.tx m).control = []) : requeueControl m u = u := by
  rw [requeueControl]
  dsimp only
  rw [h, setControl_self h]
  split
  · rfl
  · rw [List.take_nil, List.append_nil, setControl_self rfl]
    simp

theorem requeueClasses_idle {ks : List (Fin 4)} (h : ∀ i ∈ ks, u.classQueue m i = []) :
    ks.foldl (fun s i => requeueClass m i (s.classQueue m i).length s) u = u := by
  induction ks with
  | nil => rfl
  | cons i ks ih =>
    rw [List.foldl_cons, requeueClass_nil _ (h i List.mem_cons_self)]
    exact ih fun x hx => h x (List.mem_cons_of_mem _ hx)

/-- The requeue of a lane that holds one class only is the requeue of that class. -/
theorem protectionRequeue_class (ho : ∀ i, i ≠ k → u.classQueue m i = [])
    (ht : ∀ i, i ≠ k → (requeueClass m k (u.classQueue m k).length u).classQueue m i = [])
    (hc : ((requeueClass m k (u.classQueue m k).length u).tx m).control = []) :
    protectionRequeue m u = requeueClass m k (u.classQueue m k).length u := by
  have hmem : ∀ i, i ∈ classes := by decide
  obtain ⟨before, after, hsplit⟩ := List.append_of_mem (hmem k)
  have hnodup : (before ++ k :: after).Nodup := hsplit ▸ (by decide : classes.Nodup)
  rw [List.nodup_middle, List.nodup_cons, List.mem_append, not_or] at hnodup
  obtain ⟨⟨hbefore, hafter⟩, -⟩ := hnodup
  rw [protectionRequeue, hsplit, List.foldl_append, List.foldl_cons,
    requeueClasses_idle fun i hi => ho i fun h => hbefore (h ▸ hi), requeueClasses_idle fun i hi => ht i fun h => hafter (h ▸ hi),
    requeueControl_nil hc]

end

end Sys2Proof.Machine
end

section
/-! PROOF SUPPORT. The control queue of a lane that fell (R66), and the requeue of each queue as the fall leaves it (R56, R65, R66). -/

namespace Sys2Proof.Machine

open Safety

section
variable {s t u v w : State} {m j : Lane} {k : Fin 4} {e : QueueEntry} {es : List QueueEntry} {r : CounterRef} {b : Nat} {q : List Nat}

/-! ### Control entries that find no place (R66) -/

/-- `t` is `v` with the control cells in the buffers `q` of lane `m` dropped. -/
structure ControlDropped (m : Lane) (q : List Nat) (v t : State) : Prop where
  frame : t = { v with bfm := t.bfm, cnt := t.cnt }
  free : t.bfm.free = v.bfm.free ++ q
  zero : ∀ b ∈ q, (t.buffer b).refs = 0
  kept : ∀ b, b ∉ q → t.buffer b = v.buffer b
  wf : PoolCanonical t
  counted : Counted v t (.lane m LaneCounter.txFlush.id) q.length

theorem dropControl_drops (hb : (v.buffer b).refs = 1) (hw : PoolCanonical v) (hc : Below v (.lane m LaneCounter.txFlush.id) 1) :
    ControlDropped m [b] v (dropControl m v b) := by
  have hdrop : dropControl m v b = returned b (bump (.lane m LaneCounter.txFlush.id) v) := by
    rw [dropControl, countLane, count_bump (calm_of_below hc le_rfl), dereference_returned (by exact hb)]
  rw [hdrop]
  refine ⟨rfl, rfl, fun x hx => ?_, fun x hx => ?_, Pool.wf_write hw _ _, ?_⟩
  · rw [List.mem_singleton.1 hx]
    exact refs_returned_self (by exact hw)
  · exact buffer_returned_ne (fun he => hx (List.mem_singleton.2 he)) _
  · exact counted_congr (counted_bump (counted_refl v _) hc) rfl

theorem foldl_dropControl (hb : ∀ b ∈ q, (v.buffer b).refs = 1) (hn : q.Nodup) (hw : PoolCanonical v)
    (hc : Below v (.lane m LaneCounter.txFlush.id) q.length) : ControlDropped m q v (q.foldl (dropControl m) v) := by
  induction q generalizing v with
  | nil => exact ⟨rfl, (List.append_nil _).symm, nofun, fun _ _ => rfl, hw, counted_refl v _⟩
  | cons b q ih =>
    obtain ⟨hfresh, hn⟩ := List.nodup_cons.1 hn
    rw [List.length_cons, Nat.add_comm] at hc
    have hone := dropControl_drops (m := m) (hb b List.mem_cons_self) hw (below_mono hc (by omega))
    have hrest := ih (v := dropControl m v b) (fun x hx => by
      rw [hone.kept x fun h => hfresh (List.mem_singleton.1 h ▸ hx)]
      exact hb x (List.mem_cons_of_mem _ hx)) hn hone.wf (below_counted hone.counted hc)
    rw [List.foldl_cons]
    generalize dropControl m v b = u at hone hrest
    refine ⟨by rw [hrest.frame, hone.frame], by rw [hrest.free, hone.free, List.append_assoc]; rfl, fun x hx => ?_, fun x hx => ?_,
      hrest.wf, ?_⟩
    · by_cases hin : x ∈ q
      · exact hrest.zero x hin
      · rw [hrest.kept x hin]
        exact hone.zero x (List.mem_singleton.2 ((List.mem_cons.1 hx).resolve_right hin))
    · rw [List.mem_cons, not_or] at hx
      exact (hrest.kept x hx.2).trans (hone.kept x fun h => hx.1 (List.mem_singleton.1 h))
    · rw [List.length_cons, Nat.add_comm]
      exact counted_trans hone.counted hrest.counted

/-! ### The control queue moved (R61, R66) -/

theorem tx_setControl_ne (h : j ≠ m) (q : List Nat) : (s.setControl m q).tx j = s.tx j :=
  (State.tx_setTx ..).trans (if_neg h)

theorem view_setControl (s : State) (m : Lane) (q : List Nat) : (s.setControl m q).view = s.view := by
  funext i
  simp only [State.view, State.setControl, State.tx_setTx]
  split
  · next h => rw [h]
  · rfl

theorem preferred_congr (h : t.view = s.view) : t.preferred = s.preferred := by
  unfold State.preferred
  rw [h]

theorem requeueControl_moves (hj : j ≠ m) (hq : (u.tx m).control = q) (hl : u.preferred (lanes.filter (fun i => i != m)) = some j) :
    requeueControl m u = (q.drop (8 - (u.tx j).control.length)).foldl (dropControl m)
      ((u.setControl m []).setControl j ((u.tx j).control ++ q.take (8 - (u.tx j).control.length))) := by
  have hlane : (u.setControl m []).controlLane (lanes.filter (fun i => i != m)) = some j := by
    rw [State.controlLane, preferred_congr (view_setControl u m [])]
    exact hl
  rw [requeueControl]
  dsimp only
  rw [hlane, hq]
  dsimp only
  rw [tx_setControl_ne hj]
  rfl

theorem requeueControl_flushes (hq : (u.tx m).control = q) (hl : u.preferred (lanes.filter (fun i => i != m)) = none) :
    requeueControl m u = q.foldl (dropControl m) (u.setControl m []) := by
  have hlane : (u.setControl m []).controlLane (lanes.filter (fun i => i != m)) = none := by
    rw [State.controlLane, preferred_congr (view_setControl u m [])]
    exact hl
  rw [requeueControl]
  dsimp only
  rw [hlane, hq]

theorem firstOf_usable {f : Lane → View} {order : List Lane} (h : FirstOf f order j) : f j ≠ .unusable := by
  rcases h with ⟨_, _, _, hj, _⟩ | ⟨_, _, _, _, hj, _⟩ <;> rw [hj] <;> decide

/-! ### After the fall -/

namespace Fallen

variable (h : Fallen m s w)

include h

theorem views : w.view = fun l => if l = m then .unusable else s.view l := funext h.view

theorem plan (n : StreamId) : w.effectivePlan n = (s.entry n).plan.get s.psc.effective := by
  rw [State.effectivePlan, State.entry, h.stb, h.psc]
  rfl

theorem agrees (ha : TableAgrees s) : TableAgrees w := fun n => by
  rw [State.entry, h.stb]
  exact ha n

theorem buffer (b : Nat) : w.buffer b = s.buffer b := by
  rw [State.buffer, h.bfm]
  rfl

theorem counter (r : CounterRef) : w.counter r = s.counter r := by
  rw [counter_eq, counter_eq, h.cnt]

theorem canonical (hw : PoolCanonical s) : PoolCanonical w := by
  rw [PoolCanonical, h.bfm]
  exact hw

/-- The recomputation after the requeue raises nothing but the flag of OVERCOMMIT. -/
theorem recompute (ha : TableAgrees s) (hs : Silent s srcOvercommit) (he : t.stb.entries = w.stb.entries) (hv : t.evu = w.evu) :
    OnlyFlags (fun i => i = srcOvercommit) t (Machine.recompute t) :=
  recompute_flags (named := fun i => i = srcOvercommit) rfl (silent_congr (h.silent hs) hv) fun n => by
    rw [State.entry, he]
    exact h.agrees ha n

/-- Entries of protected plans move, in order, each counted (R65). -/
theorem moves (ha : TableAgrees s) (hs : Silent s srcOvercommit) (hc : (s.tx m).control = [])
    (ho : ∀ i, i ≠ k → s.classQueue m i = []) (hq : s.classQueue m k = es) (hfar : Below s (.lane m LaneCounter.txRequeue.id) 8192)
    (hp : ∀ e ∈ es, (s.entry e.stream).plan.get s.psc.effective ∈ [Plan.aThenB, .bThenA, .aThenBThenC] ∧
      FirstOf (fun l => if l = m then .unusable else s.view l) (planNames ((s.entry e.stream).plan.get s.psc.effective)) j)
    (hn : (es.map (·.buffer)).Nodup) (hd : ∀ e ∈ es, ∀ x ∈ s.classQueue j k, x.buffer ≠ e.buffer)
    (hroom : (s.classQueue j k).length + es.length ≤ classDepth j) :
    ∃ t, Machine.recompute (protectionRequeue m w) = t ∧
      (∀ l i, t.classQueue l i =
        if l = m then [] else if l = j ∧ i = k then s.classQueue j k ++ es else s.classQueue l i) ∧
      Counted s t (.lane m LaneCounter.txRequeue.id) es.length ∧
      t.counter (.lane m LaneCounter.txFlush.id) = s.counter (.lane m LaneCounter.txFlush.id) ∧
      (∀ n, t.run n = s.run n) ∧ t.bfm = s.bfm := by
  have hqueue : w.classQueue m k = es := (h.classes m k).trans hq
  have hdepth : classDepth j ≤ 1024 := by cases j <;> decide
  have hmoved : Requeued m j k es w (requeueClass m k es.length w) := by
    refine requeueClass_moves (fun e he hjm => firstOf_usable (hp e he).2 (if_pos hjm)) hqueue (h.agrees ha) (fun e he => ?_) hn
      (fun e he => ?_) ?_ (below_congr (below_mono hfar (by omega)) (h.counter _))
    · exact requeueLane_firstOf (by rw [h.plan]; exact (hp e he).1) (by rw [h.plan, h.views]; exact (hp e he).2)
    · rw [h.classes]
      exact hd e he
    · rw [h.classes]
      exact hroom
  have hclass (l : Lane) (i : Fin 4) : (requeueClass m k es.length w).classQueue l i =
      if l = m then [] else if l = j ∧ i = k then s.classQueue j k ++ es else s.classQueue l i := by
    rw [hmoved.classes, h.classes, h.classes]
    by_cases hl : l = m
    · rw [if_pos hl]
      by_cases hi : i = k
      · rw [if_pos ⟨hl, hi⟩]
      · rw [if_neg fun x => hi x.2, if_neg fun x => hi x.2, hl, ho i hi]
    · rw [if_neg hl, if_neg fun x => hl x.1]
  have hrequeue : protectionRequeue m w = requeueClass m k es.length w := by
    rw [← hqueue]
    refine protectionRequeue_class (fun i hi => (h.classes m i).trans (ho i hi)) (fun i _ => ?_) ?_
    · rw [hqueue, hclass, if_pos rfl]
    · rw [hqueue, hmoved.control, h.control, hc]
  rw [hrequeue]
  generalize requeueClass m k es.length w = t at hmoved hclass
  have hstb : t.stb = w.stb := by rw [hmoved.frame]
  have hbfm : t.bfm = w.bfm := by rw [hmoved.frame]
  have hlast := h.recompute ha hs (t := t) (by rw [hstb]) (by rw [hmoved.frame])
  have hcounter (r : CounterRef) : (Machine.recompute t).counter r = t.counter r := by rw [counter_eq, counter_eq, hlast.cnt]
  refine ⟨_, rfl, fun l i => (hlast.classQueue l i).trans (hclass l i), ?_, ?_, fun n => ?_, hlast.bfm.trans (hbfm.trans h.bfm)⟩
  · exact counted_since (counted_congr hmoved.counted (hcounter _)) (h.counter _)
  · exact (hcounter _).trans ((hmoved.others _ fun he => absurd (CounterRef.lane.inj he).2 (by decide)).trans (h.counter _))
  · rw [State.run, hlast.stb, hstb, h.stb]
    rfl

/-- A lone entry whose requeue lets it go (R65, step 3). -/
theorem drops (ha : TableAgrees s) (hs : Silent s srcOvercommit) (hc : (s.tx m).control = [])
    (ho : ∀ i, i ≠ k → s.classQueue m i = []) (hq : s.classQueue m k = [e])
    (hd : EntryDropped r e (w.setClassQueue m k []) (requeueEntry m k e (w.setClassQueue m k []))) :
    ∃ t, Machine.recompute (protectionRequeue m w) = t ∧
      (∀ l i, t.classQueue l i = if l = m then [] else s.classQueue l i) ∧ Counted s t r 1 ∧
      (t.buffer e.buffer).refs = (s.buffer e.buffer).refs - 1 ∧
      t.bfm.free = s.bfm.free ++ (if (s.buffer e.buffer).refs = 1 then [e.buffer] else []) ∧
      (t.run e.stream).queued = (s.run e.stream).queued - 1 := by
  have hqueue : w.classQueue m k = [e] := (h.classes m k).trans hq
  have hclass (l : Lane) (i : Fin 4) : (w.setClassQueue m k []).classQueue l i = if l = m then [] else s.classQueue l i := by
    rw [State.classQueue_setClassQueue, h.classes]
    by_cases hl : l = m
    · rw [if_pos hl]
      by_cases hi : i = k
      · rw [if_pos ⟨hl, hi⟩]
      · rw [if_neg fun x => hi x.2, hl, ho i hi]
    · rw [if_neg hl, if_neg fun x => hl x.1]
  have hone : requeueClass m k (w.classQueue m k).length w = requeueEntry m k e (w.setClassQueue m k []) := by
    rw [hqueue, List.length_singleton, requeueClass, hqueue]
    rfl
  have hcontrol : ((w.setClassQueue m k []).tx m).control = [] := by rw [control_setClassQueue, h.control, hc]
  generalize requeueEntry m k e (w.setClassQueue m k []) = t at hone hd
  have htx (l : Lane) : t.tx l = (w.setClassQueue m k []).tx l := by rw [State.tx, hd.ltx]; rfl
  have htclass (l : Lane) (i : Fin 4) : t.classQueue l i = if l = m then [] else s.classQueue l i := by
    rw [State.classQueue, htx]
    exact hclass l i
  have hrequeue : protectionRequeue m w = t := by
    rw [← hone]
    refine protectionRequeue_class (fun i hi => (h.classes m i).trans (ho i hi)) (fun i _ => ?_) ?_
    · rw [hone, htclass, if_pos rfl]
    · rw [hone, htx, hcontrol]
  have hlast := h.recompute ha hs (t := t) hd.entries hd.evu
  rw [hrequeue]
  have hbuffer : (w.setClassQueue m k []).buffer e.buffer = s.buffer e.buffer := h.buffer _
  refine ⟨_, rfl, fun l i => (hlast.classQueue l i).trans (htclass l i), ?_, ?_, ?_, ?_⟩
  · refine counted_since (counted_congr hd.counted ?_) ?_
    · rw [counter_eq, counter_eq, hlast.cnt]
    · exact Eq.trans (by cases r <;> rfl) (h.counter r)
  · rw [State.buffer, hlast.bfm]
    exact hd.refs.trans (by rw [hbuffer])
  · rw [hlast.bfm, hd.free, hbuffer, ← h.bfm]
    rfl
  · rw [State.run, hlast.stb]
    refine hd.queued.trans (congrArg (fun x : RunRecord => x.queued - 1) ?_)
    show w.stb.runs.look e.stream = _
    rw [h.stb]
    rfl

/-- The control queue's requeue, whatever state it drops its last entries in (R66). -/
theorem flushes (ha : TableAgrees s) (hs : Silent s srcOvercommit) (ho : ∀ i, s.classQueue m i = []) {room : Nat}
    (hrest : v = { w with ltx := v.ltx }) (hreq : requeueControl m w = (q.drop room).foldl (dropControl m) v)
    (hlen : q.length ≤ 8) (hn : q.Nodup) (hb : ∀ b ∈ q, (s.buffer b).refs = 1) (hw : PoolCanonical s)
    (hfar : Below s (.lane m LaneCounter.txFlush.id) 8192) :
    ∃ t, Machine.recompute (protectionRequeue m w) = t ∧ (∀ l, (t.tx l).control = (v.tx l).control) ∧
      t.bfm.free = s.bfm.free ++ q.drop room ∧ (∀ b ∈ q.drop room, (t.buffer b).refs = 0) ∧
      Counted s t (.lane m LaneCounter.txFlush.id) (q.length - room) ∧ t.mga = s.mga ∧ t.stb = s.stb := by
  have hbfm : v.bfm = s.bfm := by rw [hrest]; exact h.bfm
  have hcnt : v.cnt = s.cnt := by rw [hrest]; exact h.cnt
  have hcounter : v.counter (.lane m LaneCounter.txFlush.id) = s.counter (.lane m LaneCounter.txFlush.id) := by
    rw [counter_eq, counter_eq, hcnt]
  have hdrop : ControlDropped m (q.drop room) v ((q.drop room).foldl (dropControl m) v) := by
    refine foldl_dropControl (fun b hx => ?_) ((List.drop_sublist _ _).nodup hn) ?_ (below_congr (below_mono hfar ?_) hcounter)
    · rw [State.buffer, hbfm]
      exact hb b (List.mem_of_mem_drop hx)
    · rw [PoolCanonical, hbfm]
      exact hw
    · rw [List.length_drop]
      omega
  have hrequeue : protectionRequeue m w = (q.drop room).foldl (dropControl m) v := by
    rw [protectionRequeue, requeueClasses_idle fun i _ => (h.classes m i).trans (ho i), hreq]
  rw [hrequeue]
  generalize (q.drop room).foldl (dropControl m) v = t at hdrop
  have hstb : t.stb = w.stb := by rw [hdrop.frame, hrest]
  have hlast := h.recompute ha hs (t := t) (by rw [hstb]) (by rw [hdrop.frame, hrest])
  refine ⟨_, rfl, fun l => ?_, ?_, fun b hx => ?_, ?_, ?_, hlast.stb.trans (hstb.trans h.stb)⟩
  · rw [hlast.control, hdrop.frame]
    rfl
  · rw [hlast.bfm, hdrop.free, hbfm]
  · rw [State.buffer, hlast.bfm]
    exact hdrop.zero b hx
  · rw [← List.length_drop]
    refine counted_since (counted_congr hdrop.counted ?_) hcounter
    rw [counter_eq, counter_eq, hlast.cnt]
  · rw [hlast.mga, hdrop.frame, hrest]
    exact h.mga

end Fallen

end

end Sys2Proof.Machine
end

section
/-! PROOF SUPPORT. TXFAULT that makes a lane UNUSABLE: its events and its requeue together (R56, R65, R66). -/

namespace Sys2Proof.Machine

open Safety

section
variable {s w : State} {m j : Lane} {k : Fin 4} {e : QueueEntry} {q : List Nat}

/-- The lanes that a control queue can move to (R66). -/
theorem otherLanes (m : Lane) : lanes.filter (fun i => i != m) = [Lane.a, .b, .c].filter (fun i => decide (i ≠ m)) := by
  cases m <;> rfl

theorem requeueLane_popped (n : StreamId) : (w.setClassQueue m k []).requeueLane n = w.requeueLane n :=
  requeueLane_congr (view_setClassQueue _ _ _ _) rfl rfl

namespace Fallen

variable (h : Fallen m s w)

include h

/-- A lone entry with no lane, or whose lane holds a copy, is dropped as a flushed cell. -/
theorem entry_flushed (hr : 1 ≤ (s.buffer e.buffer).refs) (hw : PoolCanonical s) (hc : Below s (.lane m LaneCounter.txFlush.id) 1)
    (hq : requeueEntry m k e (w.setClassQueue m k []) = dropFlushed m e (w.setClassQueue m k [])) :
    EntryDropped (.lane m LaneCounter.txFlush.id) e (w.setClassQueue m k []) (requeueEntry m k e (w.setClassQueue m k [])) := by
  rw [hq]
  exact entryDropped (u := w.setClassQueue m k []) (le_of_le_of_eq hr (congrArg Buffer.refs (h.buffer _)).symm) (by exact h.canonical hw)
    (below_congr hc (h.counter (.lane m LaneCounter.txFlush.id)))

theorem requeueLane_moves (n : StreamId)
    (hp : (s.entry n).plan.get s.psc.effective ∈ [Plan.aThenB, .bThenA, .aThenBThenC])
    (hj : FirstOf (fun l => if l = m then .unusable else s.view l) (planNames ((s.entry n).plan.get s.psc.effective)) j) :
    (w.setClassQueue m k []).requeueLane n = some j := by
  rw [requeueLane_popped]
  exact requeueLane_firstOf (by rw [h.plan]; exact hp) (by rw [h.plan, h.views]; exact hj)

theorem classQueue_popped (hj : j ≠ m) : (w.setClassQueue m k []).classQueue j k = s.classQueue j k := by
  rw [State.classQueue_setClassQueue, if_neg fun x => hj x.1, h.classes]

end Fallen

end

/-- Settles O20: the fall raises one event and leaves a state whose requeue moves or drops each entry in turn. -/
theorem fallenViewRequeues : Obligations.FallenViewRequeues := by
  intro s o m down flush hview
  have hdown : (s.setPins (s.pins.withTxfault o true)).derivedView m = .unusable := derivedView_txfault
  refine ⟨⟨_, rfl, deriveViews_empties hview hdown⟩, ?_⟩
  intro hviews ha hsm hs v isProtected planOf onlyClass
  obtain ⟨w, hw, hfall⟩ := deriveViews_falls (s := s.setPins (s.pins.withTxfault o true)) (m := m) hview hdown
    (fun l hl => (derivedView_txfault_ne hl).trans (hviews l).symm) (silent_congr hsm rfl)
  have hexec : down = .next (recompute (protectionRequeue m w)) := congrArg Host.Outcome.next hfall
  have hs' : Silent (s.setPins (s.pins.withTxfault o true)) srcOvercommit := silent_congr hs rfl
  refine ⟨⟨_, hexec, fallen_views (s := s.setPins (s.pins.withTxfault o true)) hw⟩, ?moves, ?drops, ?control⟩
  case moves =>
    intro k es j hclass hq hfar hp hn hd hroom
    obtain ⟨t, ht, hend⟩ := hw.moves ha hs' hclass.1 hclass.2 hq (below_of_far hfar (by simp)) hp hn hd hroom
    exact ⟨t, ht ▸ hexec, hend⟩
  case drops =>
    intro k e hclass hq hrefs hpool hfar dropped
    have hflush : Below s flush 1 := below_mono (below_of_far hfar (by simp)) (by decide)
    have hends {r : CounterRef} (hd : EntryDropped r e (w.setClassQueue m k []) (requeueEntry m k e (w.setClassQueue m k []))) :
        dropped r := by
      obtain ⟨t, ht, hend⟩ := hw.drops ha hs' hclass.1 hclass.2 hq hd
      exact ⟨t, ht ▸ hexec, hend⟩
    have hagrees : ((w.setClassQueue m k []).entry e.stream).checkAgrees = true := hw.agrees ha e.stream
    have hnoLane (hl : w.requeueLane e.stream = none) : dropped flush :=
      hends (hw.entry_flushed hrefs hpool hflush (requeueEntry_noLane hagrees ((requeueLane_popped _).trans hl)))
    refine ⟨fun hp => hnoLane (requeueLane_unprotected (by rw [hw.plan]; exact hp)),
      fun hu => hnoLane (requeueLane_unusable (by rw [hw.plan, hw.views]; exact hu)), fun j hp hj => ?_⟩
    have hqueue : (w.setClassQueue m k []).classQueue j k = s.classQueue j k :=
      hw.classQueue_popped fun hjm => firstOf_usable hj (if_pos hjm)
    have hlane : (w.setClassQueue m k []).requeueLane e.stream = some j := hw.requeueLane_moves e.stream hp hj
    refine ⟨fun hcopy => ?_, fun hfresh hfull => ?_⟩
    · exact hends (hw.entry_flushed hrefs hpool hflush (requeueEntry_copied hagrees hlane (by rw [hqueue]; exact hcopy)))
    · refine hends ?_
      rw [requeueEntry_full hagrees hlane (by rw [hqueue]; exact hfresh) (by rw [hqueue]; exact hfull)]
      exact entryDropped (u := w.setClassQueue m k []) (le_of_le_of_eq hrefs (congrArg Buffer.refs (hw.buffer _)).symm)
        (by exact hw.canonical hpool) (below_congr (below_mono (below_of_far hfar (by simp)) (by decide)) (hw.counter (.stream e.stream StreamCounter.queueDrop.id)))
  case control =>
    intro q hq hclass hlen hn hb hpool hfar moved
    have hqueue : (w.tx m).control = q := (hw.control m).trans hq
    have hflush : Below s flush 8192 := below_of_far hfar (by simp)
    refine ⟨fun j hj => ?_, fun hu => ?_⟩
    · have hjm : j ≠ m := fun he => firstOf_usable hj (if_pos he)
      have hlane : w.preferred (lanes.filter (fun i => i != m)) = some j :=
        preferred_of_firstOf (by rw [otherLanes, hw.views]; exact hj)
      obtain ⟨t, ht, hcontrol, hend⟩ := hw.flushes ha hs' hclass (by rfl) (requeueControl_moves hjm hqueue hlane) hlen hn hb hpool hflush
      have hroom : 8 - (w.tx j).control.length = 8 - (s.tx j).control.length := by rw [hw.control j]; rfl
      rw [hroom] at hcontrol hend
      refine ⟨t, ht ▸ hexec, ?_, fun l hl hlj => ?_, hend⟩
      · rw [hcontrol, State.setControl, State.tx_setTx_self]
        exact congrArg (· ++ _) (hw.control j)
      · rw [hcontrol, tx_setControl_ne hlj, tx_setControl_ne hl]
        exact hw.control l
    · have hlane : w.preferred (lanes.filter (fun i => i != m)) = none := by
        refine preferred_none fun l hl => ?_
        have hlm : l ≠ m := by simpa using (List.mem_filter.1 hl).2
        exact (hw.view l).trans ((if_neg hlm).trans (hu l hlm))
      obtain ⟨t, ht, -, hend⟩ := hw.flushes (room := 0) ha hs' hclass (by rfl) (requeueControl_flushes hqueue hlane) hlen hn hb hpool hflush
      exact ⟨t, ht ▸ hexec, hend⟩

end Sys2Proof.Machine
end
